-- ==== Sys2Proof/Word.lean ====
section
/-! DEFINITION. The word types of the manual (R3): bytes, 32-bit words, 64-bit words, 64-byte flits. -/

namespace Sys2Proof

/-- One byte. -/
abbrev Byte := BitVec 8
/-- A word is 32 bits (R3). -/
abbrev Word := BitVec 32
/-- A 64-bit value: a scalar register, a sync word, a register pair. -/
abbrev DWord := BitVec 64
/-- A flit of 64 bytes (R254), byte 0 in bits 7:0. -/
abbrev Flit := BitVec 512

/-- The byte with a given value modulo 256. -/
abbrev byte (n : Nat) : Byte := BitVec.ofNat 8 n
/-- The 32-bit word with a given value modulo 2^32. -/
abbrev word (n : Nat) : Word := BitVec.ofNat 32 n
/-- The 64-bit value with a given value modulo 2^64. -/
abbrev dword (n : Nat) : DWord := BitVec.ofNat 64 n

end Sys2Proof
end

