-- ==== Sys2Proof/Syntax.lean ====
section
/-! DEFINITION. The commands of the block: one constructor of Instr for each row of spec/opcode_table.json,
with the operands that the model gives the row. A row that acts on a unit names the unit; a row whose data come
from outside the device (a bus write, a received group, a measurement) carries them. -/

namespace Sys2Proof

/-- The six issue queues of a tile (R79): scalar, vector, matrix, load, store, synchronisation. -/
inductive Queue where
  | sc | ve | mx | ld | st | sy
  deriving DecidableEq, Repr

/-- Who makes a register access: function `fn` of host port `hp` (0 the PF, n the VFn, R448), or the sideband. -/
inductive Accessor where
  | host (hp fn : Nat)
  | sideband
  deriving DecidableEq, Repr

/-- What the error check of a memory read finds (R182, R184, R188): nothing, the number of sectors or transfers corrected, or the
first sector or transfer of the read that cannot be corrected. -/
inductive EccEvent where
  | clean
  | corrected (n : Nat)
  | uncorrectable (first : Nat)
  deriving DecidableEq, Repr

/-- One group of a link as it reaches the receive pins: the flits by position, and the 21-byte trailer (R294, R295). DESIGN CHOICE (log entry 5). -/
structure Group where
  flits   : List (Nat × Flit)
  trailer : BitVec 168
  deriving DecidableEq, Repr

/-- What a reference measured over one 10 us window (R236, Table 8.5). DESIGN CHOICE (log entry 5). -/
structure RefWindow where
  /-- rms period jitter, in femtoseconds -/
  jitter : Nat
  /-- duty cycle, in thousandths -/
  duty   : Nat
  /-- frequency offset from the active reference, in parts per billion, unsigned magnitude -/
  offset : Nat
  deriving DecidableEq, Repr

/-- The outcome of a bring-up stage (R517, R520): the units that failed training or calibration in it, the Hearth
boot's findings for stage 3 and the Cellar's population for stage 6. -/
structure StageResult where
  failedStacks   : List Nat
  failedCellar   : List Nat
  failedDoors    : List Nat
  /-- Hearth's known-answer tests of its own engines passed (Table 17.3 stage 1) -/
  hearthKat      : Bool
  /-- virtual functions that the host has enabled on HP0 and HP1 (R448), for stage 5 -/
  vfs0           : Nat
  vfs1           : Nat
  /-- channels found populated, and the DIMM capacity code DSZ (Tables 6.8, 6.9) -/
  chpop          : Nat
  dsz            : Nat
  deriving DecidableEq, Repr

/-- The serving and Pantry registers whose writes wait for the next commit (R380). -/
inductive ServReg where
  | tgt (n : Nat) | cfg | pgCfg | peer (n : Nat)
  | oringBase (hp : Nat) | oringWpaddr (hp : Nat) | oqBase (hp : Nat) | oringRp (hp : Nat)
  deriving DecidableEq, Repr

/-- The rows of the table of operations and events. -/
inductive Instr where
  /-- In a plan beat the front end decodes one Shale word, checks it, samples its predicate, applies holds and interlocks, and sends its operations to their queues (R82). -/
  | shaleWordDecode (t : Nat)
  /-- An issued operation's latency elapses, and its results and barrier-bit set become visible (R85). -/
  | operationComplete (t : Nat) (q : Queue)
  /-- The scalar no-op issues and has no effect (R138). -/
  | snop (t : Nat)
  /-- Loads a destination scalar register with a sign-extended 32-bit immediate (R139). -/
  | li (t : Nat)
  /-- Writes the high 32 bits of a scalar register and keeps its low half (R139). -/
  | lih (t : Nat)
  /-- Adds two scalar operands modulo 2^64 (R140). -/
  | add (t : Nat)
  /-- Subtracts two scalar operands modulo 2^64 (R140). -/
  | sub (t : Nat)
  /-- Bitwise AND of two scalar operands (R140). -/
  | and (t : Nat)
  /-- Bitwise OR of two scalar operands (R140). -/
  | or (t : Nat)
  /-- Bitwise XOR of two scalar operands (R140). -/
  | xor (t : Nat)
  /-- Shifts a scalar left by b[5:0] (R140). -/
  | shl (t : Nat)
  /-- Shifts a scalar right by b[5:0], filling with zeros (R140). -/
  | shr (t : Nat)
  /-- Shifts a scalar right arithmetically by b[5:0], filling with bit 63 (R140). -/
  | sar (t : Nat)
  /-- Writes the low 64 bits of the product of two scalars, with a latency of 3 b (R140). -/
  | mul (t : Nat)
  /-- Writes a predicate p0-p11 with the result of a scalar comparison (R140). -/
  | setp (t : Nat)
  /-- Writes a predicate with a logical combination of two predicates (R139). -/
  | plog (t : Nat)
  /-- Opens a counted loop over the next B words, or passes over them when the counter is 0 (R96). -/
  | loop (t : Nat)
  /-- Loads a loop counter with a 32-bit immediate at decode (R96). -/
  | cnti (t : Nat)
  /-- Configures or disables a comparator that drives one of p12-p15 (R94). -/
  | cmpc (t : Nat)
  /-- Lane-wise vector addition, rounded once to TYPE (R144). -/
  | vadd (t : Nat)
  /-- Lane-wise vector subtraction (R144). -/
  | vsub (t : Nat)
  /-- Lane-wise vector multiplication (R144). -/
  | vmul (t : Nat)
  /-- Lane-wise fused multiply-add VD = VA x VB + VD with one rounding (R144). -/
  | vfma (t : Nat)
  /-- Lane-wise maximum, ordering -0 below +0, with canonical NaN on a NaN input (R144). -/
  | vmax (t : Nat)
  /-- Lane-wise minimum (R144). -/
  | vmin (t : Nat)
  /-- Multiplies every lane by the FP32 value held in a scalar register (R144). -/
  | vscl (t : Nat)
  /-- Computes one of the functions of Table 5.6 lane-wise, correctly rounded (R146). -/
  | vfn (t : Nat)
  /-- Reduces each vector to one FP32 sum by a pairwise tree, or to its maximum (R145). -/
  | vred (t : Nat)
  /-- Converts vectors to another element format and packs them densely (R147). -/
  | vcvt (t : Nat)
  /-- Converts slab accumulator rows and writes them to the operand store (R148). -/
  | vslb (t : Nat)
  /-- Loads slab rows from RAW128 or RAW64 data in slab or float mode, with slab-fault checks (R150). -/
  | vsld (t : Nat)
  /-- Clears one slab set or both (R123). -/
  | vsclr (t : Nat)
  /-- Issues an outer-product run of n k-steps into a slab set, with matrix-fault checks (R129). -/
  | mxr (t : Nat)
  /-- Runs the 32-beat ballast ramp and leaves the matrix engine warm (R131). -/
  | warm (t : Nat)
  /-- Sets the weight ring blocks of the operand store (R114). -/
  | mxcfg (t : Nat)
  /-- Copies Loft bytes to the operand store (R155). -/
  | ldl (t : Nat)
  /-- Reads Landing slots into the operand store and checks their arrival tags (R157). -/
  | ldg (t : Nat)
  /-- Reads Marl blocks into the operand store or the Loft, with optional address increment (R156). -/
  | ldm (t : Nat)
  /-- Loads a scalar register from the Loft (R155). -/
  | lds (t : Nat)
  /-- Fills, and optionally locks, instruction-cache lines from Marl (R101). -/
  | fetch (t : Nat)
  /-- Stores operand-store data to the Loft, optionally through the digest path (R155). -/
  | stl (t : Nat)
  /-- Converts slab rows and writes them to the Loft (R148). -/
  | sta (t : Nat)
  /-- Sends slots on a plan path to the Landing of a tile on the same die (R159). -/
  | stn (t : Nat)
  /-- Stages a departure-table entry in the port's departure buffer (R159). -/
  | std (t : Nat)
  /-- Writes operand-store or Loft data to Marl (R156). -/
  | stm (t : Nat)
  /-- Stores a scalar register to the Loft (R155). -/
  | sts (t : Nat)
  /-- Adds to a sync word locally or through a remote flagged signal (R161). -/
  | sadd (t : Nat)
  /-- Writes a sync word locally or through a remote signal (R161). -/
  | sset (t : Nat)
  /-- Compares and swaps a sync word locally or through a remote signal (R161). -/
  | scas (t : Nat)
  /-- Waits until a sync word is at least a value, by polling or by monitor (R327). -/
  | swge (t : Nat)
  /-- Waits until a sync word equals a value (R327). -/
  | sweq (t : Nat)
  /-- Arrives at a Rafter barrier, adding 1 to UPW and to the tile's ARR (R338). -/
  | rbar (t : Nat)
  /-- Waits until the barrier generation reaches the tile's arrival count (R338). -/
  | rwait (t : Nat)
  /-- Arrives at, or waits on, a mask barrier (R343). -/
  | mbar (t : Nat)
  /-- After 64 non-active clock beats the matrix engine becomes cold (R130). -/
  | engineCold (t : Nat)
  /-- An inserted 32-beat ramp ends, and the MXR that caused it issues at full rate (R132). -/
  | insertedRampEnd (t : Nat)
  /-- Missing instruction-cache lines arrive in a reserved code-fetch position, and decode resumes (R104). -/
  | icacheMissFill (t : Nat)
  /-- A write to a watched line notifies a monitor entry, which may satisfy a waiting SY operation (R330). -/
  | monitorNotify (t : Nat)
  /-- A polling wait rereads its word, each plan beat for a Loft word or every 256 t for a Marl word (R329). -/
  | syncPollRead (t : Nat)
  /-- An RWAIT completes within 40 t of the increase of GENW (R338). -/
  | rafterRelease (t : Nat)
  /-- When ARRIVED equals MASK, PH advances and waiting MBARs complete (R343). -/
  | maskBarrierRelease (p mid : Nat)
  /-- At the first beat edge at or after T + START + 2 t the tile begins plan beat 0 of the next course, after the boundary checks (R44). -/
  | courseStart (t : Nat)
  /-- In a maintenance beat a tile runs the next known-answer segment and raises a known-answer fault on a mismatch (R510). -/
  | katSegment (t : Nat) (pass : Bool)
  /-- At the completion tick of a plan without step shapes, decoding and departures end, and the plan becomes complete (R45). -/
  | planCompletion (p : Nat)
  /-- A droop detector fires, and the Room stretches its next beat, or raises an alarm at the third droop (R225). -/
  | droopDetect (r level : Nat)
  /-- A Room applies an announced stretch of another Room to its beat SBN n + 5 (R226). -/
  | stretchEcho (r : Nat)
  /-- The alarm reaches a Room, which stretches its next beat by 50% and begins a die-wide step-down (R227). -/
  | alarmArrival (r : Nat)
  /-- After 1,024 stepped-down clock beats a Room's step-down ends (R228). -/
  | stepdownEnd (r : Nat)
  /-- At each Mantel tick that is a multiple of 4,096 every Room restarts its stretch count SBN at 0 (R224). -/
  | sbnRestart (r : Nat)
  /-- A crossing word held at a Doorway is written in destination beat BN m + 9, with its parity checked (R231). -/
  | doorwayWordWrite (door : Nat) (parityOk : Bool)
  /-- A slot sent by STN is written with its tag in the receiving Room's beat m plus the travel total (R47). -/
  | onDieLandingWrite (t : Nat)
  /-- At a departure tick the port sends the staged packet, or sends nothing and raises a departure-miss fault (R55). -/
  | departureSend (port : Nat)
  /-- A plan LANDING packet that has passed its link check writes its slots and tags, or is dropped (R269). -/
  | landingPacket (port : Nat)
  /-- With the hazard detector enabled, a held off-die landing is written at its scaled A_late and recorded (R64). -/
  | hazardLandingRelease (port : Nat)
  /-- A forwarded plan packet leaves 180 t after arrival in its grid positions, or joins the link-position queue if late (R274). -/
  | planPacketForward (port : Nat)
  /-- A service packet starts on an egress port in free open positions once its channel holds credits (R261). -/
  | servicePacketEgress (port : Nat)
  /-- A transit service packet is routed by its generation's table, with HOPS decremented, or dropped with an error completion (R273). -/
  | servicePacketForward (port vc : Nat)
  /-- A WRITE packet writes its payload at ADDR, or is blocked, and a WRITE_CPL is returned (R270). -/
  | writePacket (ing vc : Nat)
  /-- A READ packet reads RLEN flits from ADDR and returns them in a READ_RSP (R266). -/
  | readPacket (ing vc : Nat)
  /-- A READ_RSP writes its data at the requester's return address (R266). -/
  | readRspPacket (ing vc : Nat)
  /-- A write completion is delivered to its requester (R270). -/
  | writeCplPacket (ing vc : Nat)
  /-- An error completion is delivered to its requester, and raises a signal-loss or barrier fault where its TAG marks it (R272). -/
  | errCplPacket (ing vc : Nat)
  /-- A SIG SADD adds OPA to the addressed word, notifying monitors and driving Rafter barrier counting (R266). -/
  | saddPacket (ing vc : Nat)
  /-- A SIG SSET writes OPA to the addressed word (R266). -/
  | ssetPacket (ing vc : Nat)
  /-- A SIG SCAS writes OPB if the word equals OPA (R266). -/
  | scasPacket (ing vc : Nat)
  /-- A SIG MSG writes its payload at ADDR (R266). -/
  | msgPacket (ing vc : Nat)
  /-- A flagged NULL takes part only in ordering at its destination (R286). -/
  | nullPacket (ing vc : Nat)
  /-- A flagged packet or tally held for 60,000 t closes its source's intervals with status 0x6 (R288). -/
  | vestibuleTimeout (src : Nat)
  /-- A group's trailer arrives, the group is checked, and its flits are accepted, discarded or recorded as lost (R297). -/
  | linkGroupReceive (port : Nat) (g : Group) (fecOk : Bool)
  /-- A control flit's acknowledgements, loss ranges and credits are applied, queueing plan replays (R299). -/
  | controlFlitReceive (port : Nat)
  /-- A time request arrives, and the device replies with T2, T3 and PTRK (R240). -/
  | timeRequestReceive (port t2 : Nat)
  /-- A time reply yields theta and the cable delay, driving discipline and the cable-delay checks (R240). -/
  | timeReplyReceive (port t1 t4 : Nat)
  /-- Every 1 ms an UP link starts a timestamp exchange (R240). -/
  | timeExchangeTimer (port : Nat)
  /-- An arm is checked, forwarded to the children, and acked with a non-zero status at once if a check fails (R249). -/
  | launchArmReceive (port : Nat)
  /-- A child's ack is collected, forwarded, or leads the root to send the confirm (R249). -/
  | launchAckReceive (port : Nat)
  /-- A confirm is held and flooded on every other plan link (R249). -/
  | launchConfirmReceive (port : Nat)
  /-- At T - 20,000 - F a root without all its acks sends no confirm (R249). -/
  | launchConfirmDeadline (p : Nat)
  /-- At T - 20,000 a device holding arm and confirm is set to fire, and any other device abandons the arm (R249). -/
  | launchCutoff (p : Nat)
  /-- At T the launched plan is running, and the root writes the fired reply (R461). -/
  | launchFire (p : Nat)
  /-- A retrain request from the peer takes the port into RETRAIN and discards its plan state (R316). -/
  | retrainRequestReceive (port : Nat)
  /-- A replay position sends the head of the link-position queue, or a control flit (R296). -/
  | replayPositionSend (port : Nat)
  /-- 1,500 t after the oldest unacknowledged service flit, the sender re-sends every unacknowledged service flit go-back-N (R303). -/
  | serviceReplayTimeout (port : Nat)
  /-- A plan flit still unacknowledged 1,500 t after it was sent joins the link-position queue (R311). -/
  | planReplayTimeout (port : Nat)
  /-- Credits outstanding with no return for 100 us take the link DOWN with cause 0x6 (R305). -/
  | creditTimeout (port vc : Nat)
  /-- FEC lock or signal lost for 1 us takes the port into RETRAIN (R315). -/
  | fecLockLost (port : Nat)
  /-- Training stages finish, and the port goes UP with the cable delay measured (R315). -/
  | trainingComplete (port delay peer : Nat)
  /-- Training not complete by 100 ms takes the port DOWN with cause 0x9 (R315). -/
  | trainingTimeout (port : Nat)
  /-- A retrain attempt completes, and the port returns to UP and re-sends unacknowledged service flits (R316). -/
  | retrainComplete (port delay : Nat)
  /-- A retrain attempt not complete in 50 us starts a second attempt, or takes the port DOWN after two failures (R315). -/
  | retrainAttemptTimeout (port : Nat)
  /-- Each second, a DOWN port with EN and AUTO set starts training (R315). -/
  | autoTrainTick (port : Nat)
  /-- A DOWN port with EN = 1 detects a training peer and enters TRAIN (R315). -/
  | peerTrainingDetect (port : Nat)
  /-- A Marl channel position carries a re-send, a plan block or a service block, and checks its CRC on arrival (R172). -/
  | marlPositionTransfer (stk ch : Nat) (crcOk : Bool) (ecc : EccEvent)
  /-- A failed block is sent again in the first position 6 t after the failure, and a second failure raises a Marl transfer fault (R179). -/
  | marlBlockResend (stk ch : Nat) (crcOk : Bool) (ecc : EccEvent)
  /-- A channel's refresh window begins, and the stack refreshes or serves service blocks (R173). -/
  | marlRefreshWindow (stk ch : Nat) (katPass : Bool)
  /-- A stack crossing 85 C or falling below 80 C changes its refresh rate at the next window (R174). -/
  | stackTempChange (stk temp : Nat)
  /-- In service blocks a stack reads each sector and writes back corrected sectors (R183). -/
  | patrolScrub (stk sector : Nat) (ecc : EccEvent)
  /-- A corrected Loft word is written back in a beat in which the write port is idle (R184). -/
  | loftEccWriteback (t : Nat)
  /-- A buffered service write enters the Loft in a beat in which the fill port carries no LD response (R78). -/
  | loftServiceWrite (t : Nat)
  /-- The Porch dies refresh the Cellar as DDR5 requires (R189). -/
  | cellarRefresh (ch : Nat)
  /-- At T_s the sweep sequencer reads the manifest, the page tables and the queries, checks each engine load against W, and starts the sweep (R205). -/
  | sweepStart (stk : Nat)
  /-- A sweep has folded all partials and written its result records (R206). -/
  | sweepComplete (stk : Nat)
  /-- At T_s + DEADLINE a sweep with a record still unwritten raises a sweep-deadline fault (R217). -/
  | sweepDeadline (stk : Nat)
  /-- At C_k the lead checks and applies the step's results, applies cancels and transitions, writes output records and starts composition (R354). -/
  | stepCommit (p : Nat)
  /-- The composer runs its passes, chooses the shape, pauses requests and writes the manifest within 34,000 t (R366). -/
  | stepCompose (p : Nat)
  /-- At the last beat of the head course each member reads the manifest header, checks it and instantiates the shape's courses (R369). -/
  | manifestRead (p : Nat)
  /-- The lead's Pantry extends request allocations in priority order once units are free (R372). -/
  | pantryAllocExtend (p : Nat)
  /-- The lead orders a demoted request's pages back to their engines once every member has free units (R374). -/
  | pantryPromote (p : Nat)
  /-- A member's Pantry takes an order MSG from its order area and carries it out (R377). -/
  | pantryOrderReceive (p : Nat)
  /-- The lead takes a member's confirmation of an order (R377). -/
  | pantryConfirmReceive (p : Nat)
  /-- The device copies output records into the host ring as it has room and advances SRV_ORING_WP (R379). -/
  | outputRingCopy (p hp : Nat)
  /-- A member receives a distribution descriptor and accepts or refuses the distribution (R411). -/
  | wdDescriptorArrival (p : Nat)
  /-- A member forwards stream bytes that ARRW covers to its successor's ring, within the ACKW window (R410). -/
  | wdStreamForward (p : Nat)
  /-- The Scullery decodes, quantises and re-lays out a kept piece into its target area (R414). -/
  | wdPieceConvert (p : Nat)
  /-- The head receives a member's distribution report, and replies once every position has reported (R419). -/
  | wdReportReceive (p : Nat)
  /-- With ARRW or ACKW unchanged for DTMO a member reports status 0x2 or 0x3 (R419). -/
  | wdDtmoTimeout (p : Nat)
  /-- DTMO after its last byte, the head replies, listing the positions without a report (R420). -/
  | wdHeadTimeout (p : Nat)
  /-- A member receives a swap query or schedule order and confirms it with its status (R421). -/
  | wswapOrderReceive (p : Nat)
  /-- The lead receives a member's swap confirmation, and the swap fails on a non-zero status (R421). -/
  | wswapConfirmReceive (p : Nat)
  /-- At W_l every stack begins copying the layer from STAGE to LIVE by row copy (R424). -/
  | weightRewriteStart (p layer : Nat)
  /-- When every stack of a layer has finished, the member sets LGEN and LDIG, and sets CUR after the last layer (R424). -/
  | rowCopyDone (p layer stk : Nat) (ecc : EccEvent)
  /-- At B_{k+1} the device sums the tile partials into device digests and writes the log records (R440). -/
  | layerDigestClose (p : Nat)
  /-- A twin's digest record lands in the inbox and is compared with the device's own record (R443). -/
  | twinRecordReceive (p : Nat)
  /-- A fault notice halts the partition and is relayed once on every plan link (R503). -/
  | faultNoticeReceive (p : Nat)
  /-- Within 100 us of its halt a device sends its halt report to the root's collector (R504). -/
  | haltReportSend (p : Nat)
  /-- The root updates the job summary with an arriving halt report (R504). -/
  | haltReportReceive (p : Nat)
  /-- A halted tile's drain ends when no queue head can issue, and its remaining queued operations are abandoned (R501). -/
  | tileDrainEnd (t : Nat)
  /-- Within 20 us of a halt the device collects the partition's hang record (R505). -/
  | hangRecordCollect (p : Nat)
  /-- A targeted self-test runs on a resource that showed an error, and the device repairs or retires the resource on a fail (R508). -/
  | selfTestRun (kind idx : Nat) (pass : Bool)
  /-- W or S receives its partner's course digest and updates MATCH and VERIFIED (R513). -/
  | shadowDigestReceive (p : Nat)
  /-- W receives S's promotion request and acknowledges it (R514). -/
  | shadowPromoteRequestReceive (p : Nat)
  /-- S receives W's acknowledgement of a promotion request (R514). -/
  | shadowAckReceive (p : Nat)
  /-- At the pinned start of K both devices write ROLEW: S becomes active and W silent (R514). -/
  | shadowRoleSwitch (p : Nat)
  /-- At FAB_ACT_AT the staging bank becomes active with generation NEXT (R281). -/
  | routeActivate
  /-- 50,000 t after activation the previous generation is retired (R281). -/
  | routeRetire
  /-- Each 10 us window of a reference is judged against the limits, driving good/bad status, failover and holdover (R236). -/
  | refclkWindowEnd (ref : Nat) (w : RefWindow)
  /-- Three consecutive missing periods make a reference bad at once (R237). -/
  | refclkMissingEdges (ref : Nat)
  /-- With REVERT = 1 the generator returns to the preferred reference 10 s after it is good again (R237). -/
  | refRevertTimeout
  /-- 3 ms without an exchange from the parent moves the device to the alternate parent or into HOLDOVER (R243). -/
  | parentSilenceTimeout
  /-- 10 ms in HOLDOVER raises a time fault against every partition with a loaded plan (R242). -/
  | holdoverLimit
  /-- At tick R a paused partition restarts its course, with every later time shifted by D (R462). -/
  | resumeRestart (p : Nat)
  /-- A SYNC_WAIT whose TMO expires is answered with status 0x0C (R463). -/
  | hostSyncWaitTimeout (i : Nat)
  /-- A completed reply is written to the function's reply ring when it has room and EN = 1 (R455). -/
  | replyRingWrite (hp fn : Nat)
  /-- A DMA_COPY's last byte is moved, and its reply is formed (R459). -/
  | dmaCopyDone (hp : Nat) (ecc : EccEvent)
  /-- Units under clear finish clearing, are bound to TPART, and the BIND replies (R477). -/
  | bindClearDone
  /-- The boot-flash write of FW_UPDATE ends, and the command replies (R482). -/
  | fwFlashWriteDone (ok : Bool)
  /-- 10 ms after a successful FW_UPDATE reply in the recovery ROM, the device resets (R483). -/
  | recoveryRomReset
  /-- PWR_OK assertion releases reset and starts bring-up (R517). -/
  | powerGood
  /-- A bring-up stage ends, and the next stage starts or a failed unit is retired (R517). -/
  | bringupStageDone (r : StageResult)
  /-- PERST# deassertion samples the width strap and starts the host port's link training (R518). -/
  | perstDeassert (hp : Nat) (x8 : Bool)
  /-- PWR_OK deassertion resets the device, and every plan and memory content is lost (R538). -/
  | pwrOkDeassert
  /-- A rail outside its limits for 2 us resets the device and asserts SYS_FAULT# (R538). -/
  | railFault (rail : Nat)
  /-- A junction at 120 C or a stack at 105 C asserts THERMTRIP# and resets the device (R545). -/
  | thermalTrip (src stk : Nat)
  /-- PWR_OK still asserted 1 s after OFF_REQ# leaves the device quiesced until PWR_OK is cycled (R539). -/
  | offRequestTimeout
  /-- A BAR0 write stores packet words and submits the packet when it covers word LEN - 1 (R451). -/
  | commandSlotWrite (hp fn off : Nat) (bytes : List (BitVec 8))
  /-- A packet with an undefined OPC is rejected with status 0x01 (R454). -/
  | undefinedCommand
  /-- Does nothing and replies on taking (R453). -/
  | nop
  /-- Starts a copy between host memory and a local range of the partition (R459). -/
  | dmaCopy
  /-- Checks a plan image and loads it into the partition, or refuses it with no side effect (R460). -/
  | planLoad
  /-- Discards a loaded plan that is not running (R460). -/
  | planUnload
  /-- Starts a launch on the root by sending the arm down the launch tree (R461). -/
  | launch
  /-- Cancels a pending launch before the root sends the confirm (R461). -/
  | launchCancel
  /-- Schedules the partition's pause at the first course start at or after P (R462). -/
  | pause
  /-- Schedules a paused partition to restart at tick R (R462). -/
  | resume
  /-- Halts the partition if needed, collects the hang record, removes its work and replies (R506). -/
  | ctxReset
  /-- Host wait on a sync word of the partition, with a timeout (R463). -/
  | syncWait
  /-- Host SADD or SSET on a sync word, returning its prior value (R463). -/
  | syncOp
  /-- Checks a request record image and, if accepted, queues the request (R358). -/
  | srvSubmit
  /-- Cancels a request at the next commit (R360). -/
  | srvCancel
  /-- Returns a done request record to idle (R464). -/
  | srvRelease
  /-- Makes a Larder slot loading for an adapter of the given length and digest (R399). -/
  | ldrLoad
  /-- Retires a Larder slot, which empties once its REFC reaches 0 (R401). -/
  | ldrRetire
  /-- Starts a weight distribution from the head along the described chain (R409). -/
  | wdist
  /-- Starts a weight swap to G' through the weight barrier, or copies at once with no plan running (R421). -/
  | wswap
  /-- Returns the logical number and retirement state of a physical unit under device debug (R468). -/
  | dbgPhys
  /-- Starts clearing the named units and binding them to a target partition, or leaves them unbound (R477). -/
  | bind
  /-- Writes the partition's key digest and ends its partition debug unlock (R488). -/
  | pkeySet
  /-- Writes a signed attestation report to host memory (R486). -/
  | attest
  /-- Writes the DeviceID or Alias certificate to host memory (R485). -/
  | certGet
  /-- Returns a fresh debug challenge nonce for a level and partition (R490). -/
  | dbgChal
  /-- Checks a signed debug token against the current challenge and grants the unlock (R490). -/
  | dbgUnlock
  /-- Ends a debug unlock of the given level and partition (R491). -/
  | dbgLock
  /-- Verifies a firmware image and starts writing it to the boot flash (R482). -/
  | fwUpdate
  /-- Fuses a lifecycle transition that takes effect at the next reset (R489). -/
  | lcAdvance
  /-- Moves the device to a power state if that state's entry condition holds (R494). -/
  | pwrSet
  /-- Raises the fused SVN floor to the running image's SVN (R483). -/
  | svnCommit
  /-- Writes the partition's latest hang record to host memory (R505). -/
  | hangGet
  /-- Runs a self-test on a named unit and reports pass or fail (R508). -/
  | selftest (pass : Bool)
  /-- Writes the retirement list to host memory (R509). -/
  | retireGet
  /-- Makes the spare S shadow the working device W for the next job (R512). -/
  | shadowStart
  /-- Asks for S to take over W's work at course K (R514). -/
  | shadowPromote
  /-- Ends shadowing (R512). -/
  | shadowStop
  /-- Sideband status message returning bring-up, boot, power state and identity words (R530). -/
  | sbStatus
  /-- Sideband telemetry message returning temperatures, power and tokens (R530). -/
  | sbTelemetry
  /-- Sideband read of a local register with device-owner access (R530). -/
  | sbRegisterRead (addr : Nat)
  /-- Sideband write of a local register with device-owner access (R531). -/
  | sbRegisterWrite (addr : Nat) (v : BitVec 64)
  /-- Sideband write of the power budget, returning PWR_BUDGET and BUDGET_REJ (R69). -/
  | sbBudget (avg peak : Nat)
  /-- Sideband message returning a partition's fault state and job summary (R530). -/
  | sbFaultSummary (p : Nat)
  /-- Sideband message returning one fault record of a partition (R530). -/
  | sbFaultRecord (p n : Nat)
  /-- Sideband request for a power transition under the PWR_SET rules (R494). -/
  | sbPowerState (st : Nat)
  /-- Sideband device reset restarting bring-up at stage 3 with PERST# effects on both host ports (R531). -/
  | sbDeviceReset
  /-- A BAR4 access reaches CMD_AP_BASE + offset with the host-aperture outcome of Table 6.2 (R469). -/
  | hostApertureAccess (hp fn off size : Nat) (wr : Option (List (BitVec 8)))
  /-- A power budget write is accepted if the loaded plans fit it, else BUDGET_REJ is set (R69). -/
  | pwrBudgetWrite (acc : Accessor) (v : BitVec 32)
  /-- Configures the hazard detector, effective at the partition's next launch (R65). -/
  | tilHzdCtlWrite (acc : Accessor) (v : BitVec 32)
  /-- Arms a route generation activation at FAB_ACT_AT, or refuses it and sets REJ (R281). -/
  | fabGenArm (acc : Accessor) (v : BitVec 32)
  /-- Sets the device ID, ignored while any plan is loaded (R283). -/
  | fabDevidWrite (acc : Accessor) (v : BitVec 32)
  /-- Applies the Mantel and wall-clock pair together (R246). -/
  | mntWcCommit (acc : Accessor) (v : BitVec 32)
  /-- Enables or configures time discipline, entering ACQUIRE, TRACK or UNLOCKED (R241). -/
  | mntTdCtlWrite (acc : Accessor) (v : BitVec 32)
  /-- Starts training a DOWN port (R315). -/
  | lnkCtlTrain (acc : Accessor) (port : Nat) (v : BitVec 32)
  /-- Takes an UP port into RETRAIN with cause 0x3 (R315). -/
  | lnkCtlRetrain (acc : Accessor) (port : Nat) (v : BitVec 32)
  /-- Takes a port DOWN with cause 0x7 (R315). -/
  | lnkCtlForcedn (acc : Accessor) (port : Nat) (v : BitVec 32)
  /-- Enables a port, or with EN = 0 takes it DOWN with cause 0x7 (R315). -/
  | lnkCtlEnWrite (acc : Accessor) (port : Nat) (v : BitVec 32)
  /-- Squelches the port's transmitter and takes the link DOWN with cause 0x8 (R291). -/
  | fabFenceEfence (acc : Accessor) (port : Nat) (v : BitVec 32)
  /-- Makes the port drop every packet at ingress and send none (R291). -/
  | fabFenceLfence (acc : Accessor) (port : Nat) (v : BitVec 32)
  /-- Sets the partition's launch tree, ignored while a launch is armed, confirmed or running (R252). -/
  | mntLtCfgWrite (acc : Accessor) (p : Nat) (v : BitVec 32)
  /-- Sets the twin device or inbox, ignored while a plan of the partition is loaded (R442). -/
  | srvTwinWrite (acc : Accessor) (p : Nat) (base : Bool) (v : BitVec 64)
  /-- A serving or Pantry register write takes effect at the next commit, or is refused with CFG_REJ (R380). -/
  | servingConfigWrite (acc : Accessor) (p : Nat) (r : ServReg) (v : BitVec 64)
  /-- Sets the step area, refused if misplaced or any record is not idle (R383). -/
  | srvStepBaseWrite (acc : Accessor) (p : Nat) (v : BitVec 64)
  /-- A write of 0 to STATE returns a failed swap to idle (R427). -/
  | srvWswapStatClear (acc : Accessor) (p : Nat) (v : BitVec 32)
  /-- Sets the reply ring size and enable, and EN = 1 resets WP and RP (R474). -/
  | cmdRringCfgWrite (hp fn : Nat) (v : BitVec 32)
  /-- Advances the reply ring read pointer, ignored when out of range (R474). -/
  | cmdRringRpWrite (hp fn : Nat) (v : BitVec 32)
  /-- Moves the memory aperture base for later accesses (R469). -/
  | cmdApBaseWrite (hp fn : Nat) (v : BitVec 64)
  /-- Runs full Marl training and Doorway calibration from reduced service, then retrains the ports (R523). -/
  | pwrBrgCtlFullreq (acc : Accessor)
  /-- Enables a presentation map applied at the next device reset (R526). -/
  | pwrPresentWrite (acc : Accessor) (v : BitVec 32)
  /-- A write to a register without a row of its own stores or clears its fields as its access code allows (R5). -/
  | registerWrite (acc : Accessor) (addr : Nat) (v : BitVec 64)
  /-- At each control position the transmitter sends a control flit carrying SACK, PACK, loss ranges, credit counts and any pending message, followed by the group trailer (R296). -/
  | controlPositionSend (port : Nat)
  /-- A PLAN_LOAD in progress finishes writing its blocks, sync words and preloads, the plan becomes loaded, and the reply is written (R460). -/
  | planLoadDone (p : Nat)
  /-- A context reset finishes removing the partition's work, FLT_PSTAT leaves resetting, and the reply and any second CTX_RESET are answered (R506). -/
  | contextResetDone (p : Nat)
  /-- Assertion of PERSTn# resets the host port, and its outstanding commands are dropped without replies (R531). -/
  | perstAssert (hp : Nat)
  /-- VDD_AUX crossing its 1.600 V power-on threshold resets the whole device and records reset cause 0b000 (R540). -/
  | vddAuxPowerOnReset
  /-- A read of the low word of MNT_COUNT latches the high word for the following read (R238). -/
  | mntCountLowRead (acc : Accessor)
  /-- Every 1 ms the device updates temperatures, power averages and token peaks, and counts PWR_TWARN while a junction or stack is above its limit (R530). -/
  | telemetryUpdate (core porchA porchB : Nat) (stkTemps : List Nat) (avg1ms avg1s : Nat)
  deriving DecidableEq, Repr

end Sys2Proof
end

