-- ==== Sys2Proof/Decode.lean ====
section
/-! DEFINITION. The table of operations and events gives none of its rows any bits: the rows are events of the block,
and no word spells one of them. -/

namespace Sys2Proof

/-- The command that a word spells by the table's bits: none, since no row has bits. DESIGN CHOICE (log entry 4). -/
def decodeTableWord (_nbits _w : Nat) : Option Instr := none

end Sys2Proof
end

