-- ==== Sys2Proof/Machine/Store.lean ====
section
/-! DEFINITION. Sparse stores: a list of keys and values in strictly rising key order, with one value that every
unlisted key reads as. Memories, register files and arrays of units are kept so. -/

namespace Sys2Proof.Machine

/-- A sparse store from keys to values; an unlisted key reads as the store's default. -/
abbrev SMap (α : Type) := List (Nat × α)

/-- The value listed for a key, if any. -/
def SMap.find {α : Type} : SMap α → Nat → Option α
  | [], _ => none
  | (j, w) :: r, k => if k = j then some w else SMap.find r k

/-- The value of a key; `d` where it is unlisted. -/
def SMap.get {α : Type} (d : α) (m : SMap α) (k : Nat) : α := (SMap.find m k).getD d

/-- List a value for a key, keeping the rising order. -/
def SMap.set {α : Type} : SMap α → Nat → α → SMap α
  | [], k, v => [(k, v)]
  | (j, w) :: r, k, v =>
    if k < j then (k, v) :: (j, w) :: r
    else if k = j then (k, v) :: r
    else (j, w) :: SMap.set r k v

/-- Take a key off the list, wherever it stands. -/
def SMap.erase {α : Type} : SMap α → Nat → SMap α
  | [], _ => []
  | (j, w) :: r, k => if k = j then SMap.erase r k else (j, w) :: SMap.erase r k

/-- Write a value in canonical form: writing the default takes the key off the list. -/
def SMap.put {α : Type} [DecidableEq α] (d : α) (m : SMap α) (k : Nat) (v : α) : SMap α :=
  if v = d then SMap.erase m k else SMap.set m k v

/-- Every listed key is at least `lo`, keys rise strictly, and no listed value is the default. -/
def SMap.wfFrom {α : Type} [DecidableEq α] (d : α) : Nat → SMap α → Bool
  | _, [] => true
  | lo, (j, w) :: r => decide (lo ≤ j) && decide (w ≠ d) && SMap.wfFrom d (j + 1) r

/-- The canonical form of a sparse store: strictly rising keys, none listed at the default. -/
def SMap.wf {α : Type} [DecidableEq α] (d : α) (m : SMap α) : Bool := SMap.wfFrom d 0 m

/-- Apply a function to every listed value. -/
def SMap.mapVals {α β : Type} (f : α → β) (m : SMap α) : SMap β := m.map fun kv => (kv.1, f kv.2)

/-- Drop every listed key in `[lo, lo + n)`. -/
def SMap.clear {α : Type} (m : SMap α) (lo n : Nat) : SMap α :=
  m.filter fun kv => decide (kv.1 < lo) || decide (lo + n ≤ kv.1)

/-- Write consecutive values from a key on. -/
def SMap.putList {α : Type} [DecidableEq α] (d : α) : SMap α → Nat → List α → SMap α
  | m, _, [] => m
  | m, k, v :: vs => SMap.putList d (SMap.put d m k v) (k + 1) vs

/-- Read `n` consecutive values from a key on. -/
def SMap.getList {α : Type} (d : α) (m : SMap α) : Nat → Nat → List α
  | _, 0 => []
  | k, n + 1 => SMap.get d m k :: SMap.getList d m (k + 1) n

end Sys2Proof.Machine
end

