-- ==== Sys2Proof/Machine/Bits.lean ====
section
/-! DEFINITION. Bit fields, little-endian byte strings (R3), sign extension and saturating counts. -/

namespace Sys2Proof.Machine

/-- Bits `lo + n - 1` to `lo` of a number. -/
def bits (v lo n : Nat) : Nat := (v / 2 ^ lo) % 2 ^ n

/-- Bit `i` of a number. -/
def bit (v i : Nat) : Bool := decide ((v / 2 ^ i) % 2 = 1)

/-- A field of a 32-bit word. -/
def fld (w : Word) (lo n : Nat) : Nat := bits w.toNat lo n

/-- A one-bit field of a 32-bit word. -/
def flag (w : Word) (i : Nat) : Bool := bit w.toNat i

/-- The number that a flag contributes at a bit position. -/
def put1 (b : Bool) (i : Nat) : Nat := if b then 2 ^ i else 0

/-- The number of a little-endian byte string. -/
def leNat : List Byte → Nat
  | [] => 0
  | b :: r => b.toNat + 256 * leNat r

/-- `n` little-endian bytes of a number. -/
def toLE : Nat → Nat → List Byte
  | 0, _ => []
  | n + 1, v => byte (v % 256) :: toLE n (v / 256)

/-- 32-bit words to bytes, little-endian. -/
def wordsToBytes (ws : List Word) : List Byte := ws.flatMap fun w => toLE 4 w.toNat

/-- The word at word index `i` of a byte string. -/
def wordAt (bs : List Byte) (i : Nat) : Word := word (leNat ((bs.drop (4 * i)).take 4))

/-- A number of `n` bytes at byte offset `o`. -/
def natAt (bs : List Byte) (o n : Nat) : Nat := leNat ((bs.drop o).take n)

/-- The first `n` words of a byte string. -/
def bytesToWords (bs : List Byte) (n : Nat) : List Word := (List.range n).map fun i => wordAt bs i

/-- Word `i` of a list of words, 0 beyond it. -/
def wd (ws : List Word) (i : Nat) : Word := ws.getD i 0

/-- A 64-bit number from words `i` and `i + 1`, low word first. -/
def wd64 (ws : List Word) (i : Nat) : Nat := (wd ws i).toNat + 2 ^ 32 * (wd ws (i + 1)).toNat

/-- The two words of a 64-bit number, low word first. -/
def lohi (v : Nat) : List Word := [word v, word (v / 2 ^ 32)]

/-- The signed value of an `n`-bit code. -/
def sval (n v : Nat) : Int := if 2 * (v % 2 ^ n) < 2 ^ n then ((v % 2 ^ n : Nat) : Int) else ((v % 2 ^ n : Nat) : Int) - 2 ^ n

/-- The `n`-bit two's-complement code of an integer. -/
def scode (n : Nat) (i : Int) : Nat := (i % (2 ^ n : Int)).toNat

/-- The 64-byte flit of a byte string. -/
def flitOf (bs : List Byte) : Flit := BitVec.ofNat 512 (leNat (bs.take 64))

/-- The bytes of a flit. -/
def flitBytes (f : Flit) : List Byte := toLE 64 f.toNat

/-- Word `i` of a flit. -/
def flitWord (f : Flit) (i : Nat) : Word := word (bits f.toNat (32 * i) 32)

/-- The flit of up to 16 words. -/
def flitOfWords (ws : List Word) : Flit := flitOf (wordsToBytes ws ++ List.replicate 64 0)

/-- Cut a byte string into pieces of `n` bytes, `k` of them. -/
def chunks (n : Nat) : Nat → List Byte → List (List Byte)
  | 0, _ => []
  | k + 1, bs => bs.take n :: chunks n k (bs.drop n)

/-- `⌈a / b⌉`. -/
def ceilDiv (a b : Nat) : Nat := (a + b - 1) / b

/-- A counter of `w` bits that saturates at its largest value. -/
def satAdd (w v n : Nat) : Nat := min (2 ^ w - 1) (v + n)

/-- Replace element `i` of a list. -/
def setAt {α : Type} (l : List α) (i : Nat) (v : α) : List α := l.set i v

/-- `n` bytes of zeros. -/
def zeros (n : Nat) : List Byte := List.replicate n 0

/-- The bytes of up to 16 words, filled with zeros to one flit. -/
def padTo16 (ws : List Word) : List Byte := (wordsToBytes (ws ++ List.replicate 16 0)).take 64

/-- A byte string cut or filled with zeros to `n` bytes. -/
def fit (n : Nat) (bs : List Byte) : List Byte := bs.take n ++ zeros (n - bs.length)

end Sys2Proof.Machine
end

