-- ==== Sys2Proof/Machine/Keccak.lean ====
section
/-! DEFINITION. SHAKE256 (FIPS 202), which the manual names for every digest (R436, R437, R439, R480, R487). -/

namespace Sys2Proof.Machine

/-- The 24 round constants of Keccak-f[1600]. -/
def keccakRC : List DWord :=
  [0x0000000000000001, 0x0000000000008082, 0x800000000000808A, 0x8000000080008000, 0x000000000000808B,
   0x0000000080000001, 0x8000000080008081, 0x8000000000008009] ++
  [0x000000000000008A, 0x0000000000000088, 0x0000000080008009, 0x000000008000000A, 0x000000008000808B,
   0x800000000000008B, 0x8000000000008089, 0x8000000000008003] ++
  [0x8000000000008002, 0x8000000000000080, 0x000000000000800A, 0x800000008000000A, 0x8000000080008081,
   0x8000000000008080, 0x0000000080000001, 0x8000000080008008]

/-- Rotation offsets by lane x + 5y. -/
def keccakRot : List Nat :=
  [0, 1, 62, 28, 27, 36, 44, 6, 55, 20, 3, 10, 43, 25, 39, 41, 45, 15, 21, 8, 18, 2, 61, 56, 14]

def lane (a : List DWord) (x y : Nat) : DWord := a.getD (x % 5 + 5 * (y % 5)) 0

/-- One round: theta, rho, pi, chi and iota. -/
def keccakRound (a : List DWord) (rc : DWord) : List DWord :=
  let c := (List.range 5).map fun x => lane a x 0 ^^^ lane a x 1 ^^^ lane a x 2 ^^^ lane a x 3 ^^^ lane a x 4
  let d := (List.range 5).map fun x => c.getD ((x + 4) % 5) 0 ^^^ (c.getD ((x + 1) % 5) 0).rotateLeft 1
  let t := (List.range 25).map fun i => a.getD i 0 ^^^ d.getD (i % 5) 0
  -- lane (x, y) of b comes from lane (x + 3y, x)
  let b := (List.range 25).map fun i =>
    let x := i % 5
    let y := i / 5
    let sx := (x + 3 * y) % 5
    (lane t sx x).rotateLeft (keccakRot.getD (sx + 5 * x) 0)
  let e := (List.range 25).map fun i =>
    let x := i % 5
    let y := i / 5
    lane b x y ^^^ (~~~ (lane b (x + 1) y) &&& lane b (x + 2) y)
  match e with
  | [] => []
  | h :: r => (h ^^^ rc) :: r

def keccakF (a : List DWord) : List DWord := keccakRC.foldl keccakRound a

/-- XOR a block of 136 bytes into the state and permute. -/
def absorb (a : List DWord) (blk : List Byte) : List DWord :=
  keccakF ((List.range 25).map fun i => a.getD i 0 ^^^ (if i < 17 then dword (natAt blk (8 * i) 8) else 0))

/-- The message padded to whole blocks of 136 bytes, with the suffix of SHAKE. -/
def shakePad (m : List Byte) : List Byte :=
  let z := 136 - (m.length % 136)
  if z = 1 then m ++ [0x9F] else m ++ [0x1F] ++ zeros (z - 2) ++ [0x80]

/-- The first `n` bytes of SHAKE256, for `n` up to 136. -/
def shake256 (m : List Byte) (n : Nat) : List Byte :=
  let p := shakePad m
  let a := (chunks 136 (p.length / 136) p).foldl absorb (List.replicate 25 0)
  (a.flatMap fun w => toLE 8 w.toNat).take n

/-- The 256-bit digest, byte 0 lowest. -/
def digest256 (m : List Byte) : BitVec 256 := BitVec.ofNat 256 (leNat (shake256 m 32))

/-- The digest truncated to 128 bits. -/
def digest128 (m : List Byte) : BitVec 128 := BitVec.ofNat 128 (leNat (shake256 m 16))

end Sys2Proof.Machine
end

