-- ==== Sys2Proof/Machine/NumFmt.lean ====
section
/-! DEFINITION. Element formats (R116, Table 4.3), exact values, and rounding once to a format, to nearest with ties to
even (R125, R144, R147, R149). -/

namespace Sys2Proof.Machine

/-- A value: not a number, an infinity, or the number (-1)^neg x m x 2^e. -/
inductive FV where
  | nan
  | inf (neg : Bool)
  | fin (neg : Bool) (m : Nat) (e : Int)
  deriving DecidableEq, Repr

/-- A floating format: exponent bits, mantissa bits, bias, whether it has an infinity, and the code magnitude of its
largest finite value. -/
structure Fmt where
  ebits : Nat
  mbits : Nat
  bias  : Nat
  inf   : Bool
  maxFin : Nat
  /-- code of the NaN that the device produces, if the format has one -/
  nan   : Option Nat
  deriving DecidableEq, Repr

def Fmt.width (f : Fmt) : Nat := 1 + f.ebits + f.mbits

def e4m3 : Fmt := { ebits := 4, mbits := 3, bias := 7, inf := false, maxFin := 0x7E, nan := some 0x7F }
def e5m2 : Fmt := { ebits := 5, mbits := 2, bias := 15, inf := true, maxFin := 0x7B, nan := some 0x7E }
def e3m2 : Fmt := { ebits := 3, mbits := 2, bias := 3, inf := false, maxFin := 0x1F, nan := none }
def e2m3 : Fmt := { ebits := 2, mbits := 3, bias := 1, inf := false, maxFin := 0x1F, nan := none }
def e2m1 : Fmt := { ebits := 2, mbits := 1, bias := 1, inf := false, maxFin := 0x7, nan := none }
def bf16 : Fmt := { ebits := 8, mbits := 7, bias := 127, inf := true, maxFin := 0x7F7F, nan := some 0x7FC0 }
def fp16 : Fmt := { ebits := 5, mbits := 10, bias := 15, inf := true, maxFin := 0x7BFF, nan := some 0x7E00 }
def fp32 : Fmt := { ebits := 8, mbits := 23, bias := 127, inf := true, maxFin := 0x7F7FFFFF, nan := some 0x7FC00000 }

/-- The value of a code (R116). -/
def Fmt.decode (f : Fmt) (c : Nat) : FV :=
  let neg := bit c (f.ebits + f.mbits)
  let e := bits c f.mbits f.ebits
  let m := bits c 0 f.mbits
  let top := 2 ^ f.ebits - 1
  if f.inf && e = top then (if m = 0 then .inf neg else .nan)
  else if !f.inf && f.nan.isSome && bits c 0 (f.ebits + f.mbits) = f.nan.getD 0 then .nan
  else if e = 0 then .fin neg m (1 - (f.bias : Int) - f.mbits)
  else .fin neg (2 ^ f.mbits + m) ((e : Int) - f.bias - f.mbits)

/-- The largest `k` with `2^k ≤ n`, for `n > 0`. -/
def log2 (n : Nat) : Nat := Nat.log2 n

/-- `⌊log2 (num / den)⌋` for positive `num` and `den`. -/
def ilog2 (num den : Nat) : Int :=
  let d : Int := (log2 num : Int) - log2 den
  -- num / den lies in (2^(d-1), 2^(d+1))
  if d ≥ 0 then (if num ≥ den * 2 ^ d.toNat then d else d - 1)
  else (if num * 2 ^ (-d).toNat ≥ den then d else d - 1)

/-- `num / (den x 2^q)` rounded to the nearest integer, ties to even. -/
def rndScaled (num den : Nat) (q : Int) : Nat :=
  let n := if q ≥ 0 then num else num * 2 ^ (-q).toNat
  let d := if q ≥ 0 then den * 2 ^ q.toNat else den
  let k := n / d
  let r := n % d
  if 2 * r > d || (2 * r = d && k % 2 = 1) then k + 1 else k

/-- The code magnitude of `num / den` rounded once to a format; it may pass the largest finite code. -/
def Fmt.mag (f : Fmt) (num den : Nat) : Nat :=
  if num = 0 then 0 else
  let qmin : Int := 1 - (f.bias : Int) - f.mbits
  let q := max qmin (ilog2 num den - f.mbits)
  (q - qmin).toNat * 2 ^ f.mbits + rndScaled num den q

/-- The code of a sign and a magnitude, infinite or saturated where the magnitude passes the largest finite code. -/
def Fmt.pack (f : Fmt) (neg : Bool) (mag : Nat) : Nat :=
  let m := if mag ≤ f.maxFin then mag else if f.inf then (2 ^ f.ebits - 1) * 2 ^ f.mbits else f.maxFin
  put1 neg (f.ebits + f.mbits) + m

/-- A rational rounded once to a format. -/
def Fmt.ofRat (f : Fmt) (neg : Bool) (num den : Nat) : Nat := f.pack neg (f.mag num den)

/-- `m x 2^e` rounded once to a format. -/
def Fmt.ofDyadic (f : Fmt) (neg : Bool) (m : Nat) (e : Int) : Nat :=
  if e ≥ 0 then f.ofRat neg (m * 2 ^ e.toNat) 1 else f.ofRat neg m (2 ^ (-e).toNat)

/-- A value rounded once to a format (R144, R147): NaN becomes the format's NaN, or 0 where it has none; an infinity
saturates where the format has none. -/
def Fmt.encode (f : Fmt) : FV → Nat
  | .nan => f.nan.getD 0
  | .inf neg => f.pack neg (2 ^ (f.ebits + f.mbits))
  | .fin neg m e => f.ofDyadic neg m e

/-- The integer of `(-1)^neg m 2^e` rounded to nearest, ties to even. -/
def rndInt (neg : Bool) (m : Nat) (e : Int) : Int :=
  let k := if e ≥ 0 then m * 2 ^ e.toNat else rndScaled m (2 ^ (-e).toNat) 0
  if neg then -(k : Int) else k

/-- An integer saturated to `w` bits, two's complement. -/
def satInt (w : Nat) (i : Int) : Int :=
  if i > 2 ^ (w - 1) - 1 then 2 ^ (w - 1) - 1 else if i < -(2 ^ (w - 1)) then -(2 ^ (w - 1)) else i

/-- A value converted to a saturating integer format of `w` bits (R147). -/
def encodeInt (w : Nat) : FV → Nat
  | .nan => 0
  | .inf neg => scode w (if neg then -(2 ^ (w - 1)) else 2 ^ (w - 1) - 1)
  | .fin neg m e => scode w (satInt w (rndInt neg m e))

/-- The signed mantissa of a finite value. -/
def smant (neg : Bool) (m : Nat) : Int := if neg then -(m : Int) else m

/-- The exact sum of two values (IEEE 754): opposite infinities give NaN, and an exact zero of unlike signs is +0. -/
def FV.add : FV → FV → FV
  | .nan, _ => .nan
  | _, .nan => .nan
  | .inf a, .inf b => if a = b then .inf a else .nan
  | .inf a, .fin .. => .inf a
  | .fin .., .inf b => .inf b
  | .fin na ma ea, .fin nb mb eb =>
    let e := min ea eb
    let x := smant na (ma * 2 ^ (ea - e).toNat) + smant nb (mb * 2 ^ (eb - e).toNat)
    if x = 0 then .fin (na && nb) 0 e else .fin (decide (x < 0)) x.natAbs e

/-- The exact product of two values: zero times an infinity gives NaN. -/
def FV.mul : FV → FV → FV
  | .nan, _ => .nan
  | _, .nan => .nan
  | .inf a, .inf b => .inf (a != b)
  | .inf a, .fin nb mb _ => if mb = 0 then .nan else .inf (a != nb)
  | .fin na ma _, .inf b => if ma = 0 then .nan else .inf (na != b)
  | .fin na ma ea, .fin nb mb eb => .fin (na != nb) (ma * mb) (ea + eb)

def FV.neg : FV → FV
  | .nan => .nan
  | .inf a => .inf (!a)
  | .fin n m e => .fin (!n) m e

/-- `a < b` for values that are not NaN, with -0 below +0 (R144). -/
def FV.lt : FV → FV → Bool
  | .nan, _ => false
  | _, .nan => false
  | .inf a, .inf b => a && !b
  | .inf a, .fin .. => a
  | .fin .., .inf b => !b
  | .fin na ma ea, .fin nb mb eb =>
    let e := min ea eb
    let x := smant na (ma * 2 ^ (ea - e).toNat)
    let y := smant nb (mb * 2 ^ (eb - e).toNat)
    if x = y then na && !nb && decide (x = 0) else decide (x < y)

/-- Maximum and minimum (R144): NaN if either input is NaN. -/
def FV.max (a b : FV) : FV :=
  match a, b with
  | .nan, _ => .nan
  | _, .nan => .nan
  | _, _ => if FV.lt a b then b else a
def FV.min (a b : FV) : FV :=
  match a, b with
  | .nan, _ => .nan
  | _, .nan => .nan
  | _, _ => if FV.lt b a then b else a

/-! ## Element format codes (Table 5.7) -/

/-- An integer element as a value, with an implicit factor of 2^e. -/
def intVal (w : Nat) (e : Int) (c : Nat) : FV := .fin (decide (sval w c < 0)) (sval w c).natAbs e

/-- The width of the elements of a code of Table 5.7; 0xF is FP32 (VCVT only). -/
def elemWidth : Nat → Nat
  | 0 | 1 | 5 | 9 | 0xA | 0xE => 8
  | 2 | 3 | 0xB | 0xC => 6
  | 4 | 6 | 0xD => 4
  | 7 | 8 => 16
  | _ => 32

/-- MX formats (R117). -/
def elemMx (c : Nat) : Bool := decide (9 ≤ c) && decide (c ≤ 0xE)

/-- The value of an element's code, without its MX scale. -/
def elemVal (f c : Nat) : FV :=
  match f with
  | 0 | 9 => e4m3.decode c
  | 1 | 0xA => e5m2.decode c
  | 2 | 0xB => e3m2.decode c
  | 3 | 0xC => e2m3.decode c
  | 4 | 0xD => e2m1.decode c
  | 5 => intVal 8 0 c
  | 6 => intVal 4 0 c
  | 7 => bf16.decode c
  | 8 => fp16.decode c
  | 0xE => intVal 8 (-6) c
  | _ => fp32.decode c

/-- The value of an E8M0 scale (R117): 2^(X - 127), NaN for 0xFF. -/
def scaleVal (x : Nat) : FV := if x = 0xFF then .nan else .fin false 1 ((x : Int) - 127)

/-- Element `i` of a dense little-endian row of `w`-bit elements (R113). -/
def elemAt (w : Nat) (row : List Byte) (i : Nat) : Nat :=
  let b := (w * i) / 8
  bits (leNat ((row.drop b).take 4)) ((w * i) % 8) w

/-- Elements packed densely as R113 packs them. -/
def packElems (w : Nat) (cs : List Nat) : List Byte :=
  let v := cs.reverse.foldl (fun acc c => acc * 2 ^ w + c % 2 ^ w) 0
  toLE (ceilDiv (w * cs.length) 8) v

/-- Conversion of a value to the format of a VCVT code (R147). -/
def cvt (dfmt : Nat) (v : FV) : Nat :=
  match dfmt with
  | 0 => e4m3.encode v
  | 1 => e5m2.encode v
  | 2 => e3m2.encode v
  | 3 => e2m3.encode v
  | 4 => e2m1.encode v
  | 5 => encodeInt 8 v
  | 6 => encodeInt 4 v
  | 7 => bf16.encode v
  | 8 => fp16.encode v
  | _ => fp32.encode v

end Sys2Proof.Machine
end

