-- ==== Sys2Proof/Machine/Crc.lean ====
section
/-! DEFINITION. CRC-32C (R548), the check of header flits and link groups. -/

namespace Sys2Proof.Machine

/-- Eight shifts of the reflected register. -/
def crcShift : Nat → Word → Word
  | 0, c => c
  | n + 1, c => crcShift n (if c.getLsbD 0 then (c >>> 1) ^^^ 0x82F63B78 else c >>> 1)

/-- Take one byte. -/
def crcByte (c : Word) (b : Byte) : Word := crcShift 8 (c ^^^ b.zeroExtend 32)

/-- CRC-32C of a byte string: all ones initially and inverted at the end. -/
def crc32c (bs : List Byte) : Word := ~~~ (bs.foldl crcByte 0xFFFFFFFF)

end Sys2Proof.Machine
end

