-- ==== Sys2Proof/Config.lean ====
section
/-! DEFINITION. What one unit or one implementation fixes and the manual does not give: the published figures of the
identity data, the fused secrets, the signature scheme, certificates, nonces; and the free values of the manual's open
points. None of them has a body, so nothing can be proved of their values. -/

namespace Sys2Proof.Config

/-! ## Identity data (R138, R51, R104, Table 19.6): figures per unit class and profile (false full, true reduced) -/

/-- L_M, L_W and L_S in beats, per tile and stack. DESIGN CHOICE (log entry 8). -/
opaque lM (reduced : Bool) (tile stack : Nat) : Nat
/-- DESIGN CHOICE (log entry 8). -/
opaque lW (reduced : Bool) (tile stack : Nat) : Nat
/-- DESIGN CHOICE (log entry 8). -/
opaque lS (reduced : Bool) (tile stack : Nat) : Nat
/-- Request time, return time and maximum miss service time, per tile and stack. DESIGN CHOICE (log entry 8). -/
opaque reqTime (reduced : Bool) (tile stack : Nat) : Nat
/-- DESIGN CHOICE (log entry 8). -/
opaque retTime (reduced : Bool) (tile stack : Nat) : Nat
/-- DESIGN CHOICE (log entry 8). -/
opaque missMax (reduced : Bool) (tile stack : Nat) : Nat
/-- The change of rate that a device's time discipline asks for on an offset, at a rate (R241): the manual bounds it and gives no law. DESIGN
CHOICE (log entry 53). -/
opaque steer (theta rate : Int) : Int
/-- S_max in ticks, per tile and port; D_min and D_max in ticks, per port and tile (R51). DESIGN CHOICE (log entry 8). -/
opaque sMax (tile port : Nat) : Nat
/-- DESIGN CHOICE (log entry 8). -/
opaque dMin (port tile : Nat) : Nat
/-- DESIGN CHOICE (log entry 8). -/
opaque dMax (port tile : Nat) : Nat
/-- Delay-line setting and worst margin of a Doorway (R233). DESIGN CHOICE (log entry 8). -/
opaque doorSetting (door : Nat) : Nat
/-- DESIGN CHOICE (log entry 8). -/
opaque doorMargin (door : Nat) : Nat
/-- Stepping, IANA number and sideband Ethernet address (Table 19.5). DESIGN CHOICE (log entry 8). -/
opaque stepping : BitVec 8
/-- DESIGN CHOICE (log entry 8). -/
opaque iana : BitVec 32
/-- DESIGN CHOICE (log entry 8). -/
opaque mac : BitVec 48

/-- The sum of the assumed cable delays of the plan path from a device to a port, which the hazard detector needs for A_late
(R50, R64) and no section gives to the device. DESIGN CHOICE (log entry 60). -/
opaque pathDelay (src port : Nat) : Nat

/-- Bytes left free before a section of the identity data: no table gives where a section begins, which its directory entry says
(R524). DESIGN CHOICE (log entry 31). -/
opaque idGap (sec : Nat) : Nat
/-- Logical tiles of the grade of a unit class: a device that is given only the CLASSID of a destination knows its grade so (R263, R525). DESIGN
CHOICE (log entry 86). -/
opaque classTiles (classid : Nat) : Nat
/-- Where the staging bank of the service route table lies in the register and table region, in units of 64 KiB (R281), which no
table gives. DESIGN CHOICE (log entry 31). -/
opaque routeWindow : BitVec 16

/-! ## Hearth (R480 to R490) -/

/-- HRT_SERIAL and the unique device secret, fused. DESIGN CHOICE (log entry 9). -/
opaque serial : BitVec 128
/-- DESIGN CHOICE (log entry 9). -/
opaque uds : BitVec 256
/-- Digests, held by the ROM, of the Beliavo firmware key and the Beliavo debug key. DESIGN CHOICE (log entry 9). -/
opaque fwKeyDig : BitVec 256
/-- DESIGN CHOICE (log entry 9). -/
opaque dbgKeyDig : BitVec 256
/-- ML-DSA-65 (FIPS 204) with an empty context string: verification of a signature over a message under a public key,
and the signature of 3,309 bytes over a message under the key pair generated from a seed. DESIGN CHOICE (log entry 9). -/
opaque mldsaVerify (pk msg sig : List Byte) : Bool
/-- DESIGN CHOICE (log entry 9). -/
opaque mldsaSign (seed : BitVec 256) (msg : List Byte) : List Byte
/-- The DeviceID certificate in Hearth's flash area, and the Alias certificate of a firmware, SVN and lifecycle. DESIGN CHOICE (log entry 9). -/
opaque certDevice : List Byte
/-- DESIGN CHOICE (log entry 9). -/
opaque certAlias (fwdig : BitVec 256) (svn lc : Nat) : List Byte
/-- Fresh 32-byte nonces, by the count of free values drawn (R490). DESIGN CHOICE (log entry 7). -/
opaque nonce (n : Nat) : BitVec 256

/-- Bits 6 to 0 of the epoch of the head course's landings, which the step sequencer expects on a member (R369) and which no table gives.
DESIGN CHOICE (log entry 72). -/
opaque headEpoch : Nat

/-- Where the role word ROLEW of a partition lies in the Loft of its tiles, in units of 8 B, and what it holds when the device is active
and when it is silent (R512, R514), none of which a table gives. DESIGN CHOICE (log entry 77). -/
opaque roleAt (p : Nat) : Nat
/-- DESIGN CHOICE (log entry 77). -/
opaque roleWord (active : Bool) : BitVec 64

/-! ## Free values -/

/-- A 64-bit value that the manual leaves open, by the count of free values drawn. DESIGN CHOICE (log entry 7). -/
opaque freeWord (n : Nat) : BitVec 64

/-- The 8 bytes with which RETIRE_GET writes an entry of the retirement list, its KIND and physical index, or an unused one (Table 18.8).
DESIGN CHOICE (log entry 81). -/
opaque retireEntry : Option (Nat × Nat) → BitVec 64

end Sys2Proof.Config
end

