-- ==== Sys2Proof/Machine/TileState.lean ====
section
/-! DEFINITION. The state of one tile (spec/03, spec/04, spec/11): registers, queues, front end, matrix engine,
instruction cache, synchronisation and the tile's counters. -/

namespace Sys2Proof.Machine

/-- The per-tile counters of Tables 2.5, 3.11, 4.10, 6.12 and 11.9. -/
inductive TileCtr where
  | slipIlk | slipRamp | stretchE8 | stepdnE8 | rsvPeak | rsvPeakC
  | icmiss | qhold | skipw | lndWdrop
  | mxActive | mxWarm | mxSatop | mxInvop
  | loftCe | sywBeats | sywPoll | monNote | monReuse
  deriving DecidableEq, Repr

/-- One queued operation: its raw words, its address, whether its word was skipped, the plan beat from which it may
issue (R82), the address that a FETCH formed at its decode (R86), and bit 0 of the step number at decode (R353). -/
structure QEntry where
  w0    : Word
  w1    : Word
  iaddr : Nat
  skip  : Bool
  ready : Nat
  aux   : DWord
  par   : Bool
  deriving DecidableEq, Repr

/-- Mode of a slab set (Table 4.8). -/
inductive SlabMode where
  | clear | slab | float
  deriving DecidableEq, Repr

/-- What a slab set records beside its accumulators (R120 to R123, Table 4.8). -/
structure SlabInfo where
  wb    : Nat
  mode  : SlabMode
  pair  : Bool
  depth : Nat
  deriving DecidableEq, Repr

/-- One slab accumulator with its sticky bits (R120). -/
structure Acc where
  a   : BitVec 128
  sat : Bool
  inv : Bool
  deriving DecidableEq, Repr

/-- What one read of a matrix run takes (R110, R111, R129): the first column that it covers, the activation column codes, the
weight codes of its columns, and the scale codes of the rows and of its columns. -/
structure KStep where
  n0 : Nat
  a  : List Nat
  w  : List Nat
  sa : List Nat
  sw : List Nat
  deriving DecidableEq, Repr

/-- A matrix run in flight (R110, R129): its two words, its run descriptor, the ring it reads, the reads made whose updates are
still to come, the number of reads and of updates made, and whether it has set a SAT or an INV bit. -/
structure MxRun where
  w0    : Word
  w1    : Word
  d     : DWord
  wbase : Nat
  wblks : Nat
  ks    : List KStep
  reads : Nat
  upd   : Nat
  sat   : Bool
  inv   : Bool
  deriving DecidableEq, Repr

/-- A remote or local sync update (R161): 0 SADD, 1 SSET, 2 SCAS. -/
structure SyncUpd where
  kind : Nat
  addr : Nat
  x    : DWord
  y    : DWord
  deriving DecidableEq, Repr

/-- What an issued operation makes visible when it completes (R85). -/
inductive Effect where
  /-- a scalar register -/
  | sreg (i : Nat) (v : DWord)
  /-- a predicate p0-p11 -/
  | pred (i : Nat) (b : Bool)
  /-- operand-store bytes from a byte offset -/
  | opnd (off : Nat) (bs : List Byte)
  /-- bytes at a local address, written through the write port -/
  | mem (addr : Nat) (bs : List Byte)
  /-- accumulators of a set from row `row0` on, 64 a row, each with the new value -/
  | slabRows (set row0 : Nat) (accs : List Acc)
  /-- both sets or one set cleared (R123) -/
  | slabClear (a0 a1 : Bool)
  /-- a matrix run (R110, R129) -/
  | mxr (r : MxRun)
  /-- Landing slots that an LDG still has to read: first slot, count, expected epoch, store offset (R157) -/
  | ldgRest (slot n epoch off : Nat)
  /-- slots that an STN still has to read and send: its words, the index of the next, the epoch (R47) -/
  | stnRest (w0 w1 : Word) (i epoch : Nat)
  /-- the weight ring (R114) -/
  | ring (wbase wblks : Nat)
  /-- lock of resident instruction-cache lines (R102) -/
  | lines (line n : Nat) (lock : Option Nat)
  /-- a local sync-word update (R325) -/
  | sync (u : SyncUpd)
  /-- an arrival at a Rafter barrier, which the sync engine holds at its completion (R338) -/
  | rbar (bid : Nat)
  deriving DecidableEq, Repr

/-- An issued operation whose latency has not elapsed (R84, R85). -/
structure Flight where
  /-- number of the operation, unique in the tile and above 0 -/
  id    : Nat
  q     : Queue
  /-- clock beat of its issue, and the clock beat in which it completes -/
  start : Nat
  due   : Nat
  /-- barrier bit it sets, if any -/
  set   : Option Nat
  iaddr : Nat
  /-- interlock resources it holds until it completes (Table 3.8) -/
  slab  : List Nat
  blks  : List Nat
  sregs : List Nat
  preds : List Nat
  /-- Marl blocks of the operation that have not yet arrived (R176) -/
  need  : Nat
  eff   : List Effect
  deriving DecidableEq, Repr

/-- A queue: the entries, and the first clock beat in which it may issue again (R84). -/
structure QState where
  ents  : List QEntry
  free  : Nat
  /-- clock beat of its last issue, plus 1; 0 if none -/
  last  : Nat
  deriving DecidableEq, Repr

/-- One open loop (R96 to R99). -/
structure LoopFrame where
  cnt   : Nat
  start : Nat
  body  : Nat
  /-- body words still to decode in this iteration -/
  left  : Nat
  skip  : Bool
  deriving DecidableEq, Repr

/-- A comparator (R94). -/
structure Cmp where
  en   : Bool
  cnt  : Nat
  cond : Nat
  ref  : Word
  deriving DecidableEq, Repr

/-- A resident instruction-cache line: its line address (byte address / 256), the course whose end unlocks it, the
stamp of its last use, and its bytes. -/
structure ICLine where
  line : Nat
  lock : Option Nat
  used : Nat
  data : List Byte
  deriving DecidableEq, Repr

/-- A monitor entry (R330): the watched line (byte address / 64), when it was armed, and the last value read or
notified of each of the line's words. -/
structure Monitor where
  line  : Nat
  stamp : Nat
  vals  : SMap DWord
  deriving DecidableEq, Repr

/-- What a wait at the head of the SY queue waits for (Table 11.8). -/
inductive WaitKind where
  | word | rwait | mbar
  deriving DecidableEq, Repr

/-- A wait that has issued and is not complete (R327 to R332). -/
structure Wait where
  kind  : WaitKind
  /-- SWEQ rather than SWGE -/
  eq    : Bool
  mon   : Bool
  /-- word address, BID or MID -/
  addr  : Nat
  /-- s[VREG] as it stood at issue -/
  val   : DWord
  reads : Nat
  last  : DWord
  /-- tick from which a polling wait on a Marl word reads again -/
  poll  : Nat
  sat   : Bool
  wcrs  : Nat
  /-- barrier bit it sets, and its instruction address -/
  set   : Option Nat
  iaddr : Nat
  deriving DecidableEq, Repr

/-- The front end (R82, R96): the address of the next Shale word, the open loops, innermost first, and a zero-count
loop being passed over. -/
structure FrontEnd where
  /-- the tile has an entry and a plan runs -/
  on    : Bool
  pc    : Nat
  loops : List LoopFrame
  passL : Nat
  /-- set by a precise fault or a halt: nothing more decodes -/
  stop  : Bool
  /-- the queues that a precise fault has stopped -/
  qstop : List Queue
  /-- instruction-cache lines a miss has requested -/
  miss  : List Nat
  /-- timing-control operations of the word decoded last whose effect is still to come (R86, R141) -/
  tcs   : List (Queue × QEntry)
  deriving DecidableEq, Repr

/-- The matrix engine's own state (Table 4.9, R130, R132). -/
structure MxEng where
  wbase : Nat
  wblks : Nat
  idle  : Nat
  cold  : Bool
  /-- an inserted ramp in progress: 1 plus its clock beats still to run; 0 for none -/
  ramp  : Nat
  /-- an inserted ramp has ended for the MXR at the head -/
  ramped : Bool
  /-- last clock beat, plus 1, of the engine's occupancy -/
  busy  : Nat
  deriving DecidableEq, Repr

/-- Beats and reserve of a tile (R41, R43, R224). -/
structure TileTime where
  /-- clock beats the tile has run since device reset -/
  cb     : Nat
  /-- plan beats since device reset -/
  pb     : Nat
  /-- index of the course in progress, plus 1; 0 before course 0 -/
  course : Nat
  /-- plan beats of the course begun so far: the next plan beat to begin -/
  beat   : Nat
  /-- the clock beat in progress is a plan beat in which queues may issue -/
  plan   : Bool
  /-- the clock beat in progress is a maintenance beat (R87) -/
  maint  : Bool
  /-- reserve charge S, in eighths of a beat -/
  s      : Nat
  sIlk   : Nat
  sRamp  : Nat
  sStr   : Nat
  sStep  : Nat
  /-- metered tokens of the course's plan beats so far -/
  tok    : Nat
  deriving DecidableEq, Repr

/-- A Landing slot written by plan traffic and not yet readable (R48): the Room's clock beat of the write, slot, epoch and bytes. -/
structure LandEnt where
  beat  : Nat
  slot  : Nat
  epoch : Nat
  data  : List Byte
  deriving DecidableEq, Repr

/-- A service write that waits for the fill port (R78): Loft offset, bytes, the header of the packet that it is part of, if any, and whether
that packet still counts in the ordering of its source (R286, R289). -/
structure SvcEnt where
  off    : Nat
  data   : List Byte
  hdr    : Option Flit
  counts : Bool
  deriving DecidableEq, Repr

/-- A tile. -/
structure Tile where
  sreg  : SMap DWord
  cnt   : SMap Word
  pred  : BitVec 16
  cmp   : SMap Cmp
  xb    : BitVec 16
  /-- the barrier bits at the start of the beat (R88), and those of them not cleared in it (R90) -/
  xb0   : BitVec 16
  xbc   : BitVec 16
  opnd  : SMap Byte
  info0 : SlabInfo
  info1 : SlabInfo
  acc0  : SMap Acc
  acc1  : SMap Acc
  tags  : SMap Byte
  q     : SMap QState
  fly   : List Flight
  nextId : Nat
  fe    : FrontEnd
  ic    : SMap ICLine
  icUse : Nat
  mx    : MxEng
  tim   : TileTime
  /-- first clock beat in which the LD queue no longer reads the Loft (R167, R329) -/
  loftRd : Nat
  wait  : Option Wait
  mons  : List Monitor
  monStamp : Nat
  /-- notifications on their way to the tile (R329, R330), one for each write and entry: the addresses of the line's words that the
  write covers, with their new values -/
  notes : List (List (Nat × DWord))
  arr   : SMap Nat
  tph   : SMap Nat
  /-- service writes waiting for the fill port, oldest first (R78) -/
  svc   : List SvcEnt
  /-- Landing slots written and not yet readable, oldest first -/
  lands : List LandEnt
  /-- clock beat of the Room, plus 1, in which the fill port last carried a response to an LD operation (R78); 0 if none -/
  fillAt : Nat
  /-- corrected Loft words waiting to be written back (R184): offset and corrected value -/
  wback : List (Nat × DWord)
  kat   : Nat
  /-- clock beat, plus 1, of the latest known-answer segment -/
  katAt : Nat
  /-- digest list position and the tile's partials (R439): per layer the sum and the chunks -/
  digI  : Nat
  digSum : SMap (BitVec 128)
  digCnt : SMap Nat
  /-- sum of the hashes of the course (R513) -/
  digCourse : BitVec 128
  /-- the tile's drain after a halt has ended (R501) -/
  drained : Bool
  ctr   : SMap Nat
  deriving DecidableEq, Repr

/-- The counter's place in the tile's counter store. -/
def TileCtr.idx : TileCtr → Nat
  | .slipIlk => 0 | .slipRamp => 1 | .stretchE8 => 2 | .stepdnE8 => 3 | .rsvPeak => 4 | .rsvPeakC => 5
  | .icmiss => 6 | .qhold => 7 | .skipw => 8 | .lndWdrop => 9
  | .mxActive => 10 | .mxWarm => 11 | .mxSatop => 12 | .mxInvop => 13
  | .loftCe => 14 | .sywBeats => 15 | .sywPoll => 16 | .monNote => 17 | .monReuse => 18

def SlabInfo.reset : SlabInfo := { wb := 0, mode := .clear, pair := false, depth := 0 }
def Acc.zero : Acc := { a := 0, sat := false, inv := false }
def QState.reset : QState := { ents := [], free := 0, last := 0 }
def Cmp.reset : Cmp := { en := false, cnt := 0, cond := 0, ref := 0 }
def FrontEnd.reset : FrontEnd :=
  { on := false, pc := 0, loops := [], passL := 0, stop := false, qstop := [], miss := [], tcs := [] }
/-- WBASE 56, WBLKS 8, cold, idle count 64 (R114, R130, Table 4.9). -/
def MxEng.reset : MxEng := { wbase := 56, wblks := 8, idle := 64, cold := true, ramp := 0, ramped := false, busy := 0 }
def TileTime.reset : TileTime :=
  { cb := 0, pb := 0, course := 0, beat := 0, plan := false, maint := false, s := 0, sIlk := 0, sRamp := 0, sStr := 0, sStep := 0, tok := 0 }

/-- A tile after device reset: R100, R114, R134 and Table 17.1 give the cleared state. -/
def Tile.reset : Tile :=
  { sreg := [], cnt := [], pred := 0, cmp := [], xb := 0, xb0 := 0, xbc := 0, opnd := [],
    info0 := SlabInfo.reset, info1 := SlabInfo.reset, acc0 := [], acc1 := [], tags := [], q := [], fly := [], nextId := 1,
    fe := FrontEnd.reset, ic := [], icUse := 0, mx := MxEng.reset, tim := TileTime.reset, loftRd := 0, wait := none, mons := [],
    monStamp := 0, notes := [], arr := [], tph := [], svc := [], lands := [], fillAt := 0, wback := [], kat := 0, katAt := 0, digI := 0, digSum := [],
    digCnt := [], digCourse := 0, drained := false, ctr := [] }

end Sys2Proof.Machine
end

