-- ==== Sys2Proof/Machine/PlanState.lean ====
section
/-! DEFINITION. A loaded plan image as the device keeps it: the tables of spec/02 R72 to R74 and of the chapters that
define each table, decoded. -/

namespace Sys2Proof.Machine

/-- A course descriptor (Table 2.1); for a serving plan, a template (R351). -/
structure Course where
  len   : Nat
  rsv   : Nat
  guard : Nat
  maint : Nat
  start : Nat
  peak  : Nat
  avg   : Nat
  deriving DecidableEq, Repr

/-- A tile entry (Table 2.14). -/
structure TileEnt where
  tile    : Nat
  preload : Nat
  entry   : Nat
  deriving DecidableEq, Repr

/-- A memory-initialisation block (Table 2.15). -/
structure MemInit where
  addr : Nat
  data : List Byte
  deriving DecidableEq, Repr

/-- A departure entry (Table 9.3). -/
structure Dep where
  frame : Nat
  pos   : Nat
  port  : Nat
  ns    : Nat
  epoch : Nat
  dst   : Nat
  dtile : Nat
  dslot : Nat
  toff  : Nat
  deriving DecidableEq, Repr

/-- A sweep entry (Table 7.2). -/
structure SweepEnt where
  sid      : Nat
  stack    : Nat
  kfmt     : Nat
  dc       : Nat
  rm1      : Nat
  course   : Nat
  tstart   : Nat
  deadline : Nat
  win      : Nat
  layer    : Nat
  hg0      : Nat
  hgn      : Nat
  qbase    : Nat
  rbase    : Nat
  sc       : Word
  bpmax    : Nat
  deriving DecidableEq, Repr

/-- A Rafter table entry (Table 11.5). -/
structure RafterEnt where
  loc    : Nat
  nch    : Nat
  parent : Nat
  upw    : Nat
  genw   : Nat
  deriving DecidableEq, Repr

/-- A mask barrier entry (Table 11.7). -/
structure MaskEnt where
  mask : BitVec 64
  grp  : Nat
  deriving DecidableEq, Repr

/-- Per stack of the serving descriptor (Table 12.1): pool regions, head groups, directory and manifest copy. -/
structure ServStack where
  pool    : Nat
  hgs     : Nat
  dirbase : Nat
  manbase : Nat
  deriving DecidableEq, Repr

/-- The serving descriptor (Table 12.1). -/
structure ServDesc where
  lead   : Nat
  nmem   : Nat
  mtile  : Nat
  shm1   : Nat
  layers : Nat
  cwin   : Nat
  midx   : Nat
  ordq   : Nat
  stks   : List ServStack
  deriving DecidableEq, Repr

/-- A step shape (Table 12.2). -/
structure Shape where
  tb     : Nat
  nc     : Nat
  firstc : Nat
  lanes  : Nat
  pgblk  : Nat
  win    : Nat
  dur    : Nat
  cmax   : Nat
  lctx   : Nat
  maxent : Nat
  deriving DecidableEq, Repr

/-- A weight map entry (Table 14.1). -/
structure WEnt where
  layer : Nat
  stack : Nat
  live  : Nat
  stage : Nat
  len   : Nat
  deriving DecidableEq, Repr

/-- The weight map (R405). -/
structure WMap where
  nlayers : Nat
  repl    : Bool
  wctl    : Nat
  ents    : List WEnt
  deriving DecidableEq, Repr

/-- A digest list (R439): tile, shape, and entries of layer and canonical chunk offset. -/
structure DigList where
  tile  : Nat
  shape : Nat
  ents  : List (Nat × Nat)
  deriving DecidableEq, Repr

/-- A plan image as loaded (Tables 2.11 to 2.13). -/
structure Plan where
  /-- plan image digest (R487) -/
  pdig     : BitVec 256
  tcv      : Nat
  /-- reduced-service profile -/
  reduced  : Bool
  invariant : Bool
  shadow   : Bool
  shw      : Nat
  shs      : Nat
  ndev     : Nat
  f        : Nat
  notebase : Nat
  collbase : Nat
  iaddr    : Nat
  ilen     : Nat
  /-- device IDs of the directory -/
  devs     : List Nat
  classid  : Nat
  courses  : List Course
  tiles    : List TileEnt
  init     : List MemInit
  sync     : List (Nat × DWord)
  /-- per logical tile, the 16 bytes of its path entry -/
  paths    : List (List Byte)
  deps     : List Dep
  /-- plan routes: destination and port -/
  routes   : List (Nat × Nat)
  /-- per port, the assumed cable delay and the plan-link mark -/
  links    : List (Nat × Bool)
  sweeps   : List SweepEnt
  rafter   : List RafterEnt
  masks    : List MaskEnt
  serv     : Option ServDesc
  shapes   : List Shape
  reads    : List (Nat × Nat)
  wmap     : Option WMap
  digs     : List DigList
  larder   : Option (Nat × Nat)
  deriving DecidableEq, Repr

/-- Tenths of a tick of a beat of the plan's profile (Table 19.4). DEDUCED (log entry 27). -/
def Plan.beat10 (pl : Plan) : Nat := if pl.reduced then 16 else 8

end Sys2Proof.Machine
end

