-- ==== Sys2Proof/Machine/LinkState.lean ====
section
/-! DEFINITION. The state of one Eloagal port (spec/09, spec/10) and of one Room, one Marl stack and the clocks
(spec/06, spec/07, spec/08). -/

namespace Sys2Proof.Machine

/-- A packet: its header flit (Table 9.4), its data flits, the tick from which it may leave (R273), and the port at whose
ingress buffer it stands, if it came over a link (R304). -/
structure Packet where
  hdr  : Flit
  data : List Flit
  ready : Nat
  ing  : Option Nat
  deriving DecidableEq, Repr

/-- Link states (Table 10.4). -/
inductive LinkSt where
  | down | train | up | retrain
  deriving DecidableEq, Repr

/-- What a position carries (Table 10.1): a service flit, a plan flit in an open position, a control flit, a plan
flit sent for the first time in a link position, a replayed plan flit; or nothing, but occupied (R274, R308). -/
inductive SlotKind where
  | service | plan | control | linkPlan | replay | occupied
  deriving DecidableEq, Repr

/-- A transmit position filled in advance: kind, flit, the sequence number of a service or replayed flit, and for a plan
flit the partition, the header of its packet, the time at which the packet's first flit leaves, and whether it is a
departure of the device's own (R276). Times on the wire are kept in 1/640 of a tick: a position lasts 219 of them (R254). -/
structure Slot where
  kind : SlotKind
  flit : Flit
  seq  : Nat
  part : Nat
  hdr  : Flit
  t0   : Nat
  own  : Bool
  deriving DecidableEq, Repr

/-- A flit in the replay buffer (R302, R310): sequence number, whether it is a plan flit, the packet it belongs to, the
time at which its latest transmission ended, in 1/640 t of device time (none while that has not ended), and its replays. -/
structure TxFlit where
  seq  : Nat
  plan : Bool
  part : Nat
  flit : Flit
  /-- header flit of its packet, and what tells the packet from others: for a service flit the sequence number of its header, for a plan
  flit the time at which its packet's first flit leaves -/
  hdr  : Flit
  first : Nat
  ended : Option Nat
  /-- it has been transmitted -/
  sent : Bool
  reps : Nat
  /-- the port whose ingress buffer it still holds a place of: a flit that is forwarded and has not been transmitted (R304) -/
  ing  : Option Nat
  deriving DecidableEq, Repr

/-- An entry of the link-position queue (R308, R311): a late flit, or the replay of a numbered flit; with the header flit of its packet
and the time at which that packet's first flit leaves or should have left. -/
structure LqFlit where
  late : Bool
  seq  : Nat
  part : Nat
  flit : Flit
  hdr  : Flit
  t0   : Nat
  deriving DecidableEq, Repr

/-- A packet staged in a departure buffer (R264): its entry, partition, staging tile, epoch, data, and whether a
skipped STD voided it (R93). -/
structure Staged where
  dep   : Nat
  part  : Nat
  tile  : Nat
  course : Nat
  /-- the tick at which it leaves -/
  due   : Nat
  void  : Bool
  pkt   : Packet
  /-- tick from which the data stand in the buffer: the issue plus S_max (R51) -/
  rdy   : Nat
  deriving DecidableEq, Repr

/-- A plan packet complete at ingress (R307): the times, in 1/640 t, at which its flits reached the pins, the tick at which
its last flit was accepted, and whether it is late. -/
structure PlanIn where
  pkt  : Packet
  arr  : List Nat
  done : Nat
  late : Bool
  /-- held by the hazard detector until this tick (R64) -/
  hold : Nat
  /-- flits of a late packet that have joined the link-position queue of the egress port (R308) -/
  joined : Nat
  deriving DecidableEq, Repr

/-- A message waiting to be taken from a control flit (R300): launch (0x3), retrain request (0x4), time request (0x1)
or reply (0x2), with words 10 to 15 of the flit. -/
structure LinkMsg where
  mtype : Nat
  mseq  : Nat
  body  : BitVec 192
  deriving DecidableEq, Repr

/-- The link counters (Table 10.7) and the per-port fabric counters (Table 9.13). -/
inductive PortCtr where
  | grpBad | dup | oos | svcReplay | svcRflits | planRflits | planRtmo | holdFull | rbNoplace | rbPeak | lqPeak | lqDrop
  | retrain | retrainFail | down | credTmo | downDrop | planDrop
  | planColl | fenceDrop
  deriving DecidableEq, Repr

/-- Transmit side of a port. -/
structure TxSide where
  /-- start of the group in progress, in 1/640 t -/
  grp   : Nat
  /-- the positions filled in advance, by their start in 1/640 t -/
  slots : SMap Slot
  /-- the replay position of the group in progress has been filled -/
  repl  : Bool
  replay : List TxFlit
  /-- the first service and plan sequence numbers never assigned -/
  ssnNew : Nat
  psnNew : Nat
  lq    : List LqFlit
  /-- PSNs of flits whose replay is due and waits for a place in the full link-position queue (R311) -/
  lqWait : List Nat
  /-- per virtual channel: packets queued for egress -/
  egress : SMap (List Packet)
  bulkPass : Nat
  crUsed : SMap Nat
  crRet  : SMap Nat
  /-- tick at which a channel's credit timer last restarted, plus 1; 0 when it does not run -/
  crTmr  : SMap Nat
  dbuf  : List Staged
  /-- messages to send, oldest first -/
  msgs  : List LinkMsg
  mseq  : Nat
  /-- the last group put on the pins -/
  out   : Option Group
  deriving DecidableEq, Repr

/-- Receive side of a port. -/
structure RxSide where
  /-- next service sequence number expected -/
  ssn   : Nat
  /-- the flits of the service packet being received, and the time, in 1/640 t, of its header -/
  part  : List Flit
  partT : Nat
  /-- the next PSN expected, counted without wrap; the highest received plus 1; the received ones below it; the PSN of the next header -/
  psnTop : Nat
  psnHi : Nat
  got   : List Nat
  hold  : SMap Flit
  head  : Nat
  /-- PSNs held that arrived as replays or after their grid time -/
  lateP : List Nat
  arrT  : SMap Nat
  lost  : List Nat
  /-- time, in 1/640 t, at which position 0 of the latest group reached the pins; and the PSNs of headers whose packets have been given
  their positions on the egress port (R261) -/
  grid  : Nat
  rsvd  : List Nat
  crOut : SMap Nat
  /-- the SIG count sent last, which stands while the Vestibule is full (R287) -/
  sigOut : Nat
  ingress : SMap (List Packet)
  planIn : List PlanIn
  ctl   : List Flit
  msgs  : List LinkMsg
  mack  : Nat
  deriving DecidableEq, Repr

/-- An Eloagal port. -/
structure Port where
  en     : Bool
  auto   : Bool
  st     : LinkSt
  cause  : Nat
  /-- measured cable delay in tenths of a tick; 0 until measured (R52) -/
  delay  : Nat
  /-- device ID at the far end (R322), 0xFFFF until the port has trained -/
  peer   : Nat
  efence : Bool
  lfence : Bool
  /-- tick at which the state was entered -/
  since  : Nat
  attempt : Nat
  autoAt : Nat
  tx     : TxSide
  rx     : RxSide
  xid    : Nat
  exAt   : Nat
  /-- t1 of the latest time request (R240): the time at which it left, in tenths of a tick -/
  t1     : Nat
  /-- tick of device time of the latest time reply -/
  exRep  : Nat
  /-- running plans that have already been given their link fault (R317) -/
  faulted : List Nat
  ctr    : SMap Nat
  deriving DecidableEq, Repr

def PortCtr.idx : PortCtr → Nat
  | .grpBad => 0 | .dup => 1 | .oos => 2 | .svcReplay => 3 | .svcRflits => 4 | .planRflits => 5 | .planRtmo => 6
  | .holdFull => 7 | .rbNoplace => 8 | .rbPeak => 9 | .lqPeak => 10 | .lqDrop => 11 | .retrain => 12
  | .retrainFail => 13 | .down => 14 | .credTmo => 15 | .downDrop => 16 | .planDrop => 17
  | .planColl => 18 | .fenceDrop => 19

def TxSide.reset : TxSide :=
  { grp := 0, slots := [], repl := false, replay := [], ssnNew := 0, psnNew := 0, lq := [], lqWait := [], egress := [],
    bulkPass := 0, crUsed := [], crRet := [], crTmr := [], dbuf := [], msgs := [], mseq := 0, out := none }
def RxSide.reset : RxSide :=
  { ssn := 0, part := [], partT := 0, psnTop := 0, psnHi := 0, got := [], hold := [], head := 0, lateP := [], arrT := [], lost := [], grid := 0, rsvd := [], crOut := [], sigOut := 0,
    ingress := [], planIn := [], ctl := [], msgs := [], mack := 0 }
/-- A port after device reset (Tables 9.11, 10.5, 10.6). -/
def Port.reset : Port :=
  { en := false, auto := false, st := .down, cause := 0, delay := 0, peer := 0xFFFF, efence := false, lfence := false, since := 0,
    attempt := 0, autoAt := 0, tx := TxSide.reset, rx := RxSide.reset, xid := 0, exAt := 0, t1 := 0, exRep := 0, faulted := [], ctr := [] }

/-- The Room clock counters (Table 8.2). -/
inductive RoomCtr where
  | str25 | str50 | echo | alarm | stepdn
  deriving DecidableEq, Repr

/-- A Room's clock (R223 to R229). Lengths are in tenths of a nanosecond. -/
structure Room where
  /-- clock beats since device reset -/
  clk    : Nat
  /-- beats begun since SBN restarted: the beat in progress has SBN `sbn` - 1 -/
  sbn    : Nat
  /-- tenth of a tick at which the beat in progress ends -/
  edge   : Nat
  /-- tenth of a tick at which the beat in progress began -/
  beg    : Nat
  /-- per partition, the Room beat at which its course in progress began (BN_p counts from it, R224) -/
  bn0    : SMap Nat
  /-- per partition, 1 plus the index of that course -/
  crs    : SMap Nat
  /-- added length of the next beat; and the eighths of a beat charged for events on the beat in progress and on the next -/
  nxtAdd : Nat
  curEv  : Nat
  nxtEv  : Nat
  /-- this Room's own stretched beats (number since device reset) with the added length -/
  own    : List (Nat × Nat)
  /-- announced stretches of other Rooms: SBN of the echo beat, added length, and the announcing Room -/
  echoes : List (Nat × Nat × Nat)
  /-- alarms of other Rooms that have arrived and stretch the next beat; a step-down starts with the beat after; the number of the beat
  in which the Room has raised an alarm of its own, 0 for none -/
  alarm  : Nat
  arm    : Bool
  almAt  : Nat
  /-- stepped-down beats still to run -/
  step   : Nat
  /-- the step-down has not yet been ended -/
  stepOn : Bool
  /-- the beat in progress is stepped down; and the beat before it was -/
  stepCur : Bool
  stepPrev : Bool
  /-- multiple of 4,096 t at which SBN last restarted, plus 1 -/
  sbnAt  : Nat
  ctr    : SMap Nat
  deriving DecidableEq, Repr

def RoomCtr.idx : RoomCtr → Nat
  | .str25 => 0 | .str50 => 1 | .echo => 2 | .alarm => 3 | .stepdn => 4

def Room.reset : Room :=
  { clk := 0, sbn := 0, edge := 0, beg := 0, bn0 := [], crs := [], nxtAdd := 0, curEv := 0, nxtEv := 0, own := [], echoes := [], alarm := 0,
    arm := false, almAt := 0, step := 0, stepOn := false, stepCur := false, stepPrev := false, sbnAt := 0, ctr := [] }

/-- A slot of plan traffic on its way across the die (R47, R231): the Doorways still to cross, and the Room and beat
in which its next step is due. -/
structure OnDie where
  src   : Nat
  dst   : Nat
  slot  : Nat
  epoch : Nat
  part  : Nat
  data  : List Byte
  /-- Doorways still to cross, each with the beats from the step before it to its destination beat -/
  doors : List (Nat × Nat)
  /-- BN_p in which the next step is due: the beat of the send plus the travel up to it -/
  due   : Nat
  /-- travel still to count after the last Doorway -/
  rest  : Nat
  /-- course index of the sender at the send -/
  course : Nat
  deriving DecidableEq, Repr

/-- The Marl and sweep counters of a stack (Tables 6.12, 7.7). -/
inductive StackCtr where
  | crcRd | crcWr | ce | late | swpDone | swpPairs | swpEbusy | swpSlack | swpSvcdef
  deriving DecidableEq, Repr

/-- What a plan block of a tile does when it crosses (R172, R325). -/
inductive BlkOp where
  /-- read 256 bytes into the operand store at a byte offset, or into the Loft at a local address -/
  | rdOpnd (off : Nat)
  | rdLoft (dst : Nat)
  /-- read an instruction-cache line that the front end misses (R104), or that a FETCH names (R101) -/
  | rdLine (miss : Bool)
  /-- write 256 bytes -/
  | wr (data : List Byte)
  /-- update a sync word, or read it for a wait -/
  | sync (u : SyncUpd)
  | rdWait
  deriving DecidableEq, Repr

/-- A plan block of a tile: its address, tile and operation (R176), and the tick at which its request reaches its channel (R175). -/
structure Blk where
  addr : Nat
  tile : Nat
  fly  : Nat
  op   : BlkOp
  rdy  : Nat := 0
  deriving DecidableEq, Repr

/-- A block that has crossed and whose data or acknowledgement is on its way to the tile: the tick at which it arrives, and the
bytes read (R175, R176). -/
structure BackBlk where
  tick : Nat
  blk  : Blk
  data : List Byte
  deriving DecidableEq, Repr

/-- A channel of a stack. -/
structure Chan where
  plan  : List Blk
  /-- blocks that failed their check and are to be sent again, oldest first, each with the position number (47 a frame) of the
  failed position (R179) -/
  again : List (Blk × Nat)
  /-- the first position number that has not been used -/
  pos   : Nat
  /-- whether the stack refreshes in every window, as in force in this channel (R174), and the last window begun, plus 1 -/
  hot   : Bool
  win   : Nat
  /-- plan blocks that re-sends have displaced and that may take the spare position (R179) -/
  disp  : Nat
  /-- service blocks that have still to cross, oldest first: the die each addresses and the first frame in which it may (R172, R214) -/
  svc   : List (Nat × Nat)
  /-- by die, the latest frame to which a service block has been admitted, plus 1 (R214) -/
  dieFr : SMap Nat
  deriving DecidableEq, Repr

/-- A sweep in progress (R205, R206). -/
structure Sweep where
  ent   : SweepEnt
  part  : Nat
  ts    : Nat
  recs  : List (Nat × List Byte)
  pairs : Nat
  ebusy : Nat
  /-- plan blocks counted per die and channel (R214, R215) -/
  blks  : SMap Nat
  /-- by engine, its load in engine beats and the beats that interface blocks have taken from it; by channel, the ticks that refresh
  windows have taken (R211, R214) -/
  loads : SMap Nat
  lost  : SMap Nat
  refr  : SMap Nat
  /-- it has written its records, or stopped at a halt or a hold -/
  fin   : Bool
  stopped : Bool
  deriving DecidableEq, Repr

/-- A Marl stack. -/
structure Stack where
  hot    : Bool
  force2x : Bool
  temp   : Nat
  chans  : SMap Chan
  sweep  : Option Sweep
  sid    : Nat
  /-- sweep starts already taken: course index and sweep index -/
  started : List (Nat × Nat)
  patrol : Nat
  kat    : Nat
  /-- tick in which the interface last carried a plan block, plus 1; 0 if it has carried none (R66) -/
  lastPlan : Nat
  /-- blocks on their way to tiles (R176) -/
  back   : List BackBlk
  ctr    : SMap Nat
  deriving DecidableEq, Repr

def StackCtr.idx : StackCtr → Nat
  | .crcRd => 0 | .crcWr => 1 | .ce => 2 | .late => 3 | .swpDone => 4 | .swpPairs => 5 | .swpEbusy => 6
  | .swpSlack => 7 | .swpSvcdef => 8

def Chan.reset : Chan := { plan := [], again := [], pos := 0, hot := false, win := 0, disp := 0, svc := [], dieFr := [] }
/-- A stack after device reset: PAN_SWP_SLACK reads 0xFFFF_FFFF (Table 7.7), everything else 0. -/
def Stack.reset : Stack :=
  { hot := false, force2x := false, temp := 0, chans := [], sweep := none, sid := 0, started := [], patrol := 0, kat := 0,
    lastPlan := 0, back := [], ctr := [(7, 0xFFFFFFFF)] }

end Sys2Proof.Machine
end

