-- ==== Sys2Proof/Machine/PartState.lean ====
section
/-! DEFINITION. The state of one partition (spec/02, 08, 11 to 15, 17, 18): its plan and run, its launch, its
serving engine, weights, audit, faults and shadowing; and the request records and Larder slots. -/

namespace Sys2Proof.Machine

/-- The command a reply answers: host port, function, TAG, OPC, IRQ and PART (Tables 16.3, 16.4). -/
structure CmdRef where
  hp   : Nat
  fn   : Nat
  tag  : Word
  opc  : Nat
  irq  : Bool
  part : Nat
  deriving DecidableEq, Repr

/-- Launch states (Table 8.14). -/
inductive LaunchSt where
  | idle | armed | confirmed | running | abandoned | complete
  deriving DecidableEq, Repr

/-- A LAUNCH that the root has taken and cannot arm: its own check has failed while a plan runs, or with no plan to launch
(R249, R461). -/
structure Unarmed where
  lid  : Nat
  t    : Nat
  status : Nat
  cancelled : Bool
  reply : CmdRef
  deriving DecidableEq, Repr

/-- Launch of a partition (R247 to R252). -/
structure Launch where
  st     : LaunchSt
  lid    : Nat
  t      : Nat
  root   : Nat
  pdig   : Nat
  /-- port of the arm's parent; none on the root -/
  parent : Option Nat
  /-- LIDs of the arm and the confirm last taken (R248) -/
  seenArm  : Option Nat
  seenConf : Option Nat
  /-- children that acked 0x0, and those that acked at all, for this LID -/
  acksOk : List Nat
  acksIn : List (Nat × Nat)
  acked  : Bool
  ready  : Bool
  /-- first failing status and its origin, on the root -/
  fail   : Option (Nat × Nat)
  confSent : Bool
  conf   : Bool
  late   : Bool
  cancelled : Bool
  reply  : Option CmdRef
  unarmed : Option Unarmed
  deriving DecidableEq, Repr

/-- Run of a partition's plan. -/
structure Run where
  /-- the launch count, moved by pauses (R462) -/
  t0     : Nat
  /-- courses started: index of the latest course, plus 1 -/
  course : Nat
  /-- instantiated courses of a serving plan, with their template index and START (R351) -/
  inst   : List (Nat × Course)
  /-- step number, its base B_k - T as the plan counts it (R63), its shape, and the index of its head course -/
  step   : Nat
  base   : Nat
  shape  : Nat
  head   : Nat
  /-- the step's manifest has been read (R369) -/
  manRead : Bool
  spent  : Bool
  halted : Bool
  haltAt : Nat
  /-- the step is held (R425) -/
  held   : Bool
  /-- hazard detector latched at launch (R64, R65) -/
  hzd    : Bool
  /-- its HALT bit, and whether the detector has stopped the plan under it -/
  hzdStop : Bool
  hzdHalted : Bool
  pause  : Option (Nat × CmdRef)
  paused : Option Nat
  resume : Option (Nat × CmdRef)
  /-- tokens metered in the plan beats of the course -/
  tok    : Nat
  /-- tokens of the partition's matrix engines in each of the latest clock beats (R71) -/
  beatTok : SMap Nat
  deriving DecidableEq, Repr

/-- A manifest entry (Table 12.7). -/
structure ManEnt where
  rcd  : Nat
  kind : Nat
  lane : Nat
  adpen : Bool
  adp  : Nat
  n    : Nat
  off  : Nat
  p0   : Nat
  endp : Bool
  deriving DecidableEq, Repr

/-- A composed manifest (R367). -/
structure Manifest where
  step  : Nat
  shape : Nat
  miss  : Bool
  ntok  : Nat
  ents  : List ManEnt
  deriving DecidableEq, Repr

/-- A Pantry order (Table 12.9). -/
structure Order where
  op   : Nat
  rcd  : Nat
  arg  : Nat
  oseq : Nat
  stat : Nat
  e0   : DWord
  deriving DecidableEq, Repr

/-- The serving counters of a partition (Tables 12.14, 13.9, 14.11, 15.7). -/
inductive ServCtr where
  | steps | tgtMiss | pauses | resumes | heldPages | outHold | outSkip | ordBad | allocWait | demote | promote
  | peerSpill | pageLost | satMarl | satClr | satPeer
  | specNodes | specAcc | specHalve | specDouble | ldrBindRej
  | wdBytes | wdFwd | wdDigfail | wdSkip | wrwLayers | wrwPeak | whold
  | wevSteps | twMatch | twDiv | twMandiff | twUnpaired
  deriving DecidableEq, Repr

/-- Output of one host port of a partition (R378, R379). -/
structure OutPort where
  oqBase : DWord
  ringBase : DWord
  wpAddr : DWord
  wp     : Nat
  rp     : Nat
  /-- bytes of the output stream written to the queue and copied to the ring, in all -/
  wrote  : Nat
  copied : Nat
  /-- ends of the records in the stream that are not yet copied whole -/
  ends   : List Nat
  opened : Bool
  deriving DecidableEq, Repr

/-- A demotion or promotion that a member's pager is carrying out, page pair by page pair (R374, R375). -/
structure PagJob where
  ord   : Order
  /-- page pairs still to move: stack, layer, local head group, pair -/
  todo  : List (Nat × Nat × Nat × Nat)
  /-- for the pair in progress: with the own Cellar or with a peer; the window; the units away from the Marl, and those of the Marl;
  KiB moved or sent; Marl blocks that have had their place in the share (R376); packets outstanding, whether one has failed, and
  failed attempts -/
  busy  : Bool
  clr   : Bool
  win   : Nat
  ku    : Nat
  vu    : Nat
  kd    : Nat
  vd    : Nat
  sent  : Nat
  blks  : Nat
  outst : Nat
  fail  : Bool
  tries : Nat
  status : Nat
  deriving DecidableEq, Repr

/-- Serving engine of a partition. -/
structure Serv where
  tgt    : SMap Nat
  ptmo   : Nat
  sz     : SMap Nat
  cshare : Nat
  peerout : Nat
  peers  : SMap Word
  pend   : List (ServReg × DWord)
  cfgRej : Bool
  stepBase : DWord
  aseq   : Nat
  outs   : SMap OutPort
  /-- composed for the next step, and the manifest of the step in progress -/
  next   : Option Manifest
  cur    : Option Manifest
  /-- the commit of the step whose composition is due, with C_k -/
  compose : Option Nat
  /-- ASEQ of the first submit that the composition due does not yet see (R354) -/
  seqAt  : Nat
  /-- latest committed step plus 1 -/
  committed : Nat
  cancels : List Nat
  /-- sequence number of the next order, and the unconfirmed orders, the member's device ID first -/
  oseq   : Nat
  unconf : List (Nat × Order)
  /-- orders and confirmations that have landed and are not yet taken, with the sender, and orders taken and not yet begun -/
  inbox  : List (Nat × Order)
  orders : List Order
  /-- an allocation waits for units (R372) -/
  allocWait : Bool
  /-- the member's Pantry: page pairs held by each record, e_s of each record, units in use (of the Marl and of the Cellar,
  by 16 KiB; of a peer window, by 2^32 x window + unit), the move in progress, and the completions that have come for it -/
  npairs : SMap Nat
  engs   : SMap DWord
  used   : SMap Nat
  usedC  : SMap Nat
  usedP  : SMap Nat
  job    : Option PagJob
  pagIn  : List (Nat × Nat)
  /-- the pager's shares (R376): blocks of a Marl channel (16 x stack + channel) in a frame, with the frame; bytes of a Cellar
  channel in a window of 10 us, with the window -/
  pgUsed : SMap (Nat × Nat)
  clrUsed : SMap (Nat × Nat)
  ctr    : SMap Nat
  deriving DecidableEq, Repr

/-- A layer's weight state (Table 14.3). LSTATE: 0 empty, 1 valid, 2 torn; SSTATE: 0 empty, 1 receiving, 2 verified, 3 failed. -/
structure WState where
  lgen   : Nat
  lstate : Nat
  sgen   : Nat
  sstate : Nat
  ldig   : BitVec 256
  sdig   : BitVec 256
  deriving DecidableEq, Repr

/-- A distribution as a member sees it (R410 to R419). A layer of a shard has the key LAYER + 4,096 x SHARD of its pieces. -/
structure Dist where
  /-- ring area, chain position, and the descriptor's bytes as they have come -/
  ring   : Nat
  pos    : Nat
  desc   : List Byte
  refused : Bool
  head   : Bool
  /-- stream offsets: covered by ARRW, forwarded, consumed by the conversion; ACKW held for the successor; MiB acknowledged -/
  arrw   : Nat
  fwd    : Nat
  conv   : Nat
  ackw   : Nat
  ackd   : Nat
  /-- the piece in conversion, the stream offset at which it begins, and its bytes so far -/
  piece  : Nat
  poff   : Nat
  cur    : List Byte
  /-- source bytes of each layer, and the layers failed, done and skipped -/
  src    : SMap (List Byte)
  failed : List Nat
  done   : List Nat
  skipped : List Nat
  /-- device time of the last change of ARRW and ACKW -/
  arrAt  : Nat
  ackAt  : Nat
  /-- the report has been sent; the successor is unreachable -/
  reported : Bool
  lost   : Bool
  /-- on the head: STATUS + 1 by position, the time of the last byte, the command -/
  reports : SMap Nat
  lastAt : Option Nat
  reply  : Option CmdRef
  deriving DecidableEq, Repr

/-- A layer being copied from STAGE to LIVE (R424): stacks still copying and the start tick. -/
structure RowCopy where
  layer : Nat
  stks  : List Nat
  start : Nat
  torn  : Bool
  deriving DecidableEq, Repr

/-- Weights of a partition. SWGST: 0 idle, 1 barrier, 2 scheduled, 3 wave, 4 failed (Table 14.10). -/
structure Weights where
  tab    : SMap WState
  cur    : Nat
  wsdig  : BitVec 256
  wsdigS : BitVec 256
  swst   : Nat
  gnew   : Nat
  s      : Nat
  /-- members confirmed ready and scheduled, a failing confirmation, and the commit tick by which schedules are due -/
  ready  : List Nat
  sched  : List Nat
  schedBy : Nat
  reply  : Option CmdRef
  /-- the member's own part of a swap: the generation and the step it applies from -/
  mgen   : Nat
  mstep  : Nat
  copies : List RowCopy
  begun  : List Nat
  /-- distributions, at most one of them not refused -/
  dists  : List Dist
  /-- swap messages that have landed: orders from the lead and confirmations with the member index -/
  ordIn  : List (List Word)
  confIn : List (Nat × List Word)
  repIn  : List (List Word)
  /-- ring areas whose ARRW a flagged SSET has advanced, as a member sees the start of a distribution (R410) -/
  ringIn : List Nat
  deriving DecidableEq, Repr

/-- A digest log record (Table 15.5). -/
structure DigRec where
  step  : Nat
  layer : Nat
  kind  : Nat
  tile  : Nat
  wev   : Bool
  count : Nat
  dig   : BitVec 128
  deriving DecidableEq, Repr

/-- Audit of a partition (spec/15). -/
structure Audit where
  en    : Bool
  trec  : Bool
  lsz   : Nat
  twen  : Bool
  base  : DWord
  /-- a write made while a plan runs waits for the next launch (R441) -/
  pendCtl : Option Word
  pendBase : Option DWord
  wp    : Nat
  /-- steps not yet closed in which a SAT or INV bit was set (R434) -/
  wev   : List Nat
  /-- steps closed: number of the next step to close -/
  closed : Nat
  twin  : Nat
  twBase : DWord
  sent  : Nat
  /-- own records not yet paired, with their number in the log; the twin's records not yet paired, with their number of arrival;
  the records that have landed and are not yet taken; and how many have been taken -/
  own   : List (Nat × DigRec)
  peer  : List (Nat × DigRec)
  /-- step, kind and layer of the own records, and of the twin's, that were overwritten before their partner came (R443) -/
  lostOwn : List (Nat × Nat × Nat)
  lostPeer : List (Nat × Nat × Nat)
  peerIn : List DigRec
  rcvd  : Nat
  /-- digests of the manifests read, by step (Table 15.5) -/
  mans  : SMap (BitVec 128)
  deriving DecidableEq, Repr

/-- FLT_JOB_SUM (Table 18.3). -/
structure JobSum where
  lid   : Nat
  pdev  : Nat
  pclass : Nat
  pcause : Nat
  ptick : Nat
  nrep  : Nat
  nsec  : Nat
  ncop  : Nat
  nrel  : Nat
  deriving DecidableEq, Repr

/-- A fault notice (R502): LID, CLASS, origin and tick; and its sender. -/
structure Notice where
  lid   : Nat
  cls   : Nat
  origin : Nat
  tick  : Nat
  src   : Nat
  deriving DecidableEq, Repr

/-- Faults of a partition (spec/18). -/
structure Faults where
  log   : SMap (List Word)
  wp    : Nat
  haltDrop : Nat
  noteDup  : Nat
  noteStale : Nat
  twhalt : Bool
  resetting : Bool
  /-- the job's first record, the notice held, and whether the notice and the halt report have been sent -/
  first : Option (List Word)
  held  : Option Notice
  secondary : Bool
  noteSent : Bool
  reported : Bool
  notes : List Notice
  repIn : List (List Word)
  sum   : JobSum
  hang  : Option (List Byte)
  /-- a halt whose hang record is not yet collected -/
  hangDue : Bool
  deriving DecidableEq, Repr

/-- Shadowing (R512 to R515). ROLE codes are those of FLT_PSTAT.SROLE (Table 18.10). -/
structure Shadow where
  role   : Nat
  peer   : Nat
  mat    : Nat
  verified : Bool
  /-- course digests of this device and of the partner not yet compared -/
  own    : List (Nat × BitVec 128)
  other  : List (Nat × BitVec 128)
  otherIn : List (Nat × BitVec 128)
  /-- the promotion that is under way: K, and on S the command -/
  promote : Option (Nat × Option CmdRef)
  acked  : Bool
  reqIn  : List Nat
  ackIn  : List Nat
  start  : Option CmdRef
  /-- LGEN and LDIG that W sent at SHADOW_START (R515) -/
  wlayers : SMap (Nat × BitVec 256)
  deriving DecidableEq, Repr

/-- A partition. -/
structure Part where
  plan   : Option Plan
  launch : Launch
  run    : Run
  /-- MNT_LT_CFG: parent, root flag, child mask (Table 8.15) -/
  ltParent : Nat
  ltRoot : Bool
  ltChild : BitVec 16
  sywLim : Nat
  /-- Rafter: children recorded in the round of each barrier -/
  kids   : SMap (List Nat)
  /-- the sync engine's own view of each Rafter barrier (R338): the GENW that it has acted on, and 1 plus the G of the round of which it
  has told the parent -/
  rgen   : SMap Nat
  rsig   : SMap Nat
  /-- mask barriers: ARRIVED and PH -/
  arrived : SMap DWord
  ph     : SMap Nat
  serv   : Serv
  wts    : Weights
  aud    : Audit
  flt    : Faults
  sh     : Shadow
  /-- PKDIG and the debug unlock and challenge of the partition -/
  pkdig  : BitVec 256
  dbg    : Bool
  chal   : Option (BitVec 256)
  deriving DecidableEq, Repr

/-- A request record (Table 12.4). STATE: 0 idle, 1 queued, 2 prefill, 3 decode, 4 paused, 5 draining, 6 done. -/
structure Record where
  state : Nat
  cls   : Nat
  dcls  : Nat
  oport : Nat
  adpen : Bool
  adp   : Nat
  endc  : Nat
  tag   : Word
  aseq  : Nat
  pos   : Nat
  plen  : Nat
  maxnew : Nat
  gen   : Nat
  cap   : Nat
  /-- words 8 to 22 and 24 to 27 as submitted -/
  img   : SMap Word
  tmax  : Nat
  tcur  : Nat
  zrun  : Nat
  frun  : Nat
  last  : Word
  ptick : Nat
  res   : Nat
  panroot : Nat
  /-- first engine per stack (R371); none before the first allocation -/
  e0    : Option DWord
  /-- capacity each member has confirmed, by device ID, and the target ordered -/
  caps  : SMap Nat
  want  : Nat
  freed : List Nat
  demoted : List Nat
  promoting : Bool
  /-- the full digest of the adapter that the request ran with, kept as the request leaves its slot (R436) -/
  adig  : BitVec 256
  /-- the final output entry has been written -/
  lastOut : Bool
  /-- an end without a token deferred until a record is written to its port (R378) -/
  endPend : Option Nat
  /-- audit (R436 to R438) -/
  wacc  : BitVec 256
  wmix  : Bool
  wgen  : Option Nat
  fstep : Nat
  lstep : Nat
  outs  : List Byte
  deriving DecidableEq, Repr

/-- A result digest entry (Table 15.4). -/
structure ResDig where
  valid : Bool
  wmix  : Bool
  endc  : Nat
  tag   : Word
  fstep : Nat
  lstep : Nat
  gen   : Nat
  rdig  : BitVec 256
  otdig : BitVec 256
  deriving DecidableEq, Repr

/-- A Larder slot (Table 13.8) with the adapter's full digest (R399, R436). STATE: 0 empty, 1 loading, 2 ready, 3 failed, 4 retired. -/
structure LSlot where
  state : Nat
  refc  : Nat
  len   : Nat
  dig   : BitVec 256
  /-- the copy has been reported complete on every member -/
  good  : Bool
  deriving DecidableEq, Repr

def ServCtr.idx : ServCtr → Nat
  | .steps => 0 | .tgtMiss => 1 | .pauses => 2 | .resumes => 3 | .heldPages => 4 | .outHold => 5 | .outSkip => 6
  | .ordBad => 7 | .allocWait => 8 | .demote => 9 | .promote => 10 | .peerSpill => 11 | .pageLost => 12
  | .satMarl => 13 | .satClr => 14 | .satPeer => 15
  | .specNodes => 16 | .specAcc => 17 | .specHalve => 18 | .specDouble => 19 | .ldrBindRej => 20
  | .wdBytes => 21 | .wdFwd => 22 | .wdDigfail => 23 | .wdSkip => 24 | .wrwLayers => 25 | .wrwPeak => 26 | .whold => 27
  | .wevSteps => 28 | .twMatch => 29 | .twDiv => 30 | .twMandiff => 31 | .twUnpaired => 32

def Launch.reset : Launch :=
  { st := .idle, lid := 0, t := 0, root := 0, pdig := 0, parent := none, seenArm := none, seenConf := none,
    acksOk := [], acksIn := [], acked := false, ready := false, fail := none, confSent := false, conf := false,
    late := false, cancelled := false, reply := none, unarmed := none }
def Run.reset : Run :=
  { t0 := 0, course := 0, inst := [], step := 0, base := 0, shape := 0, head := 0, manRead := false, spent := false,
    halted := false, haltAt := 0, held := false, hzd := false, hzdStop := false, hzdHalted := false, pause := none, paused := none, resume := none, tok := 0, beatTok := [] }
def OutPort.reset : OutPort :=
  { oqBase := 0, ringBase := 0, wpAddr := 0, wp := 0, rp := 0, wrote := 0, copied := 0, ends := [], opened := true }
/-- SRV_CFG, PAN_PG_CFG and PAN_PEERn resets: Tables 12.11 to 12.13. -/
def Serv.reset : Serv :=
  { tgt := [], ptmo := 0, sz := [], cshare := 4, peerout := 16, peers := [], pend := [], cfgRej := false, stepBase := 0,
    aseq := 0, outs := [], next := none, cur := none, compose := none, seqAt := 0, committed := 0, cancels := [], oseq := 0,
    unconf := [], inbox := [], orders := [], allocWait := false, npairs := [], engs := [], used := [], usedC := [], usedP := [],
    job := none, pagIn := [], pgUsed := [], clrUsed := [], ctr := [] }
def WState.reset : WState := { lgen := 0, lstate := 0, sgen := 0, sstate := 0, ldig := 0, sdig := 0 }
def Weights.reset : Weights :=
  { tab := [], cur := 0, wsdig := 0, wsdigS := 0, swst := 0, gnew := 0, s := 0, ready := [], sched := [], schedBy := 0,
    reply := none, mgen := 0, mstep := 0, copies := [], begun := [], dists := [], ordIn := [], confIn := [], repIn := [], ringIn := [] }
/-- SRV_LDIG_CTL.LSZ 0x10, SRV_TWIN 0xFFFF (Table 15.6, R442). -/
def Audit.reset : Audit :=
  { en := false, trec := false, lsz := 16, twen := false, base := 0, pendCtl := none, pendBase := none, wp := 0,
    wev := [], closed := 0, twin := 0xFFFF, twBase := 0, sent := 0, own := [], peer := [], lostOwn := [], lostPeer := [], peerIn := [],
    rcvd := 0, mans := [] }
/-- PDEV reads 0xFFFF until a primary report arrives (Table 18.3). -/
def JobSum.reset : JobSum :=
  { lid := 0, pdev := 0xFFFF, pclass := 0, pcause := 0, ptick := 0, nrep := 0, nsec := 0, ncop := 0, nrel := 0 }
def Faults.reset : Faults :=
  { log := [], wp := 0, haltDrop := 0, noteDup := 0, noteStale := 0, twhalt := false, resetting := false, first := none,
    held := none, secondary := false, noteSent := false, reported := false, notes := [], repIn := [],
    sum := JobSum.reset, hang := none, hangDue := false }
def Shadow.reset : Shadow :=
  { role := 0, peer := 0, mat := 0, verified := false, own := [], other := [], otherIn := [], promote := none,
    acked := false, reqIn := [], ackIn := [], start := none, wlayers := [] }
/-- The departures of this device are skipped: S before it is promoted, W after (R514). -/
def Shadow.silent (h : Shadow) : Bool := decide (h.role = 1 ∨ h.role = 2 ∨ h.role = 5)
def Part.reset : Part :=
  { plan := none, launch := Launch.reset, run := Run.reset, ltParent := 0, ltRoot := false, ltChild := 0, sywLim := 0,
    kids := [], rgen := [], rsig := [], arrived := [], ph := [], serv := Serv.reset, wts := Weights.reset, aud := Audit.reset,
    flt := Faults.reset, sh := Shadow.reset, pkdig := 0, dbg := false, chal := none }
def Record.reset : Record :=
  { state := 0, cls := 0, dcls := 0, oport := 0, adpen := false, adp := 0, endc := 0, tag := 0, aseq := 0, pos := 0,
    plen := 0, maxnew := 0, gen := 0, cap := 0, img := [], tmax := 0, tcur := 0, zrun := 0, frun := 0, last := 0,
    ptick := 0, res := 0, panroot := 0, e0 := none, caps := [], want := 0, freed := [], demoted := [],
    promoting := false, adig := 0, lastOut := false, endPend := none, wacc := 0, wmix := false, wgen := none, fstep := 0, lstep := 0,
    outs := [] }
def ResDig.reset : ResDig :=
  { valid := false, wmix := false, endc := 0, tag := 0, fstep := 0, lstep := 0, gen := 0, rdig := 0, otdig := 0 }
def LSlot.reset : LSlot := { state := 0, refc := 0, len := 0, dig := 0, good := false }

end Sys2Proof.Machine
end

