-- ==== Sys2Proof/Machine/DevState.lean ====
section
/-! DEFINITION. The state of the device as a whole: host ports and command processor (spec/16), fabric (spec/09),
Mantel generator and time discipline (spec/08), Hearth (spec/17), faults and self-test (spec/18), bring-up and
identity (spec/19), supplies, pins and power (spec/02, spec/20). -/

namespace Sys2Proof.Machine

/-! ## Host ports and the command processor -/

/-- A reply formed and not yet written (Table 16.4, without PHASE). -/
structure Reply where
  tag    : Word
  opc    : Nat
  status : Nat
  part   : Nat
  irq    : Bool
  mtick  : Nat
  res    : List Word
  deriving DecidableEq, Repr

/-- The counters of Table 16.11 kept per function. -/
inductive FnCtr where
  | submitted | rejected | dropOvf
  deriving DecidableEq, Repr

/-- A function of a host port: its command window, reply ring, apertures and interrupts (Tables 16.1, 16.11). -/
structure Fn where
  /-- command window words by 64 x slot + word (R451) -/
  slots  : SMap Word
  base   : DWord
  rsz    : Nat
  en     : Bool
  wp     : Nat
  rp     : Nat
  phase  : Bool
  held   : List Reply
  ovf    : Bool
  apBase : DWord
  twBase : Word
  psel   : Nat
  irqMask : Word
  irqStat : Word
  ctr    : SMap Nat
  deriving DecidableEq, Repr

/-- A submitted packet (R451): its function, its words, and whether it was submitted with LEN outside 3 to 64. -/
structure Submitted where
  fn    : Nat
  words : List Word
  badLen : Bool
  deriving DecidableEq, Repr

/-- A host port (R447, R448, R450, R452, R518). -/
structure HostPort where
  /-- PERST# is asserted -/
  perst : Bool
  up    : Bool
  x8    : Bool
  /-- virtual functions that the host has enabled: VF1 to VF`vfs` -/
  vfs   : Nat
  q     : List Submitted
  outst : Nat
  deriving DecidableEq, Repr

/-- A host wait (R463). -/
structure HostWait where
  ref  : CmdRef
  addr : Nat
  val  : DWord
  eq   : Bool
  /-- tick at which TMO expires; none for no limit -/
  till : Option Nat
  deriving DecidableEq, Repr

/-- A copy in progress (R459). -/
structure Dma where
  ref    : CmdRef
  toHost : Bool
  haddr  : Nat
  laddr  : Nat
  nu     : Nat
  deriving DecidableEq, Repr

/-- A BIND in progress (R477): the units being cleared, by KIND and index. -/
structure Binding where
  ref   : CmdRef
  units : List (Nat × Nat)
  tpart : Nat
  unb   : Bool
  deriving DecidableEq, Repr

/-- A PLAN_LOAD accepted and not yet complete (R460). -/
structure Loading where
  ref  : CmdRef
  part : Nat
  plan : Plan
  deriving DecidableEq, Repr

/-- The command processor and what it waits for. -/
structure Cmd where
  fns   : SMap Fn
  ports : SMap HostPort
  /-- the port taken last (R450) -/
  lastPort : Nat
  apViol : Nat
  regViol : Nat
  waits : List HostWait
  dma   : SMap (List Dma)
  binds : List Binding
  loads : List Loading
  /-- CTX_RESETs to be answered, by partition (R506) -/
  resets : List (Nat × CmdRef)
  fwup  : Option (CmdRef × List Byte)
  /-- a successful FW_UPDATE reply has been formed in the recovery ROM: tick of the reset (R483) -/
  romReset : Option Nat
  /-- bytes returned by the latest aperture or register read, and the latest sideband response -/
  rd    : List Byte
  sb    : List DWord
  /-- host memory as the device has written it and reads it -/
  host  : SMap Byte
  deriving DecidableEq, Repr

/-! ## Fabric -/

/-- What a source keeps for a destination (R285). -/
structure OrdDst where
  fi   : Nat
  n    : Nat
  sent : Bool
  deriving DecidableEq, Repr

/-- A flagged packet waiting in the Vestibule (R286, R287). -/
structure VestEnt where
  fi    : Nat
  npre  : Nat
  since : Nat
  pkt   : Packet
  deriving DecidableEq, Repr

/-- A tally (R286): interval, count and the tick from which it is held. -/
structure Tally where
  fi    : Nat
  n     : Nat
  since : Nat
  deriving DecidableEq, Repr

/-- What the destination keeps for a source (R286). -/
structure OrdSrc where
  cur   : Nat
  cnt   : Nat
  vest  : List VestEnt
  tally : List Tally
  deriving DecidableEq, Repr

/-- The device counters of Table 9.13, FAB_VEST_PEAK among them. -/
inductive FabCtr where
  | hcrcDrop | badHdr | planBadAddr | planNoRoute | noRoute | genDrop | hopDrop | ordLate | ordDup | vestTmo | vestFull
  | vestPeak
  deriving DecidableEq, Repr

/-- The fabric of the device: routes, generations and ordering (R278 to R289). -/
structure Fab where
  devid  : Nat
  active : Nat
  prev   : Nat
  pvalid : Bool
  armed  : Bool
  rej    : Bool
  next   : Nat
  actAt  : DWord
  /-- tick at which the previous generation retires -/
  retireAt : Nat
  /-- which bank is active, and the two banks of entries -/
  sel    : Bool
  bank0  : SMap Byte
  bank1  : SMap Byte
  dst    : SMap OrdDst
  src    : SMap OrdSrc
  /-- service packets whose destination is the device itself, sent by its own units; key is the channel -/
  loc    : SMap (List Packet)
  onDie  : List OnDie
  /-- header of the completion delivered last (R270, R272) -/
  cpl    : Option Flit
  ctr    : SMap Nat
  deriving DecidableEq, Repr

/-! ## Mantel generator and time discipline -/

/-- Discipline states (Table 8.8). -/
inductive TdSt where
  | unlocked | acquire | track | holdover
  deriving DecidableEq, Repr

/-- A reference input (R237). -/
structure RefIn where
  good   : Bool
  /-- consecutive windows within every limit -/
  run    : Nat
  /-- device time at which it last became good -/
  goodAt : Nat
  deriving DecidableEq, Repr

/-- The counters of Table 8.11. -/
inductive MntCtr where
  | refaSoft | refbSoft | refFailover | tdOob | tdHold
  deriving DecidableEq, Repr

/-- Mantel time of the device. -/
structure Mnt where
  /-- the count, and whether it runs (stage 8) -/
  now   : Nat
  run   : Bool
  /-- ticks since device reset, counted by the generator whether or not the count runs -/
  up    : Nat
  latch : Word
  pref  : Bool
  revert : Bool
  refA  : RefIn
  refB  : RefIn
  /-- reference in use, if any: false A, true B -/
  active : Option Bool
  hold  : Bool
  tdEn  : Bool
  master : Bool
  parent : Nat
  altEn : Bool
  alt   : Nat
  td    : TdSt
  altUse : Bool
  /-- last offset in tenths of a tick -/
  theta : Int
  /-- rate to which the count is steered, in thousandths of a ppm from the reference rate, and the device time of its last change -/
  rate  : Int
  rateAt : Nat
  /-- exchanges in a row with small offset and PTRK = 1 -/
  okRun : Nat
  loaded : Bool
  /-- device time from which the parent's silence counts at the earliest -/
  tdAt  : Nat
  /-- device time at which HOLDOVER was entered, and whether its fault has been raised -/
  holdAt : Nat
  holdFlt : Bool
  wcPendM : DWord
  wcPendU : DWord
  wcM   : DWord
  wcU   : DWord
  ctr   : SMap Nat
  deriving DecidableEq, Repr

/-! ## Hearth -/

/-- The unit's fused identity and numbering (R14, R16, R25, R509, R524 to R527): physical indices of the units in
logical order, with the list of retired units and the presentation. -/
structure Ident where
  idgen  : Nat
  /-- 0 ZM-M2A, 1 ZM-M2B, 2 ZM-M2C, 0xFF no grade -/
  grade  : Nat
  tiles  : List Nat
  stks : List Nat
  ports  : List Nat
  /-- physical Doorways marked unusable (R25) -/
  badDoors : List Nat
  /-- retired 1 GiB Marl regions and 16 GiB Cellar regions, which are holes (R509) -/
  holeM  : List Nat
  holeC  : List Nat
  pres   : Bool
  deriving DecidableEq, Repr

/-- Hearth (R480 to R498), with its fuses and its flash area. -/
structure Hearth where
  lc     : Nat
  pend   : Nat
  dbgDev : Bool
  recov    : Bool
  cause  : Nat
  svnRun : Nat
  svnFloor : Nat
  fwdig  : BitVec 256
  /-- current device-level challenge -/
  chal   : Option (BitVec 256)
  /-- the boot flash: the firmware image, and whether a write was interrupted -/
  image  : List Byte
  torn   : Bool
  /-- fused-off physical units: tiles, stacks, ports -/
  fuseT  : List Nat
  fuseS  : List Nat
  fuseP  : List Nat
  /-- retirement list (R509): KIND (0 tile, 2 stack, 3 port, 4 Doorway, 5 Marl region, 6 Cellar region, 7 Cellar
  channel) and physical index -/
  retired : List (Nat × Nat)
  full   : Bool
  /-- presentation map and the flash bits RED and PRESENT.EN; PWR_PRESENT.REJ -/
  pmap   : BitVec 512
  red    : Bool
  presEn : Bool
  presRej : Bool
  /-- binding table (Table 17.1), by offset -/
  bind   : SMap Byte
  id     : Ident
  deriving DecidableEq, Repr

/-! ## Power, pins, bring-up -/

/-- Supplies, pins, power states and bring-up (R67 to R71, R493, R517 to R545). -/
structure Pwr where
  avgW   : Nat
  peakW  : Nat
  rejB   : Bool
  govFaults : Nat
  /-- PWR_STATE: 0 to 4 for P0 to P4 -/
  state  : Nat
  /-- last bring-up stage completed -/
  stage  : Nat
  rsvc   : Bool
  full   : Bool
  fstage : Nat
  fcause : Nat
  /-- a FULLREQ is rerunning stage 6 or 7 -/
  rerun  : Option Nat
  /-- populations and sizes found (Tables 6.8, 6.9) -/
  chpop  : Nat
  dsz    : Nat
  /-- stacks and Cellar channels trained -/
  trained : List Nat
  trainedC : List Nat
  sbIp   : Word
  rst    : Word
  pwrOk  : Bool
  offReq : Bool
  /-- device time at which OFF_REQ# was asserted -/
  offAt  : Nat
  quiesced : Bool
  thermtrip : Bool
  sysFault : Bool
  /-- the device is held in reset until PWR_OK is deasserted -/
  inReset : Bool
  twarn  : Nat
  tCore  : Nat
  tPorchA : Nat
  tPorchB : Nat
  avg1ms : Nat
  avg1s  : Nat
  /-- largest metered tokens in any beat of the last second, and of each of the last 1,000 milliseconds -/
  tokPeak : Nat
  tokHist : List Nat
  tokMs  : Nat
  /-- device time of the latest telemetry update -/
  telAt  : Nat
  /-- OFF_REQ# has stood for 1 s with PWR_OK asserted (R539) -/
  offLate : Bool
  /-- ticks for which no reference has been good (R520, FCAUSE 0x1) -/
  refLost : Nat
  deriving DecidableEq, Repr

/-! ## Faults and self-test of the device; memory -/

/-- The device counters of spec/06, 11 and 18. -/
inductive DevCtr where
  | mapHole | xpartMem | regFabdrop | sigErr | stPass | stFail | stCoalesce | katSeg
  deriving DecidableEq, Repr

/-- A targeted self-test that waits (R508): the row of Table 18.7 (0 Loft, 1 Marl sector, 2 Marl CRC, 3 Cellar,
4 Doorway, 5 tile known answer, 6 bank-side known answer, 7 link) and the resource. -/
structure SelfTest where
  kind : Nat
  idx  : Nat
  deriving DecidableEq, Repr

/-- A hazard record (R64): the tile, the slot, the epoch and the plan beat of the earlier landing, those of the access
that found the hazard, the course index and the instruction address. -/
structure HzdRec where
  tile  : Nat
  slot  : Nat
  ep0   : Nat
  ep1   : Nat
  beat0 : Nat
  beat1 : Nat
  course : Nat
  iaddr : Nat
  deriving DecidableEq, Repr

/-- What the hazard detector keeps of a Landing slot (R64): epoch and plan beat of the latest landing, whether it has
been read, and the plan beats of its reads. -/
structure HzdSlot where
  ep    : Nat
  beat  : Nat
  seen  : Bool
  reads : List Nat
  deriving DecidableEq, Repr

/-- Faults and self-test of the device. -/
structure Dev where
  events : SMap (List Word)
  evWp   : Nat
  tests  : List SelfTest
  /-- spare rows and lanes used, by 2^48 x kind + bank or channel -/
  spares : SMap Nat
  hzdEn  : Bool
  hzdHalt : Bool
  hzdRecs : List HzdRec
  /-- by 256 x tile + slot -/
  hzdSlots : SMap HzdSlot
  hzdLost : Nat
  ctr    : SMap Nat
  /-- corrected Cellar reads by channel (FLT_CLR_CE) -/
  clrCe  : SMap Nat
  /-- sectors, Loft words and tags that hold an uncorrectable error (R182 to R185), by address -/
  bad    : List Nat
  badTag : List (Nat × Nat)
  /-- Loft words, Marl sectors and Cellar transfers that hold a correctable error, by address (R182, R184, R188) -/
  soft   : List Nat
  /-- arrival tags that hold a correctable error: tile and slot (R184) -/
  softTag : List (Nat × Nat)
  /-- 256 B blocks whose next crossing of a stack interface as a service block or a missed line fails its CRC, by address (R178) -/
  crcBad : List Nat
  deriving DecidableEq, Repr

/-! ## Reset values -/

/-- RSZ 9, IRQ_MASK 7 (Tables 16.11, 16.13). -/
def Fn.reset : Fn :=
  { slots := [], base := 0, rsz := 9, en := false, wp := 0, rp := 0, phase := true, held := [], ovf := false, apBase := 0,
    twBase := 0, psel := 0, irqMask := 7, irqStat := 0, ctr := [] }
def HostPort.reset : HostPort := { perst := true, up := false, x8 := false, vfs := 0, q := [], outst := 0 }
def Cmd.reset : Cmd :=
  { fns := [], ports := [], lastPort := 1, apViol := 0, regViol := 0, waits := [], dma := [], binds := [], loads := [],
    resets := [], fwup := none, romReset := none, rd := [], sb := [], host := [] }
def OrdDst.reset : OrdDst := { fi := 0, n := 0, sent := false }
def OrdSrc.reset : OrdSrc := { cur := 0, cnt := 0, vest := [], tally := [] }
/-- FAB_DEVID 0xFFFF, NEXT 1, every route entry with VALID = 0 (Tables 9.7, 9.8, R283). -/
def Fab.reset : Fab :=
  { devid := 0xFFFF, active := 0, prev := 0, pvalid := false, armed := false, rej := false, next := 1, actAt := 0,
    retireAt := 0, sel := false, bank0 := [], bank1 := [], dst := [], src := [], loc := [], onDie := [], cpl := none, ctr := [] }
def RefIn.reset : RefIn := { good := false, run := 0, goodAt := 0 }
def Mnt.reset : Mnt :=
  { now := 0, run := false, up := 0, latch := 0, pref := false, revert := false, refA := RefIn.reset, refB := RefIn.reset,
    active := none, hold := false, tdEn := false, master := false, parent := 0, altEn := false, alt := 0,
    td := .unlocked, altUse := false, theta := 0, rate := 0, rateAt := 0, okRun := 0, loaded := false, tdAt := 0, holdAt := 0,
    holdFlt := false, wcPendM := 0, wcPendU := 0, wcM := 0, wcU := 0, ctr := [] }
/-- A ZM-M2A unit with nothing fused off (R2, R16). DESIGN CHOICE (log entry 13). -/
def Ident.reset : Ident :=
  { idgen := 0, grade := 0, tiles := List.range 256, stks := List.range 8, ports := List.range 16, badDoors := [], holeM := [], holeC := [],
    pres := false }
/-- DESIGN CHOICE (log entries 13, 14). -/
def Hearth.reset : Hearth :=
  { lc := 1, pend := 0, dbgDev := false, recov := false, cause := 0, svnRun := 0, svnFloor := 0, fwdig := 0, chal := none,
    image := [], torn := false, fuseT := [], fuseS := [], fuseP := [], retired := [], full := false, pmap := 0,
    red := false, presEn := false, presRej := false, bind := [], id := Ident.reset }
/-- PWR_BUDGET AVG_W 0x4B0, PEAK_W 0x5DC (Table 2.9); reset cause 0b000. -/
def Pwr.reset : Pwr :=
  { avgW := 0x4B0, peakW := 0x5DC, rejB := false, govFaults := 0, state := 0, stage := 0, rsvc := false, full := false,
    fstage := 0, fcause := 0, rerun := none, chpop := 0, dsz := 0, trained := [], trainedC := [], sbIp := 0, rst := 0,
    pwrOk := false, offReq := false, offAt := 0, quiesced := false, thermtrip := false, sysFault := false,
    inReset := true, twarn := 0, tCore := 0, tPorchA := 0, tPorchB := 0, avg1ms := 0, avg1s := 0, tokPeak := 0,
    tokHist := [], tokMs := 0, telAt := 0, offLate := false, refLost := 0 }
def HzdSlot.reset : HzdSlot := { ep := 0, beat := 0, seen := true, reads := [] }
def Dev.reset : Dev :=
  { events := [], evWp := 0, tests := [], spares := [], hzdEn := false, hzdHalt := false, hzdRecs := [], hzdSlots := [], hzdLost := 0,
    ctr := [], clrCe := [], bad := [], badTag := [], soft := [], softTag := [], crcBad := [] }

def FnCtr.idx : FnCtr → Nat
  | .submitted => 0 | .rejected => 1 | .dropOvf => 2
def FabCtr.idx : FabCtr → Nat
  | .hcrcDrop => 0 | .badHdr => 1 | .planBadAddr => 2 | .planNoRoute => 3 | .noRoute => 4 | .genDrop => 5 | .hopDrop => 6
  | .ordLate => 7 | .ordDup => 8 | .vestTmo => 9 | .vestFull => 10 | .vestPeak => 11
def MntCtr.idx : MntCtr → Nat
  | .refaSoft => 0 | .refbSoft => 1 | .refFailover => 2 | .tdOob => 3 | .tdHold => 4
def DevCtr.idx : DevCtr → Nat
  | .mapHole => 0 | .xpartMem => 1 | .regFabdrop => 2 | .sigErr => 3 | .stPass => 4 | .stFail => 5 | .stCoalesce => 6
  | .katSeg => 7

end Sys2Proof.Machine
end

