-- ==== Sys2Proof/Machine/State.lean ====
section
/-! DEFINITION. The machine state: everything the manual gives a Mallilar, as plain data, with the queue of commands
that wait; the state right after reset; and the reasons for which a command can stop. -/

namespace Sys2Proof.Machine

/-- The state of the device. -/
structure State where
  /-- commands that wait, first in, first out -/
  pending : List Instr
  tiles  : SMap Tile
  rooms  : SMap Room
  stks : SMap Stack
  ports  : SMap Port
  parts  : SMap Part
  recs   : SMap Record
  resd   : SMap ResDig
  larder : SMap LSlot
  cmd    : Cmd
  fab    : Fab
  mnt    : Mnt
  hrt    : Hearth
  pwr    : Pwr
  dev    : Dev
  /-- bytes of the Marl, the Cellar and the Lofts, by 48-bit local address (R164) -/
  mem    : SMap Byte
  /-- Cellar granules of 64 KiB whose valid bit is 1 (R190) -/
  valid  : SMap Bool
  /-- the model's own counter of free values drawn -/
  free   : Nat
  deriving DecidableEq, Repr

/-- Reasons to stop the run. The manual's own faults are records in the fault log, after which the device goes on
(R499 to R501); none of them is one of these. No meaning of this model answers with a fault. DESIGN CHOICE (log entry 83). -/
inductive Fault where
  /-- Raised by no command: kept so that the type names what an impossible state would be. Safe. -/
  | impossible
  deriving DecidableEq, Repr

/-- Reasons to refuse a command. -/
inductive Refusal where
  /-- Raised by the dispatch for a command that has no meaning yet. Safe: nothing can be proved of it. -/
  | notModelled (mnemonic : String)
  deriving DecidableEq, Repr

/-- What a byte of the Marl, the Cellar or a Loft that nothing has written reads as. DESIGN CHOICE (log entry 11). -/
def memDefault : Byte := 0

/-- The state right after the reset of VDD_AUX power-on: every field at the value the manual states, and where it
states none at the value that the assumption log names. -/
def State.reset : State :=
  { pending := [], tiles := [], rooms := [], stks := [], ports := [], parts := [], recs := [], resd := [], larder := [],
    cmd := Cmd.reset, fab := Fab.reset, mnt := Mnt.reset, hrt := Hearth.reset, pwr := Pwr.reset, dev := Dev.reset,
    mem := [], valid := [], free := 0 }

end Sys2Proof.Machine
end

