-- ==== Sys2Proof/Machine/Ops.lean ====
section
/-! DEFINITION. The named operations over the units, the counters and the memory of the device: which units exist and to
whom they are bound (R476), the address map and the outcome of an access (R164 to R170, R190), and what every write
drives (R330, R463). -/

namespace Sys2Proof.Machine

/-! ## Units -/

def State.tile (s : State) (t : Nat) : Tile := SMap.get Tile.reset s.tiles t
def State.setTile (s : State) (t : Nat) (v : Tile) : State := { s with tiles := SMap.put Tile.reset s.tiles t v }
def State.room (s : State) (r : Nat) : Room := SMap.get Room.reset s.rooms r
def State.setRoom (s : State) (r : Nat) (v : Room) : State := { s with rooms := SMap.put Room.reset s.rooms r v }
def State.stack (s : State) (k : Nat) : Stack := SMap.get Stack.reset s.stks k
def State.setStack (s : State) (k : Nat) (v : Stack) : State := { s with stks := SMap.put Stack.reset s.stks k v }
def State.port (s : State) (n : Nat) : Port := SMap.get Port.reset s.ports n
def State.setPort (s : State) (n : Nat) (v : Port) : State := { s with ports := SMap.put Port.reset s.ports n v }
def State.part (s : State) (p : Nat) : Part := SMap.get Part.reset s.parts p
def State.setPart (s : State) (p : Nat) (v : Part) : State := { s with parts := SMap.put Part.reset s.parts p v }
def State.record (s : State) (r : Nat) : Record := SMap.get Record.reset s.recs r
def State.setRecord (s : State) (r : Nat) (v : Record) : State := { s with recs := SMap.put Record.reset s.recs r v }
def State.resDig (s : State) (r : Nat) : ResDig := SMap.get ResDig.reset s.resd r
def State.setResDig (s : State) (r : Nat) (v : ResDig) : State := { s with resd := SMap.put ResDig.reset s.resd r v }
def State.lslot (s : State) (n : Nat) : LSlot := SMap.get LSlot.reset s.larder n
def State.setLslot (s : State) (n : Nat) (v : LSlot) : State := { s with larder := SMap.put LSlot.reset s.larder n v }

def State.modTile (s : State) (t : Nat) (f : Tile → Tile) : State := s.setTile t (f (s.tile t))
def State.modRoom (s : State) (r : Nat) (f : Room → Room) : State := s.setRoom r (f (s.room r))
def State.modStack (s : State) (k : Nat) (f : Stack → Stack) : State := s.setStack k (f (s.stack k))
def State.modPort (s : State) (n : Nat) (f : Port → Port) : State := s.setPort n (f (s.port n))
def State.modPart (s : State) (p : Nat) (f : Part → Part) : State := s.setPart p (f (s.part p))
def State.modRecord (s : State) (r : Nat) (f : Record → Record) : State := s.setRecord r (f (s.record r))

/-- The key of a function of a host port. -/
def fnKey (hp fn : Nat) : Nat := hp * 65 + fn
def State.fn (s : State) (hp fn : Nat) : Fn := SMap.get Fn.reset s.cmd.fns (fnKey hp fn)
def State.modCmd (s : State) (f : Cmd → Cmd) : State := { s with cmd := f s.cmd }
def State.setFn (s : State) (hp fn : Nat) (v : Fn) : State :=
  s.modCmd fun c => { c with fns := SMap.put Fn.reset c.fns (fnKey hp fn) v }
def State.modFn (s : State) (hp fn : Nat) (f : Fn → Fn) : State := s.setFn hp fn (f (s.fn hp fn))
def State.hport (s : State) (hp : Nat) : HostPort := SMap.get HostPort.reset s.cmd.ports hp
def State.modHport (s : State) (hp : Nat) (f : HostPort → HostPort) : State :=
  s.modCmd fun c => { c with ports := SMap.put HostPort.reset c.ports hp (f (s.hport hp)) }
def State.modFab (s : State) (f : Fab → Fab) : State := { s with fab := f s.fab }
def State.modMnt (s : State) (f : Mnt → Mnt) : State := { s with mnt := f s.mnt }
def State.modHrt (s : State) (f : Hearth → Hearth) : State := { s with hrt := f s.hrt }
/-- A section of the identity data is rewritten: IDGEN moves to the next even value (R524). -/
def State.idWrite (s : State) : State :=
  s.modHrt fun h => { h with id := { h.id with idgen := (h.id.idgen / 2 * 2 + 2) % 2 ^ 32 } }
def State.modPwr (s : State) (f : Pwr → Pwr) : State := { s with pwr := f s.pwr }
def State.modDev (s : State) (f : Dev → Dev) : State := { s with dev := f s.dev }

/-- The Mantel count. -/
def State.now (s : State) : Nat := s.mnt.now
/-- The device ID. -/
def State.me (s : State) : Nat := s.fab.devid

/-- DESIGN CHOICE (log entry 10). -/
def State.nTiles (s : State) : Nat := s.hrt.id.tiles.length
/-- DESIGN CHOICE (log entry 10). -/
def State.nStacks (s : State) : Nat := s.hrt.id.stks.length
/-- DESIGN CHOICE (log entry 10). -/
def State.nPorts (s : State) : Nat := s.hrt.id.ports.length
/-- Physical position of a logical tile, and its Room (R16). -/
def State.physTile (s : State) (t : Nat) : Nat := s.hrt.id.tiles.getD t 0
def State.roomOf (s : State) (t : Nat) : Nat := s.physTile t / 16

/-- Tenths of a Mantel tick at which a Room's beat in progress began. -/
def State.begTicks (s : State) (r : Nat) : Int := (s.room r).beg + 10 * (s.mnt.now : Int) - 10 * (s.mnt.up : Int)

/-! ## Counters -/

/-- Add to a saturating counter of `w` bits. -/
def bump (w n : Nat) (m : SMap Nat) (i : Nat) : SMap Nat := SMap.put 0 m i (satAdd w (SMap.get 0 m i) n)

/-- Widths of Tables 2.5, 3.11, 4.10, 6.12 and 11.9. -/
def TileCtr.width : TileCtr → Nat
  | .slipIlk | .stretchE8 | .stepdnE8 | .qhold | .skipw | .mxActive | .sywBeats | .sywPoll | .monNote => 48
  | _ => 32

def Tile.count (v : Tile) (c : TileCtr) (n : Nat) : Tile := { v with ctr := bump c.width n v.ctr c.idx }
def State.tileCount (s : State) (t : Nat) (c : TileCtr) (n : Nat) : State := s.modTile t fun v => v.count c n

/-- Widths of Tables 9.13 and 10.7. -/
def PortCtr.width : PortCtr → Nat
  | .grpBad | .dup | .oos | .svcRflits | .planRflits | .downDrop | .planDrop | .fenceDrop => 48
  | .rbPeak | .lqPeak => 16
  | _ => 32
def Port.count (v : Port) (c : PortCtr) (n : Nat) : Port := { v with ctr := bump c.width n v.ctr c.idx }
def State.portCount (s : State) (n : Nat) (c : PortCtr) (k : Nat) : State := s.modPort n fun v => v.count c k
/-- A counter that keeps the largest value seen. -/
def Port.peak (v : Port) (c : PortCtr) (k : Nat) : Port :=
  { v with ctr := SMap.put 0 v.ctr c.idx (max (SMap.get 0 v.ctr c.idx) (min (2 ^ c.width - 1) k)) }

def RoomCtr.width : RoomCtr → Nat
  | .alarm => 32
  | _ => 48
def Room.count (v : Room) (c : RoomCtr) (n : Nat) : Room := { v with ctr := bump c.width n v.ctr c.idx }

def StackCtr.width : StackCtr → Nat
  | .swpSlack => 32
  | _ => 48
def Stack.count (v : Stack) (c : StackCtr) (n : Nat) : Stack := { v with ctr := bump c.width n v.ctr c.idx }
def State.stackCount (s : State) (k : Nat) (c : StackCtr) (n : Nat) : State := s.modStack k fun v => v.count c n

def FabCtr.width : FabCtr → Nat
  | .vestFull => 48
  | .vestPeak => 16
  | _ => 32
def State.fabCount (s : State) (c : FabCtr) (n : Nat) : State := s.modFab fun f => { f with ctr := bump c.width n f.ctr c.idx }

def State.mntCount (s : State) (c : MntCtr) (n : Nat) : State := s.modMnt fun m => { m with ctr := bump 32 n m.ctr c.idx }

def DevCtr.width : DevCtr → Nat
  | .stPass | .stCoalesce | .katSeg => 48
  | _ => 32
def State.devCount (s : State) (c : DevCtr) (n : Nat) : State := s.modDev fun d => { d with ctr := bump c.width n d.ctr c.idx }

/-- The counters of a function: 48 bits for CMD_SUBMITTED, 32 for the others (Table 16.11). -/
def FnCtr.width : FnCtr → Nat
  | .submitted => 48
  | _ => 32
def State.fnCount (s : State) (hp fn : Nat) (c : FnCtr) : State :=
  s.modFn hp fn fun f => { f with ctr := bump c.width 1 f.ctr c.idx }

/-! ## Binding (R476, Table 17.1) -/

/-- Offset of a KIND's entries in the binding table. -/
def bindOff : Nat → Nat
  | 0 => 0x000 | 1 => 0x100 | 2 => 0x280 | 3 => 0x300 | 4 => 0x310 | _ => 0x350

def State.bindEntry (s : State) (kind i : Nat) : Nat := (SMap.get 0 s.hrt.bind (bindOff kind + i)).toNat
/-- The unit is being cleared. -/
def State.clearing (s : State) (kind i : Nat) : Bool := bit (s.bindEntry kind i) 7
/-- The partition to which a unit is bound, if any; a unit under clear belongs to none (R191). -/
def State.owner (s : State) (kind i : Nat) : Option Nat :=
  let e := s.bindEntry kind i
  if bit e 6 && !bit e 7 then some (bits e 0 6) else none
def State.setBind (s : State) (kind i e : Nat) : State :=
  s.modHrt fun h => { h with bind := SMap.put 0 h.bind (bindOff kind + i) (byte e) }

/-- Installed Cellar capacity in GiB (Tables 6.8, 6.9). -/
def dimmGiB : Nat → Nat
  | 1 => 32 | 2 => 64 | 3 => 96 | 4 => 128 | 5 => 192 | 6 => 256 | _ => 0
def chanCount (chpop : Nat) : Nat := ((List.range 8).filter fun i => bit chpop i).length
def State.cellarGiB (s : State) : Nat := chanCount s.pwr.chpop * dimmGiB s.pwr.dsz

/-- Count of units of a KIND (Table 17.1). -/
def State.unitCount (s : State) (kind : Nat) : Nat :=
  match kind with
  | 0 => s.nTiles
  | 1 => 48 * s.nStacks
  | 2 => s.cellarGiB / 16
  | 3 => s.nPorts
  | _ => 64

/-- Every logical unit of the device is in range of its KIND. -/
def State.inCount (s : State) (kind first count : Nat) : Bool := decide (first + count ≤ s.unitCount kind)

/-- Tiles bound to a partition, in logical order. -/
def State.tilesOf (s : State) (p : Nat) : List Nat := (List.range s.nTiles).filter fun t => s.owner 0 t = some p

/-! ## The address map (R164, R166 to R169, R187) -/

/-- 48 GiB of a stack. -/
def stackSize : Nat := 0xC00000000

/-- The end of the Marl range of Table 6.1: 384 GiB. -/
def marlEnd : Nat := 8 * stackSize

/-- Where a local address lies (Table 6.1). -/
inductive Region where
  | marl (stk off : Nat)
  | cellar (off : Nat)
  | loft (tile off : Nat)
  | regs (off : Nat)
  | hole
  deriving DecidableEq, Repr

/-- A Marl stack is usable once trained (R519, R520). -/
def State.stackUp (s : State) (k : Nat) : Bool := decide (k < s.nStacks) && s.pwr.trained.contains k

/-- The Cellar channel of an offset: unit u lies on the (u mod N)-th populated channel (R187). -/
def State.cellarChan (s : State) (off : Nat) : Nat :=
  let cs := (List.range 8).filter fun i => bit s.pwr.chpop i
  cs.getD ((off / 4096) % cs.length) 0

def State.region (s : State) (a : Nat) : Region :=
  if a < marlEnd then
    let k := a / stackSize
    if k < s.nStacks then
      if s.stackUp k && !s.hrt.id.holeM.contains (a / 2 ^ 30) then .marl k (a - k * stackSize) else .hole
    else .hole
  else
    let off? : Option Nat :=
      if 0x010000000000 ≤ a ∧ a < 0x020000000000 then some (a - 0x010000000000)
      else if 0x040000000000 ≤ a ∧ a < 0x050000000000 then some (a - 0x040000000000 + 2 ^ 40)
      else none
    match off? with
    | some o =>
      if o < s.cellarGiB * 2 ^ 30 && s.pwr.trainedC.contains (s.cellarChan o) && !s.hrt.id.holeC.contains (o / 2 ^ 34)
      then .cellar o else .hole
    | none =>
      if 0x020000000000 ≤ a ∧ a < 0x020010000000 then
        let t := (a - 0x020000000000) / 0x100000
        if t < s.nTiles then .loft t ((a - 0x020000000000) % 0x100000) else .hole
      else if 0x030000000000 ≤ a ∧ a < 0x030100000000 then .regs (a - 0x030000000000)
      else .hole

/-- Address of a Loft offset of a tile. -/
def loftAddr (t off : Nat) : Nat := 0x020000000000 + t * 0x100000 + off

/-- The index of a Loft row of 512 B in one bank: banks interleave by 32 B (Table 3.1). -/
def loftRow (t off : Nat) : Nat := t * 2048 + (off / 32 % 16) * 128 + off / 8192

/-- The Landing of a Loft: offsets 0xF_0000 to 0xF_FFFF (Table 3.1). -/
def inLanding (off n : Nat) : Bool := decide (off + n > 0xF0000)

/-- The channel, and the block's die, of a stack offset (Table 6.3). -/
def chanOf (off : Nat) : Nat := bits off 14 4
def dieOf (off : Nat) : Nat := bits off 22 4
/-- Bank group and bank of a stack offset. -/
def bankOf (off : Nat) : Nat := bits off 18 4

/-- The partition that owns the place of an address. -/
def State.ownerAt (s : State) (a : Nat) : Option Nat :=
  match s.region a with
  | .marl k o => s.owner 1 (48 * k + o / 2 ^ 30)
  | .cellar o => s.owner 2 (o / 2 ^ 34)
  | .loft t _ => s.owner 0 t
  | _ => none

/-- Every byte of a range in Marl or Cellar lies in a region that the partition owns. The range is checked at its ends
and at every region boundary between them. -/
def State.owned (s : State) (p a n : Nat) : Bool :=
  let starts := a :: (List.range (n / 2 ^ 30 + 1)).map fun i => min (a + n - 1) ((a / 2 ^ 30 + i + 1) * 2 ^ 30)
  decide (0 < n) && starts.all fun x =>
    match s.region x with
    | .marl .. | .cellar _ => decide (s.ownerAt x = some p)
    | _ => false

/-- The same, within Marl only. -/
def State.ownedMarl (s : State) (p a n : Nat) : Bool :=
  s.owned p a n && decide (a + n ≤ marlEnd)

/-! ## Memory -/

/-- The Cellar offset of an address, if it lies in the Cellar. -/
def cellarOff (a : Nat) : Option Nat :=
  if 0x010000000000 ≤ a ∧ a < 0x020000000000 then some (a - 0x010000000000)
  else if 0x040000000000 ≤ a ∧ a < 0x050000000000 then some (a - 0x040000000000 + 2 ^ 40)
  else none

/-- One byte; a Cellar granule whose valid bit is 0 reads as zero (R190). DESIGN CHOICE (log entry 11). -/
def State.rdByte (s : State) (a : Nat) : Byte :=
  match cellarOff a with
  | some o => if SMap.get false s.valid (o / 65536) then SMap.get memDefault s.mem a else 0
  | none => SMap.get memDefault s.mem a

/-- `n` bytes from an address. -/
def State.rd (s : State) (a n : Nat) : List Byte := (List.range n).map fun i => s.rdByte (a + i)
def State.rdNat (s : State) (a n : Nat) : Nat := leNat (s.rd a n)
/-- A 64-bit word. -/
def State.rdW (s : State) (a : Nat) : DWord := dword (s.rdNat a 8)

/-- The first write to a Cellar granule whose valid bit is 0 zeroes the rest of it and sets the bit (R190). -/
def State.wrByte (s : State) (a : Nat) (b : Byte) : State :=
  match cellarOff a with
  | some o =>
    let g := o / 65536
    if SMap.get false s.valid g then { s with mem := SMap.put memDefault s.mem a b }
    else { s with mem := SMap.put memDefault (SMap.clear s.mem (a - o % 65536) 65536) a b,
                  valid := SMap.put false s.valid g true }
  | none => { s with mem := SMap.put memDefault s.mem a b }

def State.wrBytes (s : State) : Nat → List Byte → State
  | _, [] => s
  | a, b :: bs => State.wrBytes (s.wrByte a b) (a + 1) bs

/-- The words of a line that a write covers, with their new values. -/
def State.lineWords (s : State) (line a n : Nat) : List (Nat × DWord) :=
  ((List.range 8).map fun i => line * 64 + 8 * i).filterMap fun w =>
    if a < w + 8 ∧ w < a + n then some (w, s.rdW w) else none

/-- The notes that a write sends to one tile's monitor entries: one to each entry whose line it covers a byte of (R330). -/
def State.notesFor (s : State) (a n : Nat) (ms : List Monitor) : List (List (Nat × DWord)) :=
  (ms.filter fun m => decide (m.line * 64 < a + n ∧ a < m.line * 64 + 64)).map fun m => s.lineWords m.line a n

/-- A write notifies every monitor entry that watches a line it covers, on whatever tile (R330). -/
def State.notify (s : State) (a n : Nat) : State :=
  { s with tiles := SMap.mapVals (fun v => { v with notes := v.notes ++ s.notesFor a n v.mons }) s.tiles }

/-! ### Replies to host commands (R455, R456) -/

/-- Form a reply: it joins the function's replies in completion order; a status other than 0 is counted. A command that a reset of
its port has cut off has no port, and is given no reply (R531). -/
def State.reply (s : State) (r : CmdRef) (status : Nat) (res : List Word) : State :=
  if 2 ≤ r.hp then s
  else
  let s1 := s.modFn r.hp r.fn fun f => { f with held := f.held ++
    [{ tag := r.tag, opc := r.opc, status := status, part := r.part, irq := r.irq, mtick := s.now, res := res }] }
  if status = 0 then s1 else s1.fnCount r.hp r.fn .rejected

/-- A host wait is satisfied by a value of its word (R463). -/
def HostWait.met (h : HostWait) (v : DWord) : Bool := if h.eq then v = h.val else decide (h.val.toNat ≤ v.toNat)

/-- Answer the host waits whose word a write covers and satisfies. -/
def State.wakeHosts (s : State) (a n : Nat) : State :=
  let hit := fun h : HostWait => decide (h.addr < a + n ∧ a < h.addr + 8) && h.met (s.rdW h.addr)
  let s1 := s.modCmd fun c => { c with waits := c.waits.filter fun h => !hit h }
  (s.cmd.waits.filter hit).foldl (fun u h => u.reply h.ref 0 (lohi (s.rdW h.addr).toNat)) s1

/-- Write a list of bytes: the bytes, their error marks, the monitors, the host waits. -/
def State.wr (s : State) (a : Nat) (bs : List Byte) : State :=
  let s1 := s.wrBytes a bs
  let keep := fun x : Nat => decide (x < a ∨ a + bs.length ≤ x)
  let s2 := s1.modDev fun d => { d with bad := d.bad.filter keep, soft := d.soft.filter keep }
  (s2.notify a bs.length).wakeHosts a bs.length

/-- Write a 64-bit word. -/
def State.wrW (s : State) (a : Nat) (v : DWord) : State := s.wr a (toLE 8 v.toNat)

/-- Clear a range: zeros with their correct check bits (R191). -/
def State.clearMem (s : State) (a n : Nat) : State :=
  { s with mem := SMap.clear s.mem a n,
           dev := { s.dev with bad := s.dev.bad.filter (fun x => decide (x < a ∨ a + n ≤ x)),
                               soft := s.dev.soft.filter fun x => decide (x < a ∨ a + n ≤ x) } }

/-- Tags that are written anew hold no error. -/
def State.tagsGood (s : State) (ts : List Nat) : State :=
  let keep := fun x : Nat × Nat => !ts.contains x.1
  s.modDev fun d => { d with badTag := d.badTag.filter keep, softTag := d.softTag.filter keep }

/-- A range holds an uncorrectable error: the address of its first marked word. -/
def State.badIn (s : State) (a n : Nat) : Option Nat := s.dev.bad.find? fun x => decide (a ≤ x ∧ x < a + n)

/-- Host memory. DESIGN CHOICE (log entry 95). -/
def State.hostRd (s : State) (a n : Nat) : List Byte := SMap.getList 0 s.cmd.host a n
/-- DESIGN CHOICE (log entry 95). -/
def State.hostWr (s : State) (a : Nat) (bs : List Byte) : State :=
  s.modCmd fun c => { c with host := SMap.putList 0 c.host a bs }

/-! ## Plans and runs -/

/-- A plan of the partition runs: from its launch until it completes or a context reset (R460). -/
def Part.running (v : Part) : Bool := decide (v.launch.st = .running)
def State.running (s : State) (p : Nat) : Bool := (s.part p).running
/-- A plan is loaded in some partition. -/
def State.anyPlan (s : State) : Bool := s.parts.any fun kv => kv.2.plan.isSome
def State.anyRunning (s : State) : Bool := s.parts.any fun kv => kv.2.running
/-- The partition's plan runs and is neither halted nor paused. -/
def Part.live (v : Part) : Bool := v.running && !v.run.halted && v.run.paused.isNone

/-- The hazard detector scales the plan's times by 4 (R63). -/
def Part.scale (v : Part) : Nat := if v.run.hzd then 4 else 1

/-- Course `k` of the run: its descriptor, a template for a serving plan (R351). -/
def Part.courseAt (v : Part) (k : Nat) : Option Course :=
  match v.plan with
  | none => none
  | some pl => if pl.serv.isSome then (v.run.inst.find? fun c => c.1 = k).map (·.2) else pl.courses[k]?

/-- Pinned start of course `k`. For a serving plan the instantiated descriptor's START runs from T (R351). -/
def Part.startOf (v : Part) (k : Nat) : Option Nat := (v.courseAt k).map fun c => v.run.t0 + v.scale * c.start

/-- Plan links of a loaded plan. -/
def Plan.linkPorts (pl : Plan) : List Nat :=
  (List.range 16).filter fun n => (pl.links[n]?).any fun l => l.2

end Sys2Proof.Machine
end

