-- ==== Sys2Proof/Machine/Packets.lean ====
section
/-! DEFINITION. Packets of the fabric: the header flit (R265, Table 9.4) and its checks (R267, R268), the ordering stamps
of a source (R285), routing (R279, R280, R291, R318), sending, and the error completion of a dropped packet (R272). -/

namespace Sys2Proof.Machine

/-- The fields of a header flit (Table 9.4). -/
structure Hdr where
  dst : Nat
  src : Nat
  gen : Nat
  cls : Nat
  vc : Nat
  ord : Bool
  part : Nat
  len : Nat
  opc : Nat
  hops : Nat
  sync : Bool
  addr : Nat
  npre : Nat
  fi : Nat
  tag : Nat
  epoch : Nat
  status : Nat
  rlen : Nat
  opa : Nat
  opb : Nat
  deriving DecidableEq, Repr

/-- A header with every field 0. -/
def Hdr.zero : Hdr :=
  { dst := 0, src := 0, gen := 0, cls := 0, vc := 0, ord := false, part := 0, len := 0, opc := 0, hops := 0, sync := false,
    addr := 0, npre := 0, fi := 0, tag := 0, epoch := 0, status := 0, rlen := 0, opa := 0, opb := 0 }

/-- Words 0 to 14 of a header flit as a number. -/
def Hdr.body (h : Hdr) : Nat :=
  h.dst % 2 ^ 16 + (h.src % 2 ^ 16) * 2 ^ 16 + (h.gen % 16) * 2 ^ 32 + (h.cls % 2) * 2 ^ 36 + (h.vc % 4) * 2 ^ 37
  + put1 h.ord 39 + (h.part % 64) * 2 ^ 40 + (h.len % 32) * 2 ^ 46 + (h.opc % 32) * 2 ^ 51 + (h.hops % 32) * 2 ^ 56
  + put1 h.sync 61 + (h.addr % 2 ^ 48) * 2 ^ 64 + (h.npre % 2 ^ 32) * 2 ^ 128 + (h.fi % 2 ^ 16) * 2 ^ 160
  + (h.tag % 2 ^ 16) * 2 ^ 176 + (h.epoch % 256) * 2 ^ 192 + (h.status % 16) * 2 ^ 200 + (h.rlen % 32) * 2 ^ 204
  + (h.opa % 2 ^ 64) * 2 ^ 224 + (h.opb % 2 ^ 64) * 2 ^ 288

/-- HCRC of a header: over words 0 to 14 with HOPS taken as 0 (Table 9.4). -/
def Hdr.crc (h : Hdr) : Nat := (crc32c (toLE 60 (Hdr.body { h with hops := 0 }))).toNat

/-- The header flit of the fields. -/
def Hdr.enc (h : Hdr) : Flit := BitVec.ofNat 512 (h.body + h.crc * 2 ^ 480)

/-- The fields of a header flit. -/
def Hdr.dec (f : Flit) : Hdr :=
  let v := f.toNat
  { dst := bits v 0 16, src := bits v 16 16, gen := bits v 32 4, cls := bits v 36 1, vc := bits v 37 2, ord := bit v 39,
    part := bits v 40 6, len := bits v 46 5, opc := bits v 51 5, hops := bits v 56 5, sync := bit v 61,
    addr := bits v 64 48, npre := bits v 128 32, fi := bits v 160 16, tag := bits v 176 16, epoch := bits v 192 8,
    status := bits v 200 4, rlen := bits v 204 5, opa := bits v 224 64, opb := bits v 288 64 }

/-- A header flit with another HOPS: every other bit stays, HCRC among them, for which HOPS counts as 0 (R265, R273). -/
def withHops (f : Flit) (n : Nat) : Flit := BitVec.ofNat 512 (f.toNat - bits f.toNat 56 5 * 2 ^ 56 + (n % 32) * 2 ^ 56)

/-- A header flit with another DST, and the HCRC that follows from it. -/
def withDst (f : Flit) (d : Nat) : Flit :=
  let b := bits f.toNat 0 480 / 2 ^ 16 * 2 ^ 16 + d % 2 ^ 16
  BitVec.ofNat 512 (b + (crc32c (toLE 60 (b - bits b 56 5 * 2 ^ 56))).toNat * 2 ^ 480)

/-- HCRC of a received header passes (R267). -/
def hcrcOk (f : Flit) : Bool :=
  let v := f.toNat
  let z := bits v 0 480 - (bits v 56 5) * 2 ^ 56
  decide ((crc32c (toLE 60 z)).toNat = bits v 480 32)

/-- Every reserved bit of a header flit is 0. -/
def hdrReserved0 (f : Flit) : Bool :=
  let v := f.toNat
  decide (bits v 62 2 = 0 ∧ bits v 112 16 = 0 ∧ bits v 209 15 = 0 ∧ bits v 352 128 = 0)

/-- Operations of Table 9.5 with their class, channels, length and alignment, and the fields that Table 9.4 sets to 0.
DESIGN CHOICE (log entry 55). -/
def Hdr.ok (h : Hdr) : Bool :=
  let svc := h.cls = 1 && h.epoch = 0
  let rsp := h.vc = 1
  let sig := h.vc = 3
  decide (h.ord → h.vc = 3 ∧ h.cls = 1) && (h.ord || h.npre = 0) && (h.vc = 1 && h.cls = 1 || h.status = 0) &&
  (h.opc = 2 || h.rlen = 0) && decide (h.status < 8) &&
  match h.opc with
  | 0 => h.cls = 0 && h.vc = 0 && h.gen = 0 && h.fi = 0 && !h.sync && h.len % 4 = 0 && decide (4 ≤ h.len ∧ h.len ≤ 16) && h.addr % 256 = 0
  | 1 => svc && (h.vc = 0 || h.vc = 2) && decide (1 ≤ h.len ∧ h.len ≤ 16) && h.addr % 64 = 0
  | 2 => svc && h.vc = 0 && h.len = 0 && decide (1 ≤ h.rlen ∧ h.rlen ≤ 16) && h.addr % 64 = 0 && bits h.opa 48 16 = 0 && h.opa % 64 = 0
  | 3 => svc && rsp && decide (1 ≤ h.len ∧ h.len ≤ 16) && h.addr % 64 = 0
  | 4 => svc && rsp && h.len = 0
  | 5 => svc && rsp && h.len = 0
  | 6 => svc && sig && h.len = 0 && h.addr % 8 = 0
  | 7 => svc && sig && h.len = 0 && h.addr % 8 = 0
  | 8 => svc && sig && h.len = 0 && h.addr % 8 = 0
  | 9 => svc && sig && decide (h.len ≤ 16) && h.addr % 64 = 0
  | 10 => svc && sig && h.ord && h.len = 0
  | _ => false

/-- A header keeps Tables 9.4 and 9.5 (R268). -/
def hdrOk (f : Flit) : Bool := hdrReserved0 f && (Hdr.dec f).ok

/-- Payload bytes of a packet. -/
def Packet.payload (k : Packet) : List Byte := k.data.flatMap flitBytes

/-- Data flits of a byte string. -/
def flitsOf (bs : List Byte) : List Flit := (chunks 64 (ceilDiv bs.length 64) bs).map fun c => flitOf c

/-! ## Routing (R279, R280, R291, R318) -/

/-- Where a service packet goes. -/
inductive Way where
  | loc
  | egress (port : Nat)
  | drop (status : Nat)
  deriving DecidableEq, Repr

/-- The entry of the route table bank of a generation, if the device holds it. -/
def State.routeEntry (s : State) (gen dst : Nat) : Option Nat :=
  let f := s.fab
  let bank := fun b : Bool => if b then f.bank1 else f.bank0
  if gen = f.active then some (SMap.get 0 (bank f.sel) dst).toNat
  else if f.pvalid && gen = f.prev then some (SMap.get 0 (bank (!f.sel)) dst).toNat
  else none

/-- The way of a service packet and the drop counted. -/
def State.way (s : State) (h : Hdr) : Way × State :=
  if h.dst = s.me then (.loc, s) else
  match s.routeEntry h.gen h.dst with
  | none => (.drop 1, s.fabCount .genDrop 1)
  | some e =>
    let n := bits e 0 4
    if !bit e 4 || n ≥ s.nPorts then (.drop 2, s.fabCount .noRoute 1)
    else
      let q := s.port n
      if q.efence || q.lfence then (.drop 2, s.portCount n .fenceDrop 1)
      else if q.st = .down || q.st = .train then (.drop 4, s.portCount n .downDrop 1)
      else (.egress n, s)

/-- Put a packet on a local queue or an egress queue. -/
def State.pushLoc (s : State) (vc : Nat) (k : Packet) : State :=
  s.modFab fun f => { f with loc := SMap.put [] f.loc vc (SMap.get [] f.loc vc ++ [k]) }
def State.pushEgress (s : State) (n vc : Nat) (k : Packet) : State :=
  s.modPort n fun q => { q with tx := { q.tx with egress := SMap.put [] q.tx.egress vc (SMap.get [] q.tx.egress vc ++ [k]) } }

/-! ## Ordering stamps of a source (R285) -/

/-- Stamp a service packet for its destination: FI, NPRE, SYNC, GEN, SRC and HOPS, and count it. -/
def State.stamp (s : State) (h : Hdr) : Hdr × State :=
  let d := SMap.get OrdDst.reset s.fab.dst h.dst
  let h' := { h with src := s.me, gen := s.fab.active, cls := 1, hops := 31, fi := d.fi, npre := if h.ord then d.n else 0,
                     sync := !d.sent }
  let d' : OrdDst := if h.ord then { fi := (d.fi + 1) % 2 ^ 16, n := 0, sent := true } else { d with n := d.n + 1, sent := true }
  (h', s.modFab fun f => { f with dst := SMap.put OrdDst.reset f.dst h.dst d' })

/-- The error completion of a dropped packet (R272): to SRC, or to DST when the packet was on RSP. -/
def errCpl (h : Hdr) (status : Nat) : Hdr :=
  { Hdr.zero with dst := if h.vc = 1 then h.dst else h.src, vc := 1, opc := 5, part := h.part, tag := h.tag, addr := h.addr,
                  status := status, opa := h.opc }

/-- Stamp one service packet and put it on its way: with the header and the status of a drop, if it is dropped. While FAB_DEVID is
unassigned the device sends none (R283). -/
def State.sendRaw (s : State) (h : Hdr) (data : List Flit) : State × Option (Hdr × Nat) :=
  if s.me = 0xFFFF then (s, none) else
  let (h', s1) := s.stamp h
  let k : Packet := { hdr := h'.enc, data := data, ready := s.now, ing := none }
  match s1.way h' with
  | (.loc, s2) => (s2.pushLoc h'.vc k, none)
  | (.egress n, s2) => (s2.pushEgress n h'.vc k, none)
  | (.drop st, s2) => (s2, some (h', st))

/-- While S shadows W, it sends no packet of the partition other than its comparison messages (R512). DESIGN CHOICE (log entries 62, 77). -/
def State.muted (s : State) (p : Nat) : Bool :=
  let r := (s.part p).sh.role
  decide (r = 1 ∨ r = 2)

/-- The count of packets to a destination is full (R285). -/
def State.fullFor (s : State) (dst : Nat) : Bool := decide ((SMap.get OrdDst.reset s.fab.dst dst).n = 2 ^ 32 - 1)

/-- The flagged NULL that closes an interval whose count is full (R285). -/
def nullHdr (dst part : Nat) : Hdr := { Hdr.zero with dst := dst, vc := 3, opc := 10, ord := true, part := part }

/-- A source closes an interval whose count is full with a flagged NULL; a NULL that is dropped is answered with an error completion to
the device itself, which is not dropped (R272, R285). -/
def State.closeFull (s : State) (h : Hdr) : State :=
  if h.ord || !s.fullFor h.dst then s
  else match s.sendRaw (nullHdr h.dst h.part) [] with
    | (s1, none) => s1
    | (s1, some (h', st)) =>
      let s2 := if s1.fullFor s1.me then (s1.sendRaw (nullHdr s1.me h.part) []).1 else s1
      (s2.sendRaw (errCpl h' st) []).1

/-- Answer a dropped service packet (R272); a dropped ERR_CPL is answered by nothing. -/
def State.answerDrop (s : State) (h : Hdr) (status : Nat) : State :=
  if h.opc = 5 || s.muted h.part then s else ((s.closeFull (errCpl h status)).sendRaw (errCpl h status) []).1

/-- Send a service packet of the device's own. -/
def State.sendAny (s : State) (h : Hdr) (data : List Flit) : State :=
  match (if s.me = 0xFFFF then s else s.closeFull h).sendRaw h data with
  | (s1, none) => s1
  | (s1, some (h', st)) => s1.answerDrop h' st

/-- Send a service packet on behalf of a partition. DESIGN CHOICE (log entry 62). -/
def State.send (s : State) (h : Hdr) (data : List Flit) : State :=
  if s.muted h.part then s else s.sendAny h data

/-- A SIG MSG of words to an address of a device. -/
def State.sendMsg (s : State) (p dst addr : Nat) (ord : Bool) (ws : List Word) : State :=
  let fl := flitsOf (wordsToBytes ws)
  s.send { Hdr.zero with dst := dst, vc := 3, opc := 9, ord := ord, part := p, len := fl.length, addr := addr } fl

/-- A BULK or CMD write of bytes, in packets of up to 16 flits. -/
def State.sendWrites (s : State) (p dst addr tag : Nat) : List (List Byte) → State
  | [] => s
  | c :: r =>
    let fl := flitsOf c
    State.sendWrites (s.send { Hdr.zero with dst := dst, vc := 2, opc := 1, part := p, len := fl.length, addr := addr, tag := tag } fl)
      p dst (addr + 1024) tag r

end Sys2Proof.Machine
end

