-- ==== Sys2Proof/Machine/Raise.lean ====
section
/-! DEFINITION. Faults: the record (R500, Table 18.2), the halt (R501), notices and relays (R502, R503), interrupts
(R473), and the targeted self-tests that errors ask for (R508). -/

namespace Sys2Proof.Machine

/-- What a fault's record holds beside the device, partition, epoch and tick. -/
structure FInfo where
  cls : Nat
  cause : Nat
  course : Option Nat
  beat : Option Nat
  tile : Option Nat
  iaddr : Nat
  fields : List Word
  deriving DecidableEq, Repr

/-- A fault of no course, beat, tile or instruction. DESIGN CHOICE (log entry 98). -/
def FInfo.dev (cls cause : Nat) (fields : List Word) : FInfo :=
  { cls := cls, cause := cause, course := none, beat := none, tile := none, iaddr := 0, fields := fields }

/-- A record of 16 words (Table 18.2). DESIGN CHOICE (log entry 36). -/
def State.recordWords (s : State) (p role lid : Nat) (f : FInfo) : List Word :=
  ([word (f.cls % 256 + (f.cause % 256) * 2 ^ 8 + role * 2 ^ 16 + p * 2 ^ 24), word (s.me + lid * 2 ^ 16)] ++ lohi s.now
    ++ [word (f.course.getD 0xFFFFFFFF), word (f.beat.getD 0xFFFFFF % 2 ^ 24 + (f.tile.getD 0xFF) * 2 ^ 24)] ++ lohi f.iaddr
    ++ f.fields ++ List.replicate 16 0).take 16

/-- A function's vector becomes pending (R473). -/
def State.irq (s : State) (hp fn v : Nat) : State := s.modFn hp fn fun f => { f with irqStat := f.irqStat ||| word (2 ^ v) }

/-- Vector 2 on the function of a partition and on the PF of both ports (R500). -/
def State.irqFault (s : State) (p : Nat) : State :=
  (((s.irq 0 (p + 1) 2).irq 0 0 2).irq 1 (p + 1) 2).irq 1 0 2

/-- Write a record into the fault log of a partition (R500). -/
def State.writeRecord (s : State) (p : Nat) (ws : List Word) : State :=
  (s.modPart p fun v => { v with flt := { v.flt with
    log := SMap.put [] v.flt.log (v.flt.wp % 256) ws, wp := (v.flt.wp + 1) % 2 ^ 32 } }).irqFault p

/-- An event record of the device (R508, R513): CLASS 0, in the device event log. -/
def State.writeEvent (s : State) (p cause : Nat) (fields : List Word) : State :=
  let ws := s.recordWords p 0 0 (FInfo.dev 0 cause fields)
  s.modDev fun d => { d with events := SMap.put [] d.events (d.evWp % 1024) ws, evWp := (d.evWp + 1) % 2 ^ 32 }

/-- Devices at the far ends of the plan links of a partition, each once (R503). DESIGN CHOICE (log entry 82). -/
def State.planPeers (s : State) (p : Nat) : List Nat :=
  match (s.part p).plan with
  | none => []
  | some pl => (pl.linkPorts.map fun n => (s.port n).peer).eraseDups

/-- Send the partition's one notice to every plan neighbour but one (R502, R503). DESIGN CHOICE (log entry 82). -/
def State.sendNotice (s : State) (p lid cls origin tick : Nat) (from? : Option Nat) : State :=
  match (s.part p).plan with
  | none => s
  | some pl =>
    if pl.ndev ≤ 1 || (s.part p).flt.noteSent then s else
    let ws := [word (lid + cls * 2 ^ 16), word origin] ++ lohi tick
    let s1 := s.modPart p fun v => { v with flt := { v.flt with noteSent := true } }
    ((s1.planPeers p).filter fun d => decide (some d ≠ from?)).foldl
      (fun u d => u.sendMsg p d (pl.notebase + 64 * (s.me % 64)) false (ws ++ List.replicate 12 0)) s1

/-- A swap that a fault or a reset of the partition ends (R427): no further layer begins; on the lead it fails. -/
def State.failSwap (s : State) (p : Nat) : State :=
  let w := (s.part p).wts
  let s1 := s.modPart p fun v => { v with wts := { v.wts with mgen := 0, mstep := 0, begun := [], reply := none } }
  if 1 ≤ w.swst ∧ w.swst ≤ 3 then
    let s2 := s1.modPart p fun v => { v with wts := { v.wts with swst := 4 } }
    match w.reply with
    | some r => s2.reply r 0x0D [0, 0]
    | none => s2
  else s1

/-- The halt of a partition (R501): SY waits are abandoned, sweeps stop, a pending promotion is refused (R515); a hang
record is due. What a halted partition no longer does is checked where it would be done. -/
def State.haltPart (s : State) (p : Nat) : State :=
  let s1 := (s.tilesOf p).foldl (fun u t => u.modTile t fun v => { v with wait := none, drained := false }) s
  let s2 := (List.range 8).foldl (fun u k => u.modStack k fun v =>
    { v with sweep := v.sweep.map fun w => if w.part = p then { w with stopped := true } else w }) s1
  let s3 := match (s2.part p).sh.promote with
    | some (_, some r) => s2.reply r 0x62 []
    | _ => s2
  (s3.failSwap p).modPart p fun v => { v with
    run := { v.run with halted := true, haltAt := s.now },
    flt := { v.flt with hangDue := true },
    sh := { v.sh with promote := none, acked := false } }

/-- Raise a fault against a partition (R499, R501, R503). DESIGN CHOICE (log entries 83, 98). -/
def State.raise (s : State) (p : Nat) (f : FInfo) : State :=
  let v := s.part p
  let lid := if v.running then v.launch.lid else 0
  if v.flt.resetting then s.writeRecord p (s.recordWords p 3 lid f)
  else if !v.running then s.writeRecord p (s.recordWords p 0 0 f)
  else if !v.run.halted then
    let ws := s.recordWords p 0 lid f
    let s1 := (s.writeRecord p ws).haltPart p
    let s2 := s1.modPart p fun u => { u with flt := { u.flt with first := some ws } }
    s2.sendNotice p lid f.cls s.me s.now none
  else
    let own := v.flt.held.isNone || v.flt.secondary
    if v.flt.reported || own then s.writeRecord p (s.recordWords p 3 lid f)
    else
      let ws := s.recordWords p (if v.run.haltAt < s.now then 1 else 0) lid f
      (s.writeRecord p ws).modPart p fun u => { u with flt := { u.flt with first := some ws, secondary := true } }

/-- Raise a fault against the partition of a tile, if it has one. -/
def State.raiseTile (s : State) (t : Nat) (f : FInfo) : State :=
  match s.owner 0 t with
  | some p => s.raise p f
  | none => s

/-- Take a notice of the job (R503): halt, record the relay, pass the notice on. DESIGN CHOICE (log entry 98). -/
def State.takeNotice (s : State) (p : Nat) (n : Notice) : State :=
  let v := s.part p
  if !v.running || n.lid ≠ v.launch.lid then
    s.modPart p fun u => { u with flt := { u.flt with noteStale := satAdd 32 u.flt.noteStale 1 } }
  else if v.run.halted then s.modPart p fun u => { u with flt := { u.flt with noteDup := satAdd 32 u.flt.noteDup 1 } }
  else
    let ws := s.recordWords p 2 v.launch.lid (FInfo.dev n.cls 0 (word n.origin :: lohi n.tick))
    let s1 := (s.writeRecord p ws).haltPart p
    let s2 := s1.modPart p fun u => { u with flt := { u.flt with first := some ws, held := some n } }
    s2.sendNotice p v.launch.lid n.cls n.origin n.tick (some n.src)

/-- Ask for the targeted self-test of a resource; an error joins a test that waits (R508). DESIGN CHOICE (log entry 80). -/
def State.askTest (s : State) (kind idx : Nat) : State :=
  if s.dev.tests.contains { kind := kind, idx := idx } then s.devCount .stCoalesce 1
  else s.modDev fun d => { d with tests := d.tests ++ [{ kind := kind, idx := idx }] }

/-- A power-profile fault is counted (R71). -/
def State.raisePower (s : State) (p : Nat) (f : FInfo) : State :=
  (s.modPwr fun w => { w with govFaults := satAdd 32 w.govFaults 1 }).raise p f

end Sys2Proof.Machine
end

