-- ==== Sys2Proof/Machine/Operands.lean ====
section
/-! DEFINITION. The operand forms of Shale operations: their fields (R80, Tables 5.2 to 5.13), which codings are legal
(R81, R137), their occupancy and latency (R138, Table 5.1), what they read and write for the interlocks (R106, Table 3.8),
and how their addresses are formed (R155, R161). -/

namespace Sys2Proof.Machine

/-- The slots in the order of their SLOTS bits (Table 3.3). -/
def slotOf : Queue → Nat
  | .sc => 0 | .ve => 1 | .mx => 2 | .ld => 3 | .st => 4 | .sy => 5
def queueOf : Nat → Queue
  | 0 => .sc | 1 => .ve | 2 => .mx | 3 => .ld | 4 => .st | _ => .sy
def allQueues : List Queue := [.sc, .ve, .mx, .ld, .st, .sy]

/-! ## Common fields (Table 3.4, R137) -/

def opLong (w0 : Word) : Bool := flag w0 0
def opWidx (w0 : Word) : Nat := fld w0 1 4
def opWen (w0 : Word) : Bool := flag w0 5
def opSidx (w0 : Word) : Nat := fld w0 6 4
def opSen (w0 : Word) : Bool := flag w0 10
def opcode (w0 : Word) : Nat := fld w0 11 5

/-- Barrier bit that an operation sets on completion. -/
def setOf (w0 : Word) : Option Nat := if opSen w0 then some (opSidx w0) else none

/-! ## Vector operations (Table 5.5) -/

/-- Element format of TYPE: 0 FP32, 1 BF16, 2 FP16. -/
def typeFmt : Nat → Fmt
  | 1 => bf16 | 2 => fp16 | _ => fp32
def typeWidth (ty : Nat) : Nat := if ty = 0 then 32 else 16
def typeLanes (ty : Nat) : Nat := if ty = 0 then 64 else 128
/-- Code of Table 5.7 that names TYPE. -/
def typeDfmt : Nat → Nat
  | 1 => 7 | 2 => 8 | _ => 0xF

def veType (w0 : Word) : Nat := fld w0 16 2
def veN (w0 : Word) : Nat := fld w0 18 6 + 1
def veFn (w0 : Word) : Nat := fld w0 24 6
def veD (w1 : Word) : Nat := fld w1 0 9
def veA (w1 : Word) : Nat := fld w1 9 9
def veB (w1 : Word) : Nat := fld w1 18 9

/-- Bytes per row and beats per row of a slab target (Table 5.8). -/
def tfmtBytes : Nat → Nat
  | 0 => 256 | 1 => 128 | 2 => 128 | 3 => 64 | 4 => 256 | 5 => 64 | 6 => 512 | 7 => 1024 | _ => 16
def tfmtBpr : Nat → Nat
  | 6 => 2 | 7 => 4 | _ => 1

def slabSet (w0 : Word) : Nat := fld w0 16 1
/-- VSLB: rows, target, destination unit, first row. -/
def vslbRows (w0 : Word) : Nat := fld w0 18 6 + 1
def vslbTfmt (w0 : Word) : Nat := fld w0 24 4
def rowZero (w1 : Word) : Nat := fld w1 9 6
/-- VSLD: float mode, RAW64, window, source unit. -/
def vsldFloat (w0 : Word) : Bool := flag w0 17
def vsldRaw64 (w0 : Word) : Bool := flag w0 24
def vsldWb (w0 : Word) : Nat := fld w0 25 7
def vsldRowBytes (w0 : Word) : Nat := if vsldRaw64 w0 then 512 else 1024

/-- Bytes that VCVT writes. -/
def vcvtBytes (w0 : Word) : Nat := veN w0 * typeLanes (veType w0) * elemWidth (veFn w0 % 16) / 8

/-! ## Matrix operations (Tables 5.10, 4.1, R113, R152) -/

def mxSet (w0 : Word) : Nat := fld w0 16 1
def mxClr (w0 : Word) : Bool := flag w0 17
def mxFloat (w0 : Word) : Bool := flag w0 18
def mxWb (w0 : Word) : Nat := fld w0 19 7
def mxAf (w0 : Word) : Nat := fld w0 26 4
def mxWf (w1 : Word) : Nat := fld w1 0 4
def mxN (w1 : Word) : Nat := fld w1 4 9 + 1
def mxWoff (w1 : Word) : Nat := fld w1 13 12 * 16
def mxAreg (w1 : Word) : Nat := fld w1 25 4

/-- Rate classes (Table 4.1). -/
inductive Rate where
  | eight | paired | sixteen
  deriving DecidableEq, Repr

/-- The wider operand sets the class (R112). -/
def mxRate (af wf : Nat) : Rate :=
  if elemWidth af = 16 ∨ elemWidth wf = 16 then .sixteen
  else if elemWidth af = 8 ∨ elemWidth wf = 8 then .eight else .paired

/-- Rows that an activation column covers. -/
def mxRows (r : Rate) : Nat := if r = .paired then 128 else 64
/-- CB: bytes of an activation column (R113). R113 states no CB for 6-bit activations in the 8-bit class or for 4- and 6-bit ones in
the 16-bit class: there it is the rows at the element width, as in the cases that it states. DESIGN CHOICE (log entry 100). -/
def mxCb (r : Rate) (af : Nat) : Nat := mxRows r * elemWidth af / 8
/-- RB: bytes of a weight row. -/
def mxRb (wf : Nat) : Nat := 64 * elemWidth wf / 8

/-- Run descriptor fields of s[AREG] (R152). -/
def mxAbase (d : DWord) : Nat := bits d.toNat 0 17
def mxAscale (d : DWord) : Nat := bits d.toNat 17 17
def mxK0 (d : DWord) : Nat := bits d.toNat 34 5

/-- MXCFG: WBASE and WBLKS. -/
def mxcfgBase (w0 : Word) : Nat := fld w0 16 6
def mxcfgBlks (w0 : Word) : Nat := fld w0 22 5 + 1

/-! ## Loads and stores (Tables 5.11, 5.12) -/

def lsAreg (w0 : Word) : Nat := fld w0 16 4
def ldlL (w0 : Word) : Nat := fld w0 20 6 + 1
def offBytes (w1 : Word) : Nat := fld w1 0 20
def osUnit (w1 : Word) : Nat := fld w1 20 9
def ldgSlot (w0 : Word) : Nat := fld w0 16 8
def ldgN (w0 : Word) : Nat := fld w0 24 2 + 1
def ldgEpoch (w1 : Word) : Nat := fld w1 0 8
def ldgDst (w1 : Word) : Nat := fld w1 8 9
def lsmSel (w0 : Word) : Bool := flag w0 20
def lsmL (w0 : Word) : Nat := fld w0 21 6 + 1
def ldmInc (w0 : Word) : Bool := flag w0 27
def lsmUnit (w1 : Word) : Nat := fld w1 0 12
def lsmOff (w1 : Word) : Nat := fld w1 12 20 * 256
def ldsD (w0 : Word) : Nat := fld w0 16 4
def ldsAreg (w0 : Word) : Nat := fld w0 20 4
def fetchN (w0 : Word) : Nat := fld w0 20 6 + 1
def fetchLock (w0 : Word) : Bool := flag w0 26
def fetchDelta (w0 : Word) : Nat := fld w0 27 4
def staRows (w0 : Word) : Nat := fld w0 17 6 + 1
def staTfmt (w0 : Word) : Nat := fld w0 23 4
def staDig (w0 : Word) : Bool := flag w0 27
def staAreg (w0 : Word) : Nat := fld w0 28 4
def staRow0 (w1 : Word) : Nat := fld w1 20 6
def stlDig (w0 : Word) : Bool := flag w0 26
def stnTile (w0 : Word) : Nat := fld w0 16 8
def stnPath (w0 : Word) : Nat := fld w0 24 4
def stnN (w0 : Word) : Nat := fld w0 28 2 + 1
def stnSlot (w1 : Word) : Nat := fld w1 0 8
def stnEpoch (w1 : Word) : Nat := fld w1 8 8
def stnSrc (w1 : Word) : Nat := fld w1 16 9
def stdDep (w0 : Word) : Nat := fld w0 16 16
def stdSrc (w1 : Word) : Nat := fld w1 0 9
def stmDig (w0 : Word) : Bool := flag w0 27

/-! ## Synchronisation operations (Table 5.13) -/

def syAreg (w0 : Word) : Nat := fld w0 16 4
def syVreg (w0 : Word) : Nat := fld w0 20 4
def syNreg (w0 : Word) : Nat := fld w0 24 4
def syRmt (w0 : Word) : Bool := flag w0 28
def syMon (w0 : Word) : Bool := flag w0 29
def barId (w0 : Word) : Nat := fld w0 16 4
def maskId (w0 : Word) : Nat := fld w0 16 3
def maskWait (w0 : Word) : Bool := flag w0 19

/-! ## Reading registers and the operand store -/

def Tile.s (v : Tile) (i : Nat) : DWord := SMap.get 0 v.sreg i
def Tile.setS (v : Tile) (i : Nat) (x : DWord) : Tile := { v with sreg := SMap.put 0 v.sreg i x }
def Tile.opndRd (v : Tile) (off n : Nat) : List Byte := (List.range n).map fun i => SMap.get 0 v.opnd (off + i)
def Tile.opndWr (v : Tile) (off : Nat) (bs : List Byte) : Tile := { v with opnd := SMap.putList 0 v.opnd off bs }
def Tile.queue (v : Tile) (q : Queue) : QState := SMap.get QState.reset v.q (slotOf q)
def Tile.setQueue (v : Tile) (q : Queue) (x : QState) : Tile := { v with q := SMap.put QState.reset v.q (slotOf q) x }
def Tile.info (v : Tile) (set : Nat) : SlabInfo := if set = 0 then v.info0 else v.info1
def Tile.setInfo (v : Tile) (set : Nat) (i : SlabInfo) : Tile := if set = 0 then { v with info0 := i } else { v with info1 := i }
def Tile.accs (v : Tile) (set : Nat) : SMap Acc := if set = 0 then v.acc0 else v.acc1
def Tile.setAccs (v : Tile) (set : Nat) (m : SMap Acc) : Tile := if set = 0 then { v with acc0 := m } else { v with acc1 := m }
/-- Accumulator (m, n) of a set. -/
def Tile.acc (v : Tile) (set m n : Nat) : Acc := SMap.get Acc.zero (v.accs set) (64 * m + n)

/-! ## Addresses (R155, R161) -/

/-- Loft address of LDL, STL and STA. -/
def Tile.loftOff (v : Tile) (areg off : Nat) : Nat := ((v.s areg).toNat + off) % 2 ^ 20
/-- Loft address of LDS and STS: OFF is a signed 32-bit number of bytes. -/
def Tile.loftOffS (v : Tile) (areg : Nat) (w1 : Word) : Nat := ((((v.s areg).toNat : Int) + sval 32 w1.toNat) % 2 ^ 20).toNat
/-- Marl address of LDM, STM and FETCH. -/
def Tile.marlAddr (v : Tile) (areg off : Nat) : Nat := ((v.s areg).toNat + off) % 2 ^ 48
/-- Sync-word address: s[AREG][47:0] + OFF modulo 2^48. -/
def Tile.syAddr (v : Tile) (w0 w1 : Word) : Nat :=
  ((((v.s (syAreg w0)).toNat % 2 ^ 48 : Nat) + sval 32 w1.toNat : Int) % 2 ^ 48).toNat

/-! ## Legal codings (R81, R137) -/

/-- A path of the plan's path table that is defined for a tile (R73, R159): true for column-first. -/
def Plan.path (pl : Plan) (t j : Nat) : Option Bool :=
  match pl.paths[t]? with
  | none => none
  | some bs => let b := (bs.getD j 0).toNat; if bit b 7 then some (bit b 0) else none

def State.planOf (s : State) (t : Nat) : Option Plan := (s.owner 0 t).bind fun p => (s.part p).plan
def State.depOf (s : State) (t dep : Nat) : Option Dep := (s.planOf t).bind fun pl => pl.deps[dep]?

/-- The operation is defined for its slot (Table 5.1). -/
def opDefined (q : Queue) (op : Nat) : Bool :=
  match q with
  | .sc => decide (op ≤ 0xD) || decide (0x10 ≤ op ∧ op ≤ 0x12)
  | .ve => decide (1 ≤ op ∧ op ≤ 0xA) || decide (0x10 ≤ op ∧ op ≤ 0x12)
  | .mx => decide (1 ≤ op ∧ op ≤ 3)
  | .ld => decide (1 ≤ op ∧ op ≤ 5)
  | .st => decide (1 ≤ op ∧ op ≤ 6)
  | .sy => decide (1 ≤ op ∧ op ≤ 5) || decide (8 ≤ op ∧ op ≤ 0xA)

/-- Length, reserved fields, reserved codes and ranges of an SC operation (R139, R141, R142). -/
def legalSc (w0 w1 : Word) : Bool :=
  let long := opLong w0
  let imm := flag w0 28
  let cond := fld w0 29 3
  let immOk := (if imm then long && fld w0 24 4 = 0 else !long)
  match opcode w0 with
  | 0 => !long && fld w0 16 16 = 0
  | 1 | 2 => long && fld w0 20 12 = 0
  | 0xC => immOk && decide (fld w0 16 4 < 12) && decide (cond < 6)
  | 0xD => !long && !imm && decide (fld w0 16 4 < 12) && decide (cond < 4)
  | 0x10 => !long && fld w0 31 1 = 0
  | 0x11 => long && fld w0 19 13 = 0
  | 0x12 => long && fld w0 24 8 = 0 && (flag w0 23 || (fld w0 18 5 = 0 && w1 = 0))
  | _ => immOk && cond = 0

/-- The same of a VE operation (R143, R147, R150). -/
def legalVe (w0 w1 : Word) : Bool :=
  let long := opLong w0
  let vn := veN w0
  let ty := veType w0
  let op := opcode w0
  if op = 0x12 then !long && fld w0 18 14 = 0
  else if op = 0x10 then
    long && fld w0 17 1 = 0 && fld w0 28 4 = 0 && fld w1 15 17 = 0 && decide (vslbTfmt w0 ≤ 8) &&
    decide (rowZero w1 + vslbRows w0 ≤ 64) && decide (veD w1 + ceilDiv (vslbRows w0 * tfmtBytes (vslbTfmt w0)) 256 ≤ 512)
  else if op = 0x11 then
    long && fld w1 15 17 = 0 && decide (rowZero w1 + vslbRows w0 ≤ 64) &&
    decide (veD w1 + vslbRows w0 * vsldRowBytes w0 / 256 ≤ 512) && (!vsldFloat w0 || vsldWb w0 = 0)
  else
    long && decide (ty < 3) && fld w0 30 2 = 0 && fld w1 27 5 = 0 && decide (veA w1 + vn ≤ 512) &&
    (if op = 8 then decide (veFn w0 ≤ 9) && veB w1 = 0 && decide (veD w1 + vn ≤ 512)
     else if op = 9 then decide (veFn w0 ≤ 1) && veB w1 = 0 && decide (veD w1 + ceilDiv (4 * vn) 256 ≤ 512)
     else if op = 0xA then
       decide (veFn w0 < 16) && veB w1 = 0 && !elemMx (veFn w0) && veFn w0 ≠ typeDfmt ty &&
       decide (veD w1 + ceilDiv (vcvtBytes w0) 256 ≤ 512)
     else veFn w0 = 0 && decide (veD w1 + vn ≤ 512) &&
       (if op = 7 then decide (veB w1 < 16) else decide (veB w1 + vn ≤ 512)))

/-- The same of an MX operation (R151). -/
def legalMx (w0 w1 : Word) : Bool :=
  let long := opLong w0
  match opcode w0 with
  | 1 => long && fld w0 30 2 = 0 && fld w1 29 3 = 0 && mxAf w0 ≠ 0xF && mxWf w1 ≠ 0xF &&
         (!mxFloat w0 || mxWb w0 = 0) && (mxRate (mxAf w0) (mxWf w1) ≠ .paired || mxSet w0 = 0)
  | 2 => !long && fld w0 16 16 = 0
  | _ => !long && fld w0 27 5 = 0 && decide (mxcfgBase w0 + mxcfgBlks w0 ≤ 64)

/-- The same of an LD operation (R154). -/
def legalLd (w0 w1 : Word) : Bool :=
  opLong w0 &&
  match opcode w0 with
  | 1 => fld w0 26 6 = 0 && fld w1 29 3 = 0 && decide (osUnit w1 + ldlL w0 ≤ 512)
  | 2 => fld w0 26 6 = 0 && fld w1 17 15 = 0 && decide (ldgSlot w0 + ldgN w0 ≤ 256) && decide (ldgDst w1 + ldgN w0 ≤ 512)
  | 3 => fld w0 28 4 = 0 && decide (lsmUnit w1 + lsmL w0 ≤ if lsmSel w0 then 4096 else 512)
  | 4 => fld w0 24 8 = 0
  | _ => fld w0 31 1 = 0

/-- The same of an ST operation (R158, R159). -/
def State.legalSt (s : State) (t : Nat) (w0 w1 : Word) : Bool :=
  opLong w0 &&
  match opcode w0 with
  | 1 => fld w0 27 5 = 0 && fld w1 29 3 = 0 && decide (osUnit w1 + ldlL w0 ≤ 512)
  | 2 => fld w1 26 6 = 0 && decide (staTfmt w0 ≤ 8) && decide (staRow0 w1 + staRows w0 ≤ 64)
  | 3 => fld w0 30 2 = 0 && fld w1 25 7 = 0 && decide (stnTile w0 < s.nTiles) &&
         ((s.planOf t).bind fun pl => pl.path t (stnPath w0)).isSome &&
         decide (stnSlot w1 + stnN w0 ≤ 256) && decide (stnSrc w1 + stnN w0 ≤ 512)
  | 4 => fld w1 9 23 = 0 &&
         (match s.depOf t (stdDep w0) with
          | none => false
          | some d => decide (stdSrc w1 + d.ns ≤ 512))
  | 5 => fld w0 28 4 = 0 && decide (lsmUnit w1 + lsmL w0 ≤ if lsmSel w0 then 4096 else 512)
  | _ => fld w0 24 8 = 0

/-- The same of an SY operation (R161). -/
def legalSy (w0 : Word) : Bool :=
  let op := opcode w0
  if op ≤ 5 then
    opLong w0 && fld w0 30 2 = 0 && (op = 3 || syNreg w0 = 0) && (decide (4 ≤ op) || !syMon w0) && (decide (op < 4) || !syRmt w0)
  else !opLong w0 && fld w0 20 12 = 0

/-- The coding of an operation is legal for its slot. -/
def State.legal (s : State) (t : Nat) (q : Queue) (w0 w1 : Word) : Bool :=
  match q with
  | .sc => legalSc w0 w1
  | .ve => legalVe w0 w1
  | .mx => legalMx w0 w1
  | .ld => legalLd w0 w1
  | .st => s.legalSt t w0 w1
  | .sy => legalSy w0

/-! ## Occupancy and latency (Tables 4.6, 5.1) -/

/-- Stacks that a Marl range touches. -/
def stacksOf (a n : Nat) : List Nat := (List.range (((a + n - 1) / stackSize) - a / stackSize + 1)).map fun i => a / stackSize + i

/-- The clocks run at half rate: P1 (Tables 17.7, 19.4). DEDUCED (log entry 25). -/
def State.half (s : State) : Bool := decide (s.pwr.state = 1)
/-- Ticks of a Marl frame (R171, Table 19.4). -/
def State.frame (s : State) : Nat := if s.half then 160 else 80
/-- Tenths of a tick of a beat (R223, Table 19.4). DEDUCED (log entry 25). -/
def State.beat10 (s : State) : Nat := if s.half then 16 else 8

/-- The reduced-service profile is in force (R521). -/
def State.reduced (s : State) : Bool := s.pwr.rsvc

/-- The largest of a published figure over stacks. -/
def maxOver (f : Nat → Nat) (ks : List Nat) : Nat := ks.foldl (fun m k => max m (f k)) 0
def State.lMfor (s : State) (t a n : Nat) : Nat := maxOver (Config.lM s.reduced t) (stacksOf a n)
def State.lWfor (s : State) (t a n : Nat) : Nat := maxOver (Config.lW s.reduced t) (stacksOf a n)
/-- L_S of the stack that an address names, or the largest published for the tile if it names none (R93). -/
def State.lSfor (s : State) (t a : Nat) : Nat :=
  if a / stackSize < s.nStacks then Config.lS s.reduced t (a / stackSize)
  else maxOver (Config.lS s.reduced t) (List.range s.nStacks)

/-- Latency of a sync update: 4 remote, 2 in the own Loft, else L_S (Table 5.1, R93). -/
def State.syLat (s : State) (t : Nat) (w0 w1 : Word) : Nat :=
  let a := (s.tile t).syAddr w0 w1
  if syRmt w0 then 4 else if loftAddr t 0 ≤ a ∧ a < loftAddr t 0x100000 then 2 else s.lSfor t a

/-- Departure entry's port and slots for an STD. -/
def State.stdNs (s : State) (t : Nat) (w0 : Word) : Nat := ((s.depOf t (stdDep w0)).map (·.ns)).getD 1
def State.stdPort (s : State) (t : Nat) (w0 : Word) : Nat := ((s.depOf t (stdDep w0)).map (·.port)).getD 0

/-- Occupancy in beats. The waits hold their unit until they are satisfied, and occupy 1 b here. -/
def State.occ (s : State) (t : Nat) (q : Queue) (w0 w1 : Word) : Nat :=
  let op := opcode w0
  match q with
  | .sc => 1
  | .ve => if op = 0x12 then 1 else if op = 0x10 then vslbRows w0 * tfmtBpr (vslbTfmt w0)
           else if op = 0x11 then vslbRows w0 * (if vsldRaw64 w0 then 2 else 4) else veN w0
  | .mx => if op = 1 then (if mxRate (mxAf w0) (mxWf w1) = .sixteen then 2 * mxN w1 else mxN w1) else if op = 2 then 32 else 1
  | .ld => if op = 1 then ceilDiv (ldlL w0) 2 else if op = 2 then ceilDiv (ldgN w0) 2 else if op = 3 then 4 * lsmL w0 else 1
  | .st => if op = 1 then ceilDiv (ldlL w0) 2 else if op = 2 then staRows w0 * tfmtBpr (staTfmt w0)
           else if op = 3 then stnN w0 else if op = 4 then ceilDiv (s.stdNs t w0) 2 else if op = 5 then 4 * lsmL w0 else 1
  | .sy => 1

/-- Latency in beats. A FETCH completes when its lines are resident: its latency is the compiler's bound, after which a line that is
missing stalls the tile (R101). That of a skipped LDM or STM is taken from s[AREG] as it stands, with no interlock. DESIGN CHOICE (log entry 99). -/
def State.lat (s : State) (t : Nat) (q : Queue) (w0 w1 : Word) (aux : DWord) : Nat :=
  let op := opcode w0
  let v := s.tile t
  let occ := s.occ t q w0 w1
  match q with
  | .sc => if op = 0xB then 3 else 1
  | .ve => if op = 0x12 then 1 else if op = 0x10 || op = 0x11 then occ + 6 else if op = 8 then occ + 9 else if op = 9 then occ + 7 else occ + 5
  | .mx => if op = 1 then occ + 13 else if op = 2 then 32 else 1
  | .ld => if op = 3 then s.lMfor t (v.marlAddr (lsAreg w0) (lsmOff w1)) (256 * lsmL w0) + occ else if op = 4 then 3
           else if op = 5 then s.lMfor t aux.toNat (256 * fetchN w0) + 4 * fetchN w0 else occ
  | .st => if op = 2 then occ + 6 else if op = 4 then ceilDiv (5 * Config.sMax t (s.stdPort t w0)) 4
           else if op = 5 then s.lWfor t (v.marlAddr (lsAreg w0) (lsmOff w1)) (256 * lsmL w0) + occ
           else if op = 6 then 2 else occ
  | .sy => if op ≤ 3 then s.syLat t w0 w1 else if op = 8 || (op = 0xA && !maskWait w0) then 2 else 1

/-- The part of a latency that the identity data publishes, which the hazard detector does not scale (R63). -/
def State.latPub (s : State) (t : Nat) (q : Queue) (w0 w1 : Word) (aux : DWord) : Nat :=
  let op := opcode w0
  let v := s.tile t
  match q with
  | .ld => if op = 3 then s.lMfor t (v.marlAddr (lsAreg w0) (lsmOff w1)) (256 * lsmL w0)
           else if op = 5 then s.lMfor t aux.toNat (256 * fetchN w0) else 0
  | .st => if op = 4 then ceilDiv (5 * Config.sMax t (s.stdPort t w0)) 4
           else if op = 5 then s.lWfor t (v.marlAddr (lsAreg w0) (lsmOff w1)) (256 * lsmL w0) else 0
  | .sy => if op ≤ 3 && !syRmt w0 && decide (s.syLat t w0 w1 ≠ 2) then s.syLat t w0 w1 else 0
  | _ => 0

/-! ## What an operation reads and writes (Table 3.8) -/

/-- Resources: slab sets, operand-store blocks, scalar registers, predicates. -/
structure Res where
  slabs : List Nat
  blks  : List Nat
  sregs : List Nat
  preds : List Nat
  deriving DecidableEq, Repr

def Res.none : Res := { slabs := [], blks := [], sregs := [], preds := [] }

/-- 2 KiB blocks that a byte range of the operand store touches. -/
def blksOf (off n : Nat) : List Nat := if n = 0 then [] else (List.range ((off + n - 1) / 2048 - off / 2048 + 1)).map fun i => off / 2048 + i
/-- Blocks of a range of 256-byte units. -/
def unitBlks (u n : Nat) : List Nat := blksOf (256 * u) (256 * n)

/-- Ring offset of the j-th weight row (R113, R118, R152): MX weights carry a 64 B scale row before each block of 32. -/
def ringOff (wf woff j : Nat) : Nat :=
  if elemMx wf then woff + (j / 32) * (64 + 32 * mxRb wf) + 64 + (j % 32) * mxRb wf else woff + j * mxRb wf
def scaleRowOff (wf woff j : Nat) : Nat := woff + (j / 32) * (64 + 32 * mxRb wf)

/-- Blocks that a run reads: activation columns, activation scales, ring rows. -/
def Tile.mxBlks (v : Tile) (w0 w1 : Word) : List Nat :=
  let d := v.s (mxAreg w1)
  let r := mxRate (mxAf w0) (mxWf w1)
  let n := mxN w1
  let cb := mxCb r (mxAf w0)
  let size := v.mx.wblks * 2048
  let act := blksOf (mxAbase d + mxK0 d * cb) (n * cb)
  let sc := if elemMx (mxAf w0) then blksOf (mxAscale d) (ceilDiv n 32 * mxRows r) else []
  let rowBytes := n * mxRb (mxWf w1) + (if elemMx (mxWf w1) then 64 * ceilDiv n 32 else 0)
  let ring := (blksOf (mxWoff w1 % size) (min rowBytes size)).map fun b => v.mx.wbase + b % v.mx.wblks
  (act ++ sc ++ ring).eraseDups

/-- What an operation reads: every operation checks it before it issues. For VE operations that write a slab set, the
set is included. -/
def State.needs (s : State) (t : Nat) (q : Queue) (e : QEntry) : Res :=
  let w0 := e.w0
  let w1 := e.w1
  let op := opcode w0
  let v := s.tile t
  if e.skip then
    (if q = .sy && decide (op ≤ 3) then { Res.none with sregs := [syAreg w0] } else Res.none)
  else
  match q with
  | .sc =>
    if op = 0xD then { Res.none with preds := [fld w0 20 4, fld w0 24 4] }
    else if op = 0 || op = 1 || decide (0x10 ≤ op) then Res.none
    else if op = 2 then { Res.none with sregs := [fld w0 16 4] }
    else { Res.none with sregs := fld w0 20 4 :: (if flag w0 28 then [] else [fld w0 24 4]) }
  | .ve =>
    if op = 0x12 then { Res.none with slabs := if flag w0 17 then [0, 1] else [slabSet w0] }
    else if op = 0x10 then { Res.none with slabs := [slabSet w0], blks := blksOf (256 * veD w1) (vslbRows w0 * tfmtBytes (vslbTfmt w0)) }
    else if op = 0x11 then { Res.none with slabs := [slabSet w0], blks := blksOf (256 * veD w1) (vslbRows w0 * vsldRowBytes w0) }
    else
      let d := if op = 9 then blksOf (256 * veD w1) (4 * veN w0) else if op = 0xA then blksOf (256 * veD w1) (vcvtBytes w0)
               else unitBlks (veD w1) (veN w0)
      let b := if op = 7 || op = 8 || op = 9 || op = 0xA then [] else unitBlks (veB w1) (veN w0)
      { Res.none with blks := unitBlks (veA w1) (veN w0) ++ b ++ d, sregs := if op = 7 then [veB w1 % 16] else [] }
  | .mx => if op = 1 then { Res.none with blks := v.mxBlks w0 w1, sregs := [mxAreg w1] } else Res.none
  | .ld =>
    if op = 1 then { Res.none with blks := unitBlks (osUnit w1) (ldlL w0), sregs := [lsAreg w0] }
    else if op = 2 then { Res.none with blks := unitBlks (ldgDst w1) (ldgN w0) }
    else if op = 3 then { Res.none with blks := if lsmSel w0 then [] else unitBlks (lsmUnit w1) (lsmL w0), sregs := [lsAreg w0] }
    else if op = 4 then { Res.none with sregs := [ldsAreg w0] } else Res.none
  | .st =>
    if op = 1 then { Res.none with blks := unitBlks (osUnit w1) (ldlL w0), sregs := [lsAreg w0] }
    else if op = 2 then { Res.none with slabs := [slabSet w0], sregs := [staAreg w0] }
    else if op = 3 then { Res.none with blks := unitBlks (stnSrc w1) (stnN w0) }
    else if op = 4 then { Res.none with blks := unitBlks (stdSrc w1) (s.stdNs t w0) }
    else if op = 5 then { Res.none with blks := if lsmSel w0 then [] else unitBlks (lsmUnit w1) (lsmL w0), sregs := [lsAreg w0] }
    else { Res.none with sregs := [fld w0 16 4, ldsAreg w0] }
  | .sy =>
    if op ≤ 5 then { Res.none with sregs := [syAreg w0, syVreg w0] ++ (if op = 3 then [syNreg w0] else []) } else Res.none

/-- A resource an operation needs is pending: some operation that writes it has issued and not completed. -/
def Tile.pending (v : Tile) (r : Res) : Bool :=
  v.fly.any fun f => f.slab.any r.slabs.contains || f.blks.any r.blks.contains || f.sregs.any r.sregs.contains
    || f.preds.any r.preds.contains

end Sys2Proof.Machine
end

