-- ==== Sys2Proof/Machine/Flags.lean ====
section
/-! DEFINITION. Flags: the predicates of a tile and the comparators that drive four of them (R94), the conditions of SETP
and PLOG (Table 5.2), the barrier bits (R88 to R90), and the sticky bits of the slab sets (Table 4.8). -/

namespace Sys2Proof.Machine

/-- A condition of SETP on 64-bit values (Table 5.2). -/
def setpCond (c : Nat) (a b : DWord) : Bool :=
  match c with
  | 0 => decide (a = b)
  | 1 => decide (a ≠ b)
  | 2 => BitVec.slt a b
  | 3 => !BitVec.slt a b
  | 4 => BitVec.ult a b
  | _ => !BitVec.ult a b

/-- A combination of PLOG (Table 5.2). -/
def plogComb (c : Nat) (a b : Bool) : Bool :=
  match c with
  | 0 => a && b
  | 1 => a || b
  | 2 => a != b
  | _ => a && !b

/-- A condition of a comparator (R94). -/
def cmpCond (c : Nat) (v ref : Word) : Bool :=
  match c with
  | 0 => decide (v = ref)
  | 1 => decide (v ≠ ref)
  | 2 => BitVec.ult v ref
  | _ => !BitVec.ult v ref

/-- Bit `i` of a 16-bit vector of flags. -/
def flag16 (x : BitVec 16) (i : Nat) : Bool := x.getLsbD i
/-- A vector of flags with one set or cleared. -/
def setFlag16 (x : BitVec 16) (i : Nat) (b : Bool) : BitVec 16 :=
  if b then x ||| BitVec.ofNat 16 (2 ^ i) else x &&& ~~~ (BitVec.ofNat 16 (2 ^ i))

def Tile.cntOf (v : Tile) (j : Nat) : Word := SMap.get 0 v.cnt j
def Tile.setCnt (v : Tile) (j : Nat) (x : Word) : Tile := { v with cnt := SMap.put 0 v.cnt j x }
def Tile.cmpOf (v : Tile) (i : Nat) : Cmp := SMap.get Cmp.reset v.cmp i

/-- What comparator `i` drives: 0 when it is disabled (R94). -/
def Tile.cmpBit (v : Tile) (i : Nat) : Bool := let c := v.cmpOf i; c.en && cmpCond c.cond (v.cntOf c.cnt) c.ref

/-- The comparators evaluated at a decode, against the counters as they stand (R94): p12 to p15. -/
def Tile.evalCmps (v : Tile) : Tile :=
  { v with pred := (List.range 4).foldl (fun p i => setFlag16 p (12 + i) (v.cmpBit i)) v.pred }

/-- Clear a barrier bit in its waiter's issue beat (R88). -/
def Tile.clearXb (v : Tile) (i : Nat) : Tile := { v with xb := setFlag16 v.xb i false, xbc := setFlag16 v.xbc i false }
/-- Set a barrier bit at a completion (R89). -/
def Tile.setXb (v : Tile) (i : Nat) : Tile := { v with xb := setFlag16 v.xb i true }
/-- A set would reach a bit that was 1 at the start of the beat and is not cleared in it (R90). -/
def Tile.xbFault (v : Tile) (i : Nat) : Bool := flag16 v.xbc i
/-- The barrier bits as they stand at the start of a beat. -/
def Tile.xbStart (v : Tile) : Tile := { v with xb0 := v.xb, xbc := v.xb }

/-- SATANY and INVANY of a set (Table 4.8). -/
def Tile.satAny (v : Tile) (set : Nat) : Bool := (v.accs set).any fun kv => kv.2.sat
def Tile.invAny (v : Tile) (set : Nat) : Bool := (v.accs set).any fun kv => kv.2.inv

def SlabMode.code : SlabMode → Nat
  | .clear => 0 | .slab => 1 | .float => 2

/-- TIL_MX_SET0 and TIL_MX_SET1 (Table 4.8). -/
def Tile.mxSetReg (v : Tile) (set : Nat) : Word :=
  let i := v.info set
  word (i.wb + i.mode.code * 2 ^ 8 + put1 i.pair 10 + put1 (v.satAny set) 11 + put1 (v.invAny set) 12 + i.depth * 2 ^ 16)

/-- TIL_MX_STAT (Table 4.9). -/
def Tile.mxStatReg (v : Tile) : Word :=
  word (v.mx.wbase + v.mx.wblks * 2 ^ 6 + put1 v.mx.cold 12 + v.mx.idle * 2 ^ 13)

/-- TIL_FE_STAT (Table 3.10). -/
def Tile.feStatReg (v : Tile) : Word := word (v.xb.toNat + v.pred.toNat * 2 ^ 16)

def WaitKind.code : WaitKind → Nat
  | .word => 0 | .rwait => 1 | .mbar => 2

/-- TIL_SY_STAT (Table 11.8). -/
def Tile.syStatReg (v : Tile) : Word :=
  match v.wait with
  | none => word (v.mons.length * 2 ^ 4)
  | some w => word (1 + w.kind.code * 2 + v.mons.length * 2 ^ 4 + (min w.wcrs 0xFFFF) * 2 ^ 16)

end Sys2Proof.Machine
end

