-- ==== Sys2Proof/Machine/Front.lean ====
section
/-! DEFINITION. The front end of a tile: the instruction cache (R101 to R104), Shale words and their decoding (R79 to R81,
R137), counted loops (R96 to R99), queue heads and stalls (R82 to R88, R95, R105, R106), the course's reserve charge
(R41, R43), and SHALE_WORD_DECODE, which is one clock beat of the front end. -/

namespace Sys2Proof.Machine

/-! ## Instruction cache: line address L lies in set L mod 128, in the place 2 (L mod 128) or the next -/

def icSet (line : Nat) : Nat := line % 128
def icNone : ICLine := { line := 2 ^ 40, lock := none, used := 0, data := [] }
def Tile.icAt (v : Tile) (k : Nat) : Option ICLine := SMap.find v.ic k

/-- The place of a resident line. -/
def Tile.icFind (v : Tile) (line : Nat) : Option Nat :=
  let k := 2 * icSet line
  if (v.icAt k).any fun l => l.line = line then some k
  else if (v.icAt (k + 1)).any fun l => l.line = line then some (k + 1) else none

def Tile.resident (v : Tile) (line : Nat) : Bool := (v.icFind line).isSome

/-- The locked line of a set, if any. -/
def Tile.icLocked (v : Tile) (set : Nat) : Option ICLine :=
  [v.icAt (2 * set), v.icAt (2 * set + 1)].findSome? fun l => match l with
    | some x => if x.lock.isSome then some x else none
    | none => none

/-- The place that a fill takes: an empty way, the way that is not locked, or the way used least recently (R103). DESIGN CHOICE (log entry 42). -/
def Tile.icVictim (v : Tile) (set : Nat) : Option Nat :=
  let k := 2 * set
  match v.icAt k, v.icAt (k + 1) with
  | none, _ => some k
  | _, none => some (k + 1)
  | some a, some b =>
    if a.lock.isSome && b.lock.isSome then none
    else if a.lock.isSome then some (k + 1)
    else if b.lock.isSome then some k
    else if b.used < a.used then some (k + 1) else some k

/-- A line is used: its stamp becomes the latest. DESIGN CHOICE (log entry 42). -/
def Tile.icTouch (v : Tile) (line : Nat) : Tile :=
  match v.icFind line with
  | none => v
  | some k => { v with ic := SMap.put icNone v.ic k { (v.icAt k).getD icNone with used := v.icUse + 1 }, icUse := v.icUse + 1 }

/-- Fill a line, keeping the later of two end courses of its lock (R102). A FETCH that names a resident line is no use of it in the sense
of R103. DESIGN CHOICE (log entry 99). -/
def Tile.icFill (v : Tile) (line : Nat) (data : List Byte) (lock : Option Nat) : Tile :=
  match v.icFind line with
  | some k =>
    let l := (v.icAt k).getD icNone
    let lk := match l.lock, lock with
      | some a, some b => some (max a b)
      | some a, none => some a
      | none, b => b
    { v with ic := SMap.put icNone v.ic k { l with lock := lk } }
  | none =>
    match v.icVictim (icSet line) with
    | none => v
    | some k => { v with ic := SMap.put icNone v.ic k { line := line, lock := lock, used := v.icUse + 1, data := data },
                         icUse := v.icUse + 1 }

/-- A line arrives: it is filled, and every FETCH in flight that names it needs one line less and locks it (R101, R102). -/
def Tile.icArrive (v : Tile) (line : Nat) (data : List Byte) : Tile :=
  if v.resident line then v else
  let hits := fun f : Flight => f.eff.any fun e => match e with
    | .lines l n _ => decide (l ≤ line ∧ line < l + n)
    | _ => false
  let lock := v.fly.foldl (fun m f => f.eff.foldl (fun m e => match e with
    | .lines l n (some c) => if l ≤ line ∧ line < l + n then some (max c (m.getD 0)) else m
    | _ => m) m) (none : Option Nat)
  let w := v.icFill line data lock
  { w with fly := w.fly.map fun f => if hits f then { f with need := f.need - 1 } else f,
           fe := { w.fe with miss := w.fe.miss.filter fun x => decide (x ≠ line) } }

/-- Locks that last to the end of course `c` or earlier end (R102). -/
def Tile.icUnlock (v : Tile) (c : Nat) : Tile :=
  { v with ic := SMap.mapVals (fun l => if l.lock.any fun x => decide (x ≤ c) then { l with lock := none } else l) v.ic }

/-- Lines of a word of `n` bytes at an address. -/
def linesOf (a n : Nat) : List Nat := (List.range ((a + n - 1) / 256 - a / 256 + 1)).map fun i => (a / 256 + i) % 2 ^ 40

/-- Bytes of resident lines. -/
def Tile.icBytes (v : Tile) (a n : Nat) : List Byte :=
  (List.range n).map fun i =>
    let x := (a + i) % 2 ^ 48
    match v.icFind (x / 256) with
    | some k => ((v.icAt k).getD icNone).data.getD (x % 256) 0
    | none => 0

/-- Lines of a range that are not resident. -/
def Tile.icMissing (v : Tile) (a n : Nat) : List Nat := (linesOf a n).filter fun l => !v.resident l

/-! ## Shale words (R79 to R81, R137) -/

/-- A word as the front end finds it at an address. -/
inductive Shale where
  /-- lines that are not resident (R104) -/
  | miss (lines : List Nat)
  /-- a malformed word: its header and the number of the first failing condition -/
  | bad (hdr : Word) (why : Nat)
  | word (hdr : Word) (ops : List (Queue × Word × Word))
  deriving DecidableEq, Repr

/-- The operations that follow a header, in the order of their SLOTS bits. -/
def cutOps (slots : Nat) : List Nat → List Word → List (Queue × Word × Word)
  | [], _ => []
  | i :: r, ws =>
    if bit slots i then
      let w0 := wd ws 0
      if opLong w0 then (queueOf i, w0, wd ws 1) :: cutOps slots r (ws.drop 2)
      else (queueOf i, w0, 0) :: cutOps slots r (ws.drop 1)
    else cutOps slots r ws

def shLen (h : Word) : Nat := fld h 6 4
def shPidx (h : Word) : Nat := fld h 10 4
def shPneg (h : Word) : Bool := flag h 14
def shPen (h : Word) : Bool := flag h 15

/-- The loop rules of R98 for an SC operation, against the open loops; `left` counts the word itself. A LOOP whose counter is 0 is held
to them too. DESIGN CHOICE (log entry 99). -/
def loopRule (loops : List LoopFrame) (w0 : Word) : Bool :=
  let owned := loops.any fun l => l.cnt = fld w0 16 3
  match opcode w0 with
  | 0x10 => decide (loops.length < 4) && !owned &&
      (match loops with
       | [] => true
       | l :: _ => decide (fld w0 19 12 + 1 + 1 ≤ l.left))
  | 0x11 => !owned
  | _ => true

/-- The header at an address as memory holds it; memory that the partition does not own reads as zero (R81). -/
def State.peekHdr (s : State) (t a : Nat) : Word :=
  match s.owner 0 t with
  | some p => if s.ownedMarl p a 4 then wordAt (s.rd a 4) 0 else 0
  | none => 0

/-- The lines of the word at an address that are not resident: those of its header, and where its length is a legal one those of the
whole word, so that one miss asks for both lines of a word (R104). DESIGN CHOICE (log entry 99). -/
def State.missAt (s : State) (t a : Nat) : List Nat :=
  let v := s.tile t
  let h := if (v.icMissing a 4).isEmpty then wordAt (v.icBytes a 4) 0 else s.peekHdr t a
  v.icMissing a (if shLen h = 0 ∨ 13 < shLen h then 4 else 4 * shLen h)

/-- Read and check the word at an address (R81, R98, R104, R137). DESIGN CHOICE (log entry 36). -/
def State.shaleAt (s : State) (t : Nat) (a : Nat) : Shale :=
  let v := s.tile t
  let h := wordAt (v.icBytes a 4) 0
  let len := shLen h
  if !(s.missAt t a).isEmpty then .miss (s.missAt t a)
  else if len = 0 ∨ 13 < len then .bad h 1 else
  let ws := bytesToWords (v.icBytes a (4 * len)) len
  let ops := cutOps (fld h 0 6) (List.range 6) (ws.drop 1)
  let total := ops.foldl (fun n o => n + if opLong o.2.1 then 2 else 1) 1
  if total ≠ len then .bad h 2
  else if fld h 16 16 ≠ 0 then .bad h 3
  else if !shPen h ∧ (shPidx h ≠ 0 ∨ shPneg h) then .bad h 4
  else if !ops.all fun o => opDefined o.1 (opcode o.2.1) then .bad h 5
  else if !ops.all fun o => s.legal t o.1 o.2.1 o.2.2 then .bad h 6
  else if !ops.all fun o => o.1 ≠ .sc || loopRule v.fe.loops o.2.1 then .bad h 7
  else .word h ops

/-- The header of a word that a zero-count loop passes over; a word that is not fully resident is a miss (R96, R104). -/
def State.passAt (s : State) (t a : Nat) : Shale :=
  let h := wordAt ((s.tile t).icBytes a 4) 0
  if !(s.missAt t a).isEmpty then .miss (s.missAt t a)
  else if shLen h = 0 ∨ 13 < shLen h then .bad h 1 else .word h []

/-! ## Counted loops (R96 to R99) -/

/-- At the end of an iteration the counter steps down; the loop begins again, or exits at 0. Body words of an inner loop
were counted off its encloser when it opened. -/
def closeLoops : Nat → Tile → Tile
  | 0, v => v
  | n + 1, v =>
    match v.fe.loops with
    | [] => v
    | l :: r =>
      if l.left ≠ 0 then v else
      let c := v.cntOf l.cnt - 1
      let v1 := v.setCnt l.cnt c
      if c = 0 then closeLoops n { v1 with fe := { v1.fe with loops := r } }
      else { v1 with fe := { v1.fe with pc := l.start, loops := { l with left := l.body } :: r } }

/-- One body word of the innermost loop has been decoded. -/
def Tile.countWord (v : Tile) : Tile :=
  match v.fe.loops with
  | [] => v
  | l :: r => { v with fe := { v.fe with loops := { l with left := l.left - 1 } :: r } }

/-- Open a loop over `b` words after a word, or pass over them when the counter is 0 (R96). -/
def Tile.openLoop (v : Tile) (j b : Nat) (skip : Bool) : Tile :=
  let outer := match v.fe.loops with
    | [] => []
    | l :: r => { l with left := l.left - b } :: r
  if v.cntOf j = 0 then { v with fe := { v.fe with loops := outer, passL := b } }
  else { v with fe := { v.fe with loops := { cnt := j, start := v.fe.pc, body := b, left := b, skip := skip } :: outer } }

/-! ## Queue heads -/

/-- The wait at the head of SY holds its unit. -/
def Tile.unitFree (v : Tile) (q : Queue) (b : Nat) : Bool :=
  decide ((v.queue q).free ≤ b) && !(decide (q = .sy) && v.wait.isSome)

/-- The head of a queue that issues in clock beat `b`, apart from interlocks: decoded in an earlier plan beat, its unit
free, its barrier bit 1 at the start of the beat (R82, R84, R88). -/
def Tile.headAt (v : Tile) (q : Queue) (b pb : Nat) (x : BitVec 16) : Option QEntry :=
  match (v.queue q).ents with
  | [] => none
  | e :: _ =>
    if !v.fe.qstop.contains q && decide (e.ready ≤ pb) && v.unitFree q b &&
       (!opWen e.w0 || flag16 x (opWidx e.w0)) then some e else none

/-- A wait of the SY queue. -/
def isWait (w0 : Word) : Bool :=
  let op := opcode w0
  decide (op = 4 ∨ op = 5 ∨ op = 9) || (decide (op = 0xA) && maskWait w0)

/-- The run of the partition of a tile, if it has one. -/
def State.partOf (s : State) (t : Nat) : Option Nat := s.owner 0 t

/-- A tile drains: its partition's plan is halted or complete, and its drain has not ended (R45, R501). -/
def State.draining (s : State) (t : Nat) : Bool :=
  match s.partOf t with
  | none => false
  | some p => let v := s.part p
              (decide (v.launch.st = .complete) || (v.running && v.run.halted)) && !(s.tile t).drained

/-- A tile is inside a course: its plan runs, neither halted nor paused, and plan beats of the course remain. -/
def State.inCourse (s : State) (t : Nat) : Bool :=
  match s.partOf t with
  | none => false
  | some p =>
    let v := s.part p
    let tm := (s.tile t).tim
    v.live && decide (0 < tm.course) &&
      (match v.courseAt (tm.course - 1) with
       | none => false
       | some c => decide (tm.beat < c.len))

/-- The course descriptor in which a tile is. -/
def State.courseOf (s : State) (t : Nat) : Option Course :=
  (s.partOf t).bind fun p => if (s.tile t).tim.course = 0 then none else (s.part p).courseAt ((s.tile t).tim.course - 1)

/-- The next plan beat is a maintenance beat (R87). -/
def State.inMaint (s : State) (t : Nat) : Bool :=
  match s.courseOf t with
  | none => false
  | some c => decide (c.len ≤ (s.tile t).tim.beat + c.maint)

/-! ## Reserve and faults of a tile -/

/-- The course and plan beat that a record of a tile names; `beat` has been counted once its plan beat is in progress, a maintenance
beat among them (R87). -/
def Tile.where_ (v : Tile) : Option Nat × Option Nat :=
  if v.tim.course = 0 then (none, none) else (some (v.tim.course - 1), some (if v.tim.plan || v.tim.maint then v.tim.beat - 1 else v.tim.beat))

/-- A fault of a tile with its course, beat and instruction address. -/
def State.tileFault (s : State) (t cls cause iaddr : Nat) (fields : List Word) : State :=
  let w := (s.tile t).where_
  s.raiseTile t { cls := cls, cause := cause, course := w.1, beat := w.2, tile := some t, iaddr := iaddr, fields := fields }

/-- A precise fault of an operation: its queue issues nothing more (R163); an uncorrectable Loft word or tag asks for the test of
its row (R508). After a code-lock or barrier-bit fault too the other queues issue what stands in them as the tile drains (R501): R109's
'any later word' is taken as no word that is not yet decoded. DESIGN CHOICE (log entry 99). -/
def State.opFault (s : State) (t : Nat) (q : Queue) (cls cause iaddr : Nat) (fields : List Word) : State :=
  let s1 := if cls = 0x0B ∧ cause = 1 then s.askTest 0 (loftRow t (wd fields 1).toNat) else s
  (s1.modTile t fun v => { v with fe := { v.fe with qstop := q :: v.fe.qstop } }).tileFault t cls cause iaddr fields

/-- Kinds of reserve charge (Table 2.4). -/
inductive Charge where
  | ilk | ramp | stretch | stepdn
  deriving DecidableEq, Repr

/-- Add a charge to a tile's S; the event that takes S past 8 x RSV raises a course-overrun fault (R41, R43). -/
def State.chargeS (s : State) (t : Nat) (k : Charge) (e8 : Nat) : State :=
  let rsv := ((s.courseOf t).map (·.rsv)).getD 0
  let old := (s.tile t).tim.s
  let s2 := s.modTile t fun v => { v with tim := match k with
    | .ilk => { v.tim with s := old + e8, sIlk := v.tim.sIlk + e8 }
    | .ramp => { v.tim with s := old + e8, sRamp := v.tim.sRamp + e8 }
    | .stretch => { v.tim with s := old + e8, sStr := v.tim.sStr + e8 }
    | .stepdn => { v.tim with s := old + e8, sStep := v.tim.sStep + e8 } }
  if old ≤ 8 * rsv ∧ 8 * rsv < old + e8 then
    let m := (s2.tile t).tim
    s2.tileFault t 0x01 0 0 [word m.s, word m.sIlk, word m.sRamp, word m.sStr, word m.sStep]
  else s2

/-- Charge a tile's reserve and count the charge (R41, R46); a hold beat is not charged, and neither is a beat of a drain, whose
interlock stalls are not counted in TIL_SLIP_ILK. DESIGN CHOICE (log entry 99). -/
def State.charge (s : State) (t : Nat) (k : Charge) (e8 : Nat) : State :=
  let s1 := match k with
    | .ilk => s.tileCount t .slipIlk 1
    | .ramp => s.tileCount t .slipRamp 1
    | .stretch => s.tileCount t .stretchE8 e8
    | .stepdn => s.tileCount t .stepdnE8 e8
  if s.inCourse t then s1.chargeS t k e8 else s

/-! ## Stalls of a beat -/

/-- The decode's own view of the next word, with the interlocks of R86 and R95. -/
inductive Look where
  /-- nothing decodes: no entry, stopped, or draining -/
  | none
  | miss (lines : List Nat)
  | ilk
  /-- a predicate that an SC operation of this beat writes (R95), or a full queue (R83) -/
  | hold
  | pass (hdr : Word)
  | bad (hdr : Word) (why : Nat)
  | word (hdr : Word) (ops : List (Queue × Word × Word))
  deriving DecidableEq, Repr

/-- The predicate that an SC operation writes, if any. -/
def scPred (e : QEntry) : Option Nat :=
  if !e.skip && decide (opcode e.w0 = 0xC ∨ opcode e.w0 = 0xD) then some (fld e.w0 16 4) else Option.none

/-- An SC operation that issues in clock beat `b` writes one of some predicates (R95). -/
def Tile.scWrites (v : Tile) (b : Nat) (ps : List Nat) : Bool :=
  (v.headAt .sc b v.tim.pb v.xb).any fun e => (scPred e).any fun i => ps.contains i

/-- The predicate p0-p11 that selects a word. -/
def selPred (h : Word) : List Nat := if shPen h && decide (shPidx h < 12) then [shPidx h] else []

/-- What the front end finds at its next word in clock beat `b`. A malformed word faults whether or not its queues have room, and a
FETCH takes its address from the register as it stands where an operation that issues in the same beat writes it: R95's check of the
same beat is for predicates alone. DESIGN CHOICE (log entry 99). -/
def State.look (s : State) (t b : Nat) : Look :=
  let v := s.tile t
  if !v.fe.on || v.fe.stop then .none else
  if 0 < v.fe.passL then
    match s.passAt t v.fe.pc with
    | .miss ls => .miss ls
    | .bad h w => .bad h w
    | .word h _ => .pass h
  else
    match s.shaleAt t v.fe.pc with
    | .miss ls => .miss ls
    | .bad h w =>
      if v.pending { Res.none with preds := selPred h } then .ilk
      else if v.scWrites b (selPred h) then .hold else .bad h w
    | .word h ops =>
      let need : Res := { Res.none with
        preds := selPred h,
        sregs := ops.filterMap fun o => if o.1 = .ld ∧ opcode o.2.1 = 5 then some (lsAreg o.2.1) else Option.none }
      if v.pending need then .ilk else
      if v.scWrites b need.preds then .hold
      else if ops.any fun o => decide (16 ≤ (v.queue o.1).ents.length - (if (v.headAt o.1 b v.tim.pb v.xb).isSome then 1 else 0))
        then .hold
      else .word h ops

/-- An interlock stops an issue of this beat (R105, R106). -/
def State.headStall (s : State) (t b : Nat) : Bool :=
  let v := s.tile t
  allQueues.any fun q => match v.headAt q b v.tim.pb v.xb with
    | none => false
    | some e => v.pending (s.needs t q e)

/-- The MXR at the head of the MX queue would issue on a cold engine (R132). One that will fault at its issue gets the ramp and its charge
first. DESIGN CHOICE (log entry 100). -/
def Tile.rampDue (v : Tile) (b : Nat) : Bool :=
  (v.mx.cold || decide (64 ≤ v.mx.idle)) &&
  (v.headAt .mx b v.tim.pb v.xb).any fun e => decide (opcode e.w0 = 1)

/-- An operation that occupies the engine issues in the plan beat (R130). -/
def Tile.mxIssues (v : Tile) (b : Nat) : Bool :=
  (v.headAt .mx b v.tim.pb v.xb).any fun e => decide (opcode e.w0 = 1 ∨ opcode e.w0 = 2)

/-- An operation whose completion is no matter of its latency: a FETCH, which completes when its lines are resident (R101). -/
def Flight.isFetch (f : Flight) : Bool := f.eff.any fun e => match e with
  | .lines .. => true
  | _ => false

/-- An operation may complete in clock beat `cb`: nothing that it waits for is missing, and its latency has elapsed (R85). -/
def Flight.ends (f : Flight) (cb : Nat) : Bool :=
  decide (f.need = 0) && (decide (f.due ≤ cb) || (f.isFetch && decide (f.start < cb)))

/-- The first operation of some queue is due and not completed. -/
def Tile.dueNow (v : Tile) : Option Flight :=
  allQueues.findSome? fun q => match v.fly.find? fun f => decide (f.q = q) with
    | some f => if f.due ≤ v.tim.cb then some f else none
    | none => none

/-- Some queue's head still issues in the beat in progress. -/
def Tile.issuesLeft (v : Tile) : Bool :=
  v.tim.plan && allQueues.any fun q => decide ((v.queue q).last ≠ v.tim.cb) && (v.headAt q (v.tim.cb - 1) (v.tim.pb - 1) v.xb0).isSome

end Sys2Proof.Machine
end

