-- ==== Sys2Proof/Machine/Issue.lean ====
section
/-! DEFINITION. Issue of an operation from the head of its queue (R84, R88, R93), and what every operation leaves behind:
the flight that makes its results visible at completion (R85), with the resources that it holds until then (Table 3.8). -/

namespace Sys2Proof.Machine

/-- What an operation does in its issue beat. -/
inductive Act where
  /-- a precise fault: the operation does not issue (R163) -/
  | fault (cls cause : Nat) (fields : List Word)
  /-- it issues: the state after, what it makes visible at its completion, and the Marl blocks or lines it waits for -/
  | go (s : State) (eff : List Effect) (need : Nat)
  /-- it issues as a wait, which completes later (R327) -/
  | wait (s : State) (w : Wait)

/-- What an operation that is not skipped writes: a slab set, operand-store blocks, scalar registers, predicates. -/
def State.writes (s : State) (t : Nat) (q : Queue) (e : QEntry) : Res :=
  let w0 := e.w0
  let w1 := e.w1
  let op := opcode w0
  let _ := s
  let _ := t
  if e.skip then Res.none else
  match q with
  | .sc =>
    if op = 0 ∨ 0x10 ≤ op then Res.none
    else if op = 0xC ∨ op = 0xD then { Res.none with preds := [fld w0 16 4] }
    else { Res.none with sregs := [fld w0 16 4] }
  | .ve =>
    if op = 0x12 then { Res.none with slabs := if flag w0 17 then [0, 1] else [slabSet w0] }
    else if op = 0x11 then { Res.none with slabs := [slabSet w0] }
    else if op = 0x10 then { Res.none with blks := blksOf (256 * veD w1) (vslbRows w0 * tfmtBytes (vslbTfmt w0)) }
    else if op = 9 then { Res.none with blks := blksOf (256 * veD w1) (4 * veN w0) }
    else if op = 0xA then { Res.none with blks := blksOf (256 * veD w1) (vcvtBytes w0) }
    else { Res.none with blks := unitBlks (veD w1) (veN w0) }
  | .mx =>
    if op = 1 then { Res.none with slabs := if mxRate (mxAf w0) (mxWf w1) = .paired then [0, 1] else [mxSet w0] }
    else Res.none
  | .ld =>
    if op = 1 then { Res.none with blks := unitBlks (osUnit w1) (ldlL w0) }
    else if op = 2 then { Res.none with blks := unitBlks (ldgDst w1) (ldgN w0) }
    else if op = 3 then { Res.none with blks := if lsmSel w0 then [] else unitBlks (lsmUnit w1) (lsmL w0) }
    else if op = 4 then { Res.none with sregs := [ldsD w0] } else Res.none
  | _ => Res.none

/-- The clock beat in progress at a tile. -/
def Tile.now (v : Tile) : Nat := v.tim.cb - 1

/-- The plan scale of a tile: 4 under the hazard detector (R63). -/
def State.tscale (s : State) (t : Nat) : Nat :=
  match s.partOf t with
  | none => 1
  | some p => (s.part p).scale

/-- The head of a queue that issues in the beat in progress, if it has not issued yet. -/
def State.issuing (s : State) (t : Nat) (q : Queue) : Option QEntry :=
  let v := s.tile t
  if v.tim.plan && decide ((v.queue q).last ≠ v.tim.cb) then v.headAt q v.now (v.tim.pb - 1) v.xb0 else none

/-- The head leaves its queue, its unit is busy, and the bit it waited for is cleared (R82, R84, R88). -/
def Tile.popHead (v : Tile) (q : Queue) (e : QEntry) (occ : Nat) : Tile :=
  let u := v.queue q
  let v1 := v.setQueue q { ents := u.ents.drop 1, free := v.now + occ, last := v.tim.cb }
  if opWen e.w0 then v1.clearXb (opWidx e.w0) else v1

/-- The beat in which a wait issues is a beat with a wait at the head of the SY queue (R347). DEDUCED (log entry 101). -/
def Tile.waitBeat (v : Tile) (q : Queue) (e : QEntry) : Tile := if q = .sy && !e.skip && isWait e.w0 then v.count .sywBeats 1 else v

/-- A clock beat in which the engine is not active (R130). -/
def Tile.mxQuiet (v : Tile) : Tile := { v with mx := { v.mx with idle := min 64 (v.mx.idle + 1) } }

/-- Issue the head of a queue if it is the operation `op`; `act` is what the operation does (R84). The beat of a run that faults is no
active beat of the engine (R130).
DESIGN CHOICE (log entry 2). DEDUCED (log entry 34). -/
def State.issue (s : State) (t : Nat) (q : Queue) (op : Nat) (act : State → QEntry → Act) : State :=
  match s.issuing t q with
  | none => s
  | some e =>
    if opcode e.w0 ≠ op then s else
    match act s e with
    | .fault cls cause fields =>
      (if q = .mx ∧ op = 1 then s.modTile t Tile.mxQuiet else s).opFault t q cls cause e.iaddr fields
    | .wait s1 w =>
      s1.modTile t fun v => { (v.waitBeat q e).popHead q e 1 with wait := some { w with set := setOf e.w0, iaddr := e.iaddr } }
    | .go s1 eff need =>
      let k := s.tscale t
      let lat := s.lat t q e.w0 e.w1 e.aux
      let pub := s.latPub t q e.w0 e.w1 e.aux
      let r := s.writes t q e
      s1.modTile t fun v =>
        let f : Flight :=
          { id := v.nextId, q := q, start := v.now, due := v.now + pub + k * (lat - pub), set := setOf e.w0, iaddr := e.iaddr,
            slab := r.slabs, blks := r.blks, sregs := r.sregs, preds := r.preds, need := need, eff := eff }
        let v1 := (v.waitBeat q e).popHead q e (k * s.occ t q e.w0 e.w1)
        { v1 with fly := v1.fly ++ [f], nextId := v1.nextId + 1 }

/-- An operation whose whole effect is what it makes visible at its completion. -/
def pureAct (f : State → QEntry → List Effect) (s : State) (e : QEntry) : Act :=
  .go s (if e.skip then [] else f s e) 0

/-! ## Accesses of a tile to the Marl (R155, R166) -/

/-- The cause of the access fault of a tile's access to `n` blocks from a Marl address, if it faults. -/
def State.marlFault (s : State) (a n : Nat) : Option Nat :=
  if a % 256 ≠ 0 then some 1
  else if (List.range n).all fun i => (match s.region (a + 256 * i) with
    | .marl .. => true
    | _ => false) then none else some 4

/-- The partition of a tile owns the block at an address (R193). -/
def State.blkOwned (s : State) (t a : Nat) : Bool :=
  match s.partOf t with
  | none => false
  | some p => decide (s.ownerAt a = some p)

/-- Put a plan block on its channel, which its request reaches after the published request time (R172, R175). -/
def State.pushBlk (s : State) (b : Blk) : State :=
  let k := b.addr / stackSize
  let c := chanOf (b.addr - k * stackSize)
  s.modStack k fun st =>
    let ch := SMap.get Chan.reset st.chans c
    let x : Blk := { b with rdy := s.now + Config.reqTime s.reduced b.tile k }
    { st with chans := SMap.put Chan.reset st.chans c { ch with plan := ch.plan ++ [x] } }

/-- Put the blocks of a tile's operation on their channels. -/
def State.pushBlks (s : State) : List Blk → State
  | [] => s
  | b :: r => State.pushBlks (s.pushBlk b) r

/-- A block of a tile's code fetch of a line. -/
def isLineBlk (t a : Nat) (b : Blk) : Bool :=
  decide (b.addr = a ∧ b.tile = t) && (match b.op with
    | .rdLine _ => true
    | _ => false)

/-- A line of a tile is on its way: on its channel, to be sent again, or across. -/
def State.lineComing (s : State) (t line : Nat) : Bool :=
  let a := line * 256
  let k := s.stack (a / stackSize)
  let c := SMap.get Chan.reset k.chans (chanOf (a % stackSize))
  c.plan.any (isLineBlk t a) || (c.again.any fun x => isLineBlk t a x.1) || k.back.any fun x => isLineBlk t a x.blk

/-- A fetch of a line for a tile: a plan block, unless the line is resident or on its way; a line of memory that the
partition does not own reads as zero (R81, R101). -/
def State.fetchLine (s : State) (t line : Nat) : State :=
  let a := line * 256
  if (s.tile t).resident line || (s.marlFault a 1).isSome then s
  else if s.blkOwned t a then
    if s.lineComing t line then s else s.pushBlk { addr := a, tile := t, fly := 0, op := .rdLine false }
  else (s.modTile t fun u => u.icArrive line (zeros 256)).devCount .xpartMem 1

end Sys2Proof.Machine
end

