-- ==== Sys2Proof/Machine/RealFn.lean ====
section
/-! DEFINITION. The functions of VFN (Table 5.6, R146). RCP, SQRT and RSQRT are computed exactly with a sticky bit. The
transcendental functions are computed in fixed point with 1,024 fraction bits, whose error is far below the distance of any
inexact result from a rounding boundary of a 24-bit format; exact results are treated on their own. -/

namespace Sys2Proof.Machine

/-- Fraction bits of the fixed-point computation. -/
def fxP : Nat := 1024
def fxOne : Int := 2 ^ fxP

def fxMul (a b : Int) : Int := (a * b) / 2 ^ fxP
def fxDiv (a b : Int) : Int := (a * 2 ^ fxP) / b

/-- `m x 2^e` in fixed point. -/
def fxOf (neg : Bool) (m : Nat) (e : Int) : Int :=
  let k := e + fxP
  let v : Int := if k ≥ 0 then m * 2 ^ k.toNat else m / 2 ^ (-k).toNat
  if neg then -v else v

/-- `Σ z^k / k!` for `k < n`, from the last term inwards. -/
def expSum (z : Int) : Nat → Nat → Int → Int
  | 0, _, acc => acc
  | n + 1, k, term =>
    -- term = z^k / k!
    term + expSum z n (k + 1) (fxMul term z / ((k : Int) + 1))

def sqTimes : Nat → Int → Int
  | 0, v => v
  | n + 1, v => sqTimes n (fxMul v v)

/-- e^x for x ≥ 0 in fixed point. -/
def fxExpPos (x : Int) : Int := sqTimes 12 (expSum (x / 2 ^ 12) 150 0 fxOne)

/-- e^x in fixed point. -/
def fxExp (x : Int) : Int := if x ≥ 0 then fxExpPos x else fxDiv fxOne (fxExpPos (-x))

/-- `Σ z^(2k+1) / (2k+1)`: the inverse hyperbolic tangent of z. -/
def atanhSum (z2 : Int) : Nat → Nat → Int → Int
  | 0, _, _ => 0
  | n + 1, k, p => p / (2 * (k : Int) + 1) + atanhSum z2 n (k + 1) (fxMul p z2)

/-- The natural logarithm of `num / den` for a value in [1, 2). -/
def fxLn1 (num den : Nat) : Int :=
  let z := fxDiv ((num : Int) - den) ((num : Int) + den)
  2 * atanhSum (fxMul z z) 340 0 z

def fxLn2 : Int := fxLn1 2 1

/-- `Σ (-1)^k / ((2k+1) d^(2k+1))`: the inverse tangent of 1/d. -/
def atanSum (d : Nat) : Nat → Nat → Int → Int
  | 0, _, _ => 0
  | n + 1, k, p =>
    let t := p / (2 * (k : Int) + 1)
    (if k % 2 = 0 then t else -t) + atanSum d n (k + 1) (p / (d * d))

/-- π by Machin's formula. -/
def fxPi : Int := 16 * atanSum 5 240 0 (fxOne / 5) - 4 * atanSum 239 70 0 (fxOne / 239)

/-- The integer square root, bit by bit from bit `k`. -/
def isqrtBits (n : Nat) : Nat → Nat → Nat
  | 0, r => r
  | k + 1, r => let t := r + 2 ^ k; isqrtBits n k (if t * t ≤ n then t else r)

/-- `⌊√n⌋`. -/
def isqrt (n : Nat) : Nat := isqrtBits n (log2 n / 2 + 1) 0

def fxSqrt (v : Int) : Int := (isqrt (v.toNat * 2 ^ fxP) : Nat)

/-- `Σ x^(2k+1) / (2k+1)!!`. -/
def phiSum (x2 : Int) : Nat → Nat → Int → Int
  | 0, _, _ => 0
  | n + 1, k, t => t + phiSum x2 n (k + 1) (fxMul t x2 / (2 * (k : Int) + 3))

/-- The standard normal distribution function, for |x| ≤ 20. -/
def fxPhi (x : Int) : Int :=
  let x2 := fxMul x x
  let dens := fxDiv (fxExp (-(x2 / 2))) (fxSqrt (2 * fxPi))
  fxOne / 2 + fxMul dens (phiSum x2 1600 0 x)

/-- A fixed-point value rounded to a format. -/
def Fmt.ofFx (f : Fmt) (v : Int) : Nat := f.ofRat (decide (v < 0)) v.natAbs (2 ^ fxP)

/-- √(num / den) rounded to a format: the root is taken to 200 bits and more, and a remainder makes it inexact. -/
def Fmt.sqrtRat (f : Fmt) (num den : Nat) : Nat :=
  let k := 400
  let n := num * 2 ^ (2 * k) / den
  let r := isqrt n
  if r * r = n && n * den = num * 2 ^ (2 * k) then f.ofRat false r (2 ^ k) else f.ofRat false (2 * r + 1) (2 ^ (k + 1))

/-- The rational of `m x 2^e`. -/
def ratOf (m : Nat) (e : Int) : Nat × Nat := if e ≥ 0 then (m * 2 ^ e.toNat, 1) else (m, 2 ^ (-e).toNat)

/-- A positive result too small for any format: it rounds to zero; and one too large: it rounds past every format. -/
def Fmt.tiny (f : Fmt) (neg : Bool) : Nat := f.ofDyadic neg 1 (-2000)
def Fmt.huge (f : Fmt) (neg : Bool) : Nat := f.ofDyadic neg 1 2000

/-- 2^x, where x is not an integer. -/
def fxExp2 (x : Int) : Int := fxExp (fxMul x fxLn2)

/-- The value is at least `k` in magnitude. -/
def big (m : Nat) (e : Int) (k : Nat) : Bool := let r := ratOf m e; decide (r.1 ≥ k * r.2)

/-- 1 / (1 + e^(-x)) in fixed point, |x| ≤ 256. -/
def fxSigmoid (x : Int) : Int :=
  if x ≥ 0 then fxDiv fxOne (fxOne + fxExp (-x))
  else let t := fxExp x; fxDiv t (fxOne + t)

/-- A VFN function of a value, rounded once to a format (R146, Table 5.6). DESIGN CHOICE (log entry 43). -/
def vfnEval (fn : Nat) (f : Fmt) (x : FV) : Nat :=
  match x with
  | .nan => f.encode .nan
  | .inf neg =>
    match fn with
    | 0 | 1 => if neg then f.encode (.fin false 0 0) else f.encode (.inf false)
    | 2 | 5 => if neg then f.encode .nan else f.encode (.inf false)
    | 3 => f.encode (.fin neg 0 0)
    | 4 => if neg then f.encode .nan else f.encode (.fin false 0 0)
    | 6 => f.encode (.fin neg 1 0)
    | 7 => if neg then f.encode (.fin false 0 0) else f.encode (.fin false 1 0)
    | _ => if neg then f.encode (.fin true 0 0) else f.encode (.inf false)
  | .fin neg m e =>
    let r := ratOf m e
    if m = 0 then
      match fn with
      | 0 | 1 => f.encode (.fin false 1 0)
      | 2 => f.encode (.inf true)
      | 3 => f.encode (.inf neg)
      | 4 => f.encode (.inf neg)
      | 7 => f.encode (.fin false 1 (-1))
      | _ => f.encode (.fin neg 0 0)
    else
      match fn with
      | 0 =>
        if big m e 256 then (if neg then f.tiny false else f.huge false)
        else if r.1 % r.2 = 0 then f.ofDyadic false 1 (let k : Int := (r.1 / r.2 : Nat); if neg then -k else k)
        else f.ofFx (fxExp2 (fxOf neg m e))
      | 1 => if big m e 256 then (if neg then f.tiny false else f.huge false) else f.ofFx (fxExp (fxOf neg m e))
      | 2 =>
        if neg then f.encode .nan
        else
          let k := ilog2 r.1 r.2
          -- r = 2^k x (num / den) with num / den in [1, 2)
          let num := if k ≥ 0 then r.1 else r.1 * 2 ^ (-k).toNat
          let den := if k ≥ 0 then r.2 * 2 ^ k.toNat else r.2
          if num = den then f.ofRat (decide (k < 0)) k.natAbs 1
          else f.ofFx (k * fxOne + fxDiv (fxLn1 num den) fxLn2)
      | 3 => f.ofRat neg r.2 r.1
      | 4 => if neg then f.encode .nan else f.sqrtRat r.2 r.1
      | 5 => if neg then f.encode .nan else f.sqrtRat r.1 r.2
      | 6 =>
        if big m e 64 then f.ofRat neg (2 ^ 100 - 1) (2 ^ 100)
        else if big m (e + 40) 1 then
          let t := fxExp (2 * fxOf false m e)
          f.ofRat neg (fxDiv (t - fxOne) (t + fxOne)).natAbs (2 ^ fxP)
        else -- x - x^3/3 <= tanh x < x: the result lies just below x
          f.ofRat neg (r.1 * 2 ^ 100 - 1) (r.2 * 2 ^ 100)
      | 7 => if big m e 256 then (if neg then f.tiny false else f.ofRat false (2 ^ 100 - 1) (2 ^ 100))
             else f.ofFx (fxSigmoid (fxOf neg m e))
      | 8 =>
        if big m e 256 then (if neg then f.tiny true else f.encode x)
        else f.ofRat neg (r.1 * (fxSigmoid (fxOf neg m e)).natAbs) (r.2 * 2 ^ fxP)
      | _ =>
        if big m e 20 then (if neg then f.tiny true else f.encode x)
        else f.ofRat neg (r.1 * (fxPhi (fxOf neg m e)).natAbs) (r.2 * 2 ^ fxP)

end Sys2Proof.Machine
end

