-- ==== Sys2Proof/Machine/Vector.lean ====
section
/-! DEFINITION. Vector operations (R143 to R147), slab reads and loads (R148 to R150), and the clear of a slab set (R123). -/

namespace Sys2Proof.Machine

/-! ## Lanes -/

/-- Codes of `n` elements of `w` bits at a byte offset of the operand store. -/
def Tile.lanes (v : Tile) (off w n : Nat) : List Nat :=
  let bs := v.opndRd off (w * n / 8)
  (List.range n).map fun i => natAt bs (i * (w / 8)) (w / 8)

/-- Elements of a vector operation: VN vectors of TYPE. -/
def veCount (w0 : Word) : Nat := veN w0 * typeLanes (veType w0)
def Tile.veSrc (v : Tile) (w0 : Word) (unit : Nat) : List FV :=
  (v.lanes (256 * unit) (typeWidth (veType w0)) (veCount w0)).map (typeFmt (veType w0)).decode
/-- The elements of TYPE at VD, packed. -/
def veOut (w0 w1 : Word) (cs : List Nat) : List Effect :=
  [.opnd (256 * veD w1) (cs.flatMap fun c => toLE (typeWidth (veType w0) / 8) c)]

/-- A lane-wise operation on VA and VB, rounded once to TYPE (R144). -/
def State.veBin (s : State) (t op : Nat) (f : FV → FV → FV) : State :=
  s.issue t .ve op (pureAct fun u e =>
    let v := u.tile t
    veOut e.w0 e.w1 (((v.veSrc e.w0 (veA e.w1)).zip (v.veSrc e.w0 (veB e.w1))).map fun p =>
      (typeFmt (veType e.w0)).encode (f p.1 p.2)))

/-- VADD. -/
def execVadd (t : Nat) (s : State) : Host.Outcome State Fault Refusal := .next (s.veBin t 1 FV.add)
/-- VSUB. -/
def execVsub (t : Nat) (s : State) : Host.Outcome State Fault Refusal := .next (s.veBin t 2 fun a b => a.add b.neg)
/-- VMUL. -/
def execVmul (t : Nat) (s : State) : Host.Outcome State Fault Refusal := .next (s.veBin t 3 FV.mul)
/-- VFMA: VD = VA x VB + VD with one rounding. -/
def execVfma (t : Nat) (s : State) : Host.Outcome State Fault Refusal :=
  .next (s.issue t .ve 4 (pureAct fun u e =>
    let v := u.tile t
    veOut e.w0 e.w1 ((((v.veSrc e.w0 (veA e.w1)).zip (v.veSrc e.w0 (veB e.w1))).zip (v.veSrc e.w0 (veD e.w1))).map fun p =>
      (typeFmt (veType e.w0)).encode ((p.1.1.mul p.1.2).add p.2))))
/-- VMAX and VMIN: -0 below +0; the canonical NaN if either input is NaN. -/
def execVmax (t : Nat) (s : State) : Host.Outcome State Fault Refusal := .next (s.veBin t 5 FV.max)
def execVmin (t : Nat) (s : State) : Host.Outcome State Fault Refusal := .next (s.veBin t 6 FV.min)
/-- VSCL: every lane times the FP32 value in bits 31:0 of a scalar register. -/
def execVscl (t : Nat) (s : State) : Host.Outcome State Fault Refusal :=
  .next (s.issue t .ve 7 (pureAct fun u e =>
    let v := u.tile t
    let k := fp32.decode ((v.s (veB e.w1 % 16)).toNat % 2 ^ 32)
    veOut e.w0 e.w1 ((v.veSrc e.w0 (veA e.w1)).map fun a => (typeFmt (veType e.w0)).encode (a.mul k))))
/-- VFN: a function of Table 5.6, rounded once to TYPE (R146). -/
def execVfn (t : Nat) (s : State) : Host.Outcome State Fault Refusal :=
  .next (s.issue t .ve 8 (pureAct fun u e =>
    let v := u.tile t
    veOut e.w0 e.w1 ((v.veSrc e.w0 (veA e.w1)).map fun a => vfnEval (veFn e.w0) (typeFmt (veType e.w0)) a)))

/-- One level of a pairwise tree of FP32 codes. -/
def pairUp (f : Nat → Nat → Nat) : List Nat → List Nat
  | a :: b :: r => f a b :: pairUp f r
  | r => r
/-- A pairwise tree, to a single value: seven levels reduce 128 lanes. -/
def treeOf (f : Nat → Nat → Nat) : Nat → List Nat → Nat
  | 0, l => l.headD 0
  | n + 1, l => treeOf f n (pairUp f l)

def fp32Add (a b : Nat) : Nat := fp32.encode ((fp32.decode a).add (fp32.decode b))
def fp32Max (a b : Nat) : Nat := fp32.encode ((fp32.decode a).max (fp32.decode b))

/-- VRED: one FP32 value per vector, the sum by a pairwise tree rounded at each addition, or the maximum (R145). -/
def execVred (t : Nat) (s : State) : Host.Outcome State Fault Refusal :=
  .next (s.issue t .ve 9 (pureAct fun u e =>
    let v := u.tile t
    let n := typeLanes (veType e.w0)
    let fp := ((v.veSrc e.w0 (veA e.w1)).map fp32.encode)
    let vecs := (List.range (veN e.w0)).map fun i => (fp.drop (i * n)).take n
    [.opnd (256 * veD e.w1) (vecs.flatMap fun l => toLE 4 (treeOf (if veFn e.w0 = 0 then fp32Add else fp32Max) 7 l))]))

/-- VCVT: conversion to the format of DFMT, packed densely at VD (R147). -/
def execVcvt (t : Nat) (s : State) : Host.Outcome State Fault Refusal :=
  .next (s.issue t .ve 0xA (pureAct fun u e =>
    let d := veFn e.w0 % 16
    [.opnd (256 * veD e.w1) (packElems (elemWidth d) (((u.tile t).veSrc e.w0 (veA e.w1)).map (cvt d)))]))

/-! ## Slab rows (R125, R148, R149) -/

/-- The signed value of an accumulator. -/
def Acc.int (a : Acc) : Int := a.a.toInt

/-- A slab accumulator as a floating value (R125): INV, SAT, or A x 2^(WB - 80). -/
def Acc.slabVal (wb : Nat) (a : Acc) : FV :=
  if a.inv then .nan else if a.sat then .inf (decide (a.int < 0))
  else .fin (decide (a.int < 0)) a.int.natAbs ((wb : Int) - 80)

/-- The value of an accumulator of a set: exact in slab mode, FP32 in float mode (R126). -/
def accVal (i : SlabInfo) (a : Acc) : FV := if i.mode = .float then fp32.decode (a.a.toNat % 2 ^ 32) else a.slabVal i.wb

/-- Conversion to an integer target of `w` bits (R149). -/
def accInt (w : Nat) (i : SlabInfo) (a : Acc) : Nat :=
  let low := scode w (-(2 ^ (w - 1)))
  match accVal i a with
  | .nan => low
  | .inf neg => if neg then low else scode w (2 ^ (w - 1) - 1)
  | .fin neg m e => scode w (satInt w (rndInt neg m e))

/-- The bytes of one row of a set as a target of Table 5.8 (R148, R149). -/
def Tile.slabRow (v : Tile) (set row tfmt : Nat) : List Byte :=
  let i := v.info set
  let as := (List.range 64).map fun n => v.acc set row n
  match tfmt with
  | 0 => as.flatMap fun a => toLE 4 (fp32.encode (accVal i a))
  | 1 => as.flatMap fun a => toLE 2 (bf16.encode (accVal i a))
  | 2 => as.flatMap fun a => toLE 2 (fp16.encode (accVal i a))
  | 3 => as.flatMap fun a => toLE 1 (e4m3.encode (accVal i a))
  | 4 => as.flatMap fun a => toLE 4 (accInt 32 i a)
  | 5 => as.flatMap fun a => toLE 1 (accInt 8 i a)
  | 6 => as.flatMap fun a => toLE 8 (a.a.toNat % 2 ^ 64)
  | 7 => as.flatMap fun a => toLE 16 a.a.toNat
  | _ =>
    let bitsOf := fun f : Acc → Bool => (List.range 64).foldl (fun x n => x + put1 (i.mode ≠ .float && f (v.acc set row n)) n) 0
    toLE 8 (bitsOf Acc.sat) ++ toLE 8 (bitsOf Acc.inv)

/-- Rows of a set from a first row on. -/
def Tile.slabBytes (v : Tile) (set row0 rows tfmt : Nat) : List Byte :=
  (List.range rows).flatMap fun i => v.slabRow set (row0 + i) tfmt

/-- VSLB: slab rows into the operand store. -/
def execVslb (t : Nat) (s : State) : Host.Outcome State Fault Refusal :=
  .next (s.issue t .ve 0x10 (pureAct fun u e =>
    [.opnd (256 * veD e.w1) ((u.tile t).slabBytes (slabSet e.w0) (rowZero e.w1) (vslbRows e.w0) (vslbTfmt e.w0))]))

/-- One accumulator of a slab-mode VSLD: a RAW128 value of magnitude 2^112 or more is clamped and sets SAT (R150). -/
def vsldAcc (i : Int) : Acc :=
  if i.natAbs < 2 ^ 112 then { a := BitVec.ofInt 128 i, sat := false, inv := false }
  else { a := BitVec.ofInt 128 (if i < 0 then -(2 ^ 112 - 1) else 2 ^ 112 - 1), sat := true, inv := false }

/-- The accumulators that a VSLD loads (R150). -/
def Tile.vsldAccs (v : Tile) (w0 w1 : Word) : List Acc :=
  let raw64 := vsldRaw64 w0
  let sz := if raw64 then 8 else 16
  let bs := v.opndRd (256 * veD w1) (vslbRows w0 * 64 * sz)
  (List.range (vslbRows w0 * 64)).map fun k =>
    let x := natAt bs (k * sz) sz
    if vsldFloat w0 then { a := BitVec.ofNat 128 (x % 2 ^ 32), sat := false, inv := false }
    else vsldAcc (sval (8 * sz) x)

/-- VSLD: replaces rows of a set; window, mode and depth are checked against the set (R150). -/
def execVsld (t : Nat) (s : State) : Host.Outcome State Fault Refusal :=
  .next (s.issue t .ve 0x11 fun u e =>
    if e.skip then .go u [] 0 else
    let v := u.tile t
    let set := slabSet e.w0
    let i := v.info set
    let wb := vsldWb e.w0
    let mode : SlabMode := if vsldFloat e.w0 then .float else .slab
    let step := if vsldFloat e.w0 then 0 else 1
    let fields := [word set, word i.wb, word i.mode.code, word wb, word mode.code, word i.depth, word (slotOf .ve)]
    if i.mode ≠ .clear ∧ i.wb ≠ wb then .fault 0x09 1 fields
    else if i.mode ≠ .clear ∧ i.mode ≠ mode then .fault 0x09 2 fields
    else if 32768 < i.depth + step then .fault 0x09 3 fields
    else
      let i' : SlabInfo := if i.mode = .clear then { wb := wb, mode := mode, pair := false, depth := step } else { i with depth := i.depth + step }
      .go (u.modTile t fun x => x.setInfo set i') [.slabRows set (rowZero e.w1) (v.vsldAccs e.w0 e.w1)] 0)

/-- VSCLR clears one slab set or both (R123). -/
def execVsclr (t : Nat) (s : State) : Host.Outcome State Fault Refusal :=
  .next (s.issue t .ve 0x12 fun u e =>
    if e.skip then .go u [] 0 else
    let both := flag e.w0 17
    let a0 := both || slabSet e.w0 = 0
    let a1 := both || slabSet e.w0 = 1
    .go (u.modTile t fun x =>
      let x0 := if a0 then x.setInfo 0 SlabInfo.reset else x
      if a1 then x0.setInfo 1 SlabInfo.reset else x0) [.slabClear a0 a1] 0)

end Sys2Proof.Machine
end

