-- ==== Sys2Proof/Machine/Matrix.lean ====
section
/-! DEFINITION. The outer-product engine: operands of a run (R110 to R119, R152), slab and float accumulation (R120 to
R127), the matrix faults (R136), MXR, WARM and MXCFG, and the engine's activity (R130 to R132). -/

namespace Sys2Proof.Machine

/-! ## Reading the operands of a k-step (R113, R118, R129, R152) -/

/-- Bytes of the weight ring from a ring offset, modulo the ring size. -/
def Tile.ringRd (v : Tile) (wbase wblks off n : Nat) : List Byte :=
  (List.range n).map fun i => SMap.get 0 v.opnd (2048 * wbase + (off + i) % (2048 * wblks))

/-- Reads that a run makes: one for each k-step, or two in the 16-bit class, of 32 columns each (R111, R129). -/
def mxHalves (w0 w1 : Word) : Nat := if mxRate (mxAf w0) (mxWf w1) = .sixteen then 2 else 1
def mxReads (w0 w1 : Word) : Nat := mxHalves w0 w1 * mxN w1

/-- The operands that read `i` of a run takes: those of k-step `i`, or in the 16-bit class of the half `i % 2` of k-step `i / 2`. -/
def Tile.readStep (v : Tile) (w0 w1 : Word) (d : DWord) (wbase wblks i : Nat) : KStep :=
  let af := mxAf w0
  let wf := mxWf w1
  let r := mxRate af wf
  let h := mxHalves w0 w1
  let j := i / h
  let n0 := if h = 2 then 32 * (i % 2) else 0
  let cols := 64 / h
  let k := mxK0 d + j
  let aw := elemWidth af
  let ww := elemWidth wf
  let col := v.opndRd (mxAbase d + k * mxCb r af) (mxCb r af)
  let row := v.ringRd wbase wblks (ringOff wf (mxWoff w1) j) (mxRb wf)
  { n0 := n0,
    a := (List.range (mxRows r)).map fun m => elemAt aw col m,
    w := (List.range cols).map fun n => elemAt ww row (n0 + n),
    sa := if elemMx af then (v.opndRd (mxAscale d + (k / 32) * mxRows r) (mxRows r)).map (·.toNat) else [],
    sw := if elemMx wf then (v.ringRd wbase wblks (scaleRowOff wf (mxWoff w1) j + n0) cols).map (·.toNat) else [] }

/-! ## Accumulation -/

/-- An operand of a product with its MX scale, whose value is 1 where the operand is not MX. -/
def scaled (f c : Nat) (x : Option Nat) : FV :=
  match x with
  | none => elemVal f c
  | some e => (elemVal f c).mul (scaleVal e)

/-- A value is a NaN or an infinity. -/
def FV.special : FV → Bool
  | .fin .. => false
  | _ => true

/-- The product of a read at row `m` and its own column `n`: both operands and the product (R110, R121). -/
def KStep.prod (s : KStep) (af wf m n : Nat) : FV × Bool :=
  let a := scaled af (s.a.getD m 0) (s.sa[m]?)
  let w := scaled wf (s.w.getD n 0) (s.sw[n]?)
  (a.mul w, a.special || w.special)

/-- The largest magnitude of a contribution. -/
def slabMax : Nat := 2 ^ 112 - 1

/-- The contribution of a product in a window: truncated toward zero, and clamped with SAT (R121). -/
def contrib (wb : Nat) : FV → Int × Bool
  | .fin neg m e =>
    let d : Int := e - ((wb : Int) - 80)
    let c := if d ≥ 0 then m * 2 ^ d.toNat else m / 2 ^ (-d).toNat
    if slabMax < c then (if neg then -(slabMax : Int) else slabMax, true)
    else (if neg then -(c : Int) else c, false)
  | _ => (0, false)

/-- One k-step of slab mode on an accumulator (R121). -/
def slabStep (wb : Nat) (acc : Acc) (p : FV × Bool) : Acc :=
  if p.2 then { acc with inv := true }
  else
    let c := contrib wb p.1
    { acc with a := acc.a + BitVec.ofInt 128 c.1, sat := acc.sat || c.2 }

/-- One k-step of float mode on an accumulator (R126, R127). -/
def floatStep (acc : Acc) (p : FV × Bool) : Acc :=
  { acc with a := BitVec.ofNat 128 (fp32.encode ((fp32.decode (acc.a.toNat % 2 ^ 32)).add p.1)) }

/-- What one read adds to an accumulator at row `m` and its own column `n`, whose sticky bits are clear. -/
def KStep.addTo (k : KStep) (float : Bool) (wb af wf m n : Nat) (a : BitVec 128) : Acc :=
  let x : Acc := { a := a, sat := false, inv := false }
  if float then floatStep x (k.prod af wf m n) else slabStep wb x (k.prod af wf m n)

/-- The update of one set by a read, whose rows are rows `base` onward of the run: the set after, and whether the read set a SAT and an
INV bit in it (R110, R121). -/
def Tile.stepSet (v : Tile) (set base : Nat) (w0 w1 : Word) (k : KStep) : SMap Acc × Bool × Bool :=
  let cols := k.w.length
  (List.range (64 * cols)).foldl (fun x i =>
    let at' := 64 * (i / cols) + k.n0 + i % cols
    let o := SMap.get Acc.zero x.1 at'
    let r := k.addTo (mxFloat w0) (mxWb w0) (mxAf w0) (mxWf w1) (base + i / cols) (i % cols) o.a
    (SMap.put Acc.zero x.1 at' { a := r.a, sat := o.sat || r.sat, inv := o.inv || r.inv }, x.2.1 || r.sat, x.2.2 || r.inv))
    (v.accs set, false, false)

/-- The sets that a run updates. -/
def mxSets (w0 w1 : Word) : List Nat := if mxRate (mxAf w0) (mxWf w1) = .paired then [0, 1] else [mxSet w0]

/-- The first update of a run with CLR clears its sets, sticky bits among them (R123, R134). -/
def Tile.clearFor (v : Tile) (r : MxRun) : Tile :=
  if mxClr r.w0 && decide (r.upd = 0) then (mxSets r.w0 r.w1).foldl (fun x k => x.setAccs k []) v else v

/-- The update that the oldest read of a run still to be applied makes (R129). TIL_MX_SATOP and TIL_MX_INVOP count a run at its first
SAT and its first INV bit (R135). -/
def Tile.updateRun (v : Tile) (r : MxRun) : Tile × MxRun :=
  match r.ks with
  | [] => (v, r)
  | k :: ks =>
    let v0 := v.clearFor r
    let out := (mxSets r.w0 r.w1).zipIdx.foldl (fun (x : Tile × Bool × Bool) c =>
      let y := x.1.stepSet c.1 (64 * c.2) r.w0 r.w1 k
      (x.1.setAccs c.1 y.1, x.2.1 || y.2.1, x.2.2 || y.2.2)) (v0, false, false)
    let v1 := if out.2.1 && !r.sat then out.1.count .mxSatop 1 else out.1
    let v2 := if out.2.2 && !r.inv then v1.count .mxInvop 1 else v1
    (v2, { r with ks := ks, upd := r.upd + 1, sat := r.sat || out.2.1, inv := r.inv || out.2.2 })

/-- Clock beats from the issue of a run to the update of its read `i`: 13 plan beats after the last read of the read's k-step (R129). -/
def MxRun.updAt (r : MxRun) (scale i : Nat) : Nat :=
  let h := mxHalves r.w0 r.w1
  scale * (i / h * h + (h - 1) + 13)

/-- The updates of a run that are made in clock beats before `b`, at most `n` of them; all that are left where `b` is none. -/
def Tile.updateRuns (v : Tile) (r : MxRun) (scale start : Nat) (b : Option Nat) : Nat → Tile × MxRun
  | 0 => (v, r)
  | n + 1 =>
    if r.ks.isEmpty || (b.any fun x => decide (x ≤ start + r.updAt scale r.upd)) then (v, r)
    else
      let x := v.updateRun r
      Tile.updateRuns x.1 x.2 scale start b n

/-! ## Issue of a run -/

/-- The first byte of a range that lies in the ring or beyond the operand store (R115). -/
def badOperand (off n lo hi : Nat) : Option Nat :=
  let inRing := if off < hi ∧ lo < off + n then some (max off lo) else none
  let past := if 131072 < off + n then some (max off 131072) else none
  match inRing, past with
  | some a, some b => some (min a b)
  | some a, none => some a
  | none, b => b

/-- Fields of a matrix fault: what Table 4.11 lists, and the queue (R163). -/
def mxFields (fs : List Word) : List Word := fs ++ [word (slotOf .mx)]

/-- The matrix fault of an MXR with the lowest cause code, if any, with its fields (Table 4.11). Where both sets of a paired run meet a
cause the record names set 0, and cause 5 names the first bad byte of the columns before one of the scales. DESIGN CHOICE (log entry 100). -/
def Tile.mxrFault (v : Tile) (w0 w1 : Word) (d : DWord) : Option (Nat × List Word) :=
  let n := mxN w1
  let mode : SlabMode := if mxFloat w0 then .float else .slab
  let steps := if mxFloat w0 then 0 else n
  let est := (mxSets w0 w1).filter fun k => !mxClr w0 && decide ((v.info k).mode ≠ .clear)
  let r := mxRate (mxAf w0) (mxWf w1)
  let cb := mxCb r (mxAf w0)
  let lo := 2048 * v.mx.wbase
  let hi := lo + 2048 * v.mx.wblks
  let mx := elemMx (mxAf w0) || elemMx (mxWf w1)
  match est.find? fun k => decide ((v.info k).wb ≠ mxWb w0) with
  | some k => some (1, mxFields [word k, word (v.info k).wb, word (mxWb w0)])
  | none =>
  match est.find? fun k => decide ((v.info k).mode ≠ mode) with
  | some k => some (2, mxFields [word k, word (v.info k).mode.code, word mode.code])
  | none =>
  match (mxSets w0 w1).find? fun k => decide (32768 < (if mxClr w0 then 0 else (v.info k).depth) + steps) with
  | some k => some (3, mxFields [word k, word (v.info k).depth, word n])
  | none =>
  if mx && (decide (mxK0 d ≠ 0) || decide (n % 32 ≠ 0)) then some (4, mxFields [word (mxK0 d), word n])
  else
    match badOperand (mxAbase d + mxK0 d * cb) (n * cb) lo hi with
    | some o => some (5, mxFields [word o, word v.mx.wbase, word v.mx.wblks])
    | none =>
      if elemMx (mxAf w0) then
        match badOperand (mxAscale d) (n / 32 * mxRows r) lo hi with
        | some o => some (5, mxFields [word o, word v.mx.wbase, word v.mx.wblks])
        | none => none
      else none

/-- What the latest issued run leaves established of a set (R122, R123). -/
def SlabInfo.afterRun (i : SlabInfo) (w0 w1 : Word) : SlabInfo :=
  let steps := if mxFloat w0 then 0 else mxN w1
  if mxClr w0 ∨ i.mode = .clear then
    { wb := mxWb w0, mode := if mxFloat w0 then .float else .slab, pair := decide (mxRate (mxAf w0) (mxWf w1) = .paired), depth := steps }
  else { i with depth := i.depth + steps }

/-- 41 tokens of an active beat of a tile (R66): they count in the partition's clock beat, and those of a plan beat in the sum over the
course (R71). -/
def State.mxTokens (s : State) (t b : Nat) (plan : Bool) : State :=
  match s.partOf t with
  | none => s
  | some p => s.modPart p fun y => { y with run := { y.run with
      beatTok := SMap.put 0 y.run.beatTok b (SMap.get 0 y.run.beatTok b + 41), tok := if plan then y.run.tok + 41 else y.run.tok } }

/-- An active beat of the engine (R130), metered (R66). -/
def State.mxBusy (s : State) (t b : Nat) (plan : Bool) : State :=
  (s.modTile t fun x => (x.count .mxActive 1) |> fun y => { y with mx := { y.mx with idle := 0, cold := false } }).mxTokens t b plan

/-- The engine is active for the occupancy of an operation from the beat in progress on (R130). -/
def State.mxActive (s : State) (t occ : Nat) : State :=
  (s.modTile t fun v => { v with mx := { v.mx with ramped := false, busy := v.now + occ } }).mxBusy t (s.tile t).now (s.tile t).tim.plan

/-- MXR: an outer-product run; a skipped one runs on ballast for its beats (R93, R129, R136). -/
def execMxr (t : Nat) (s : State) : Host.Outcome State Fault Refusal :=
  .next (s.issue t .mx 1 fun u e =>
    let occ := s.tscale t * u.occ t .mx e.w0 e.w1
    if e.skip then .go (u.mxActive t occ) [] 0 else
    let v := u.tile t
    let d := v.s (mxAreg e.w1)
    match v.mxrFault e.w0 e.w1 d with
    | some (c, fs) => .fault 0x08 c fs
    | none =>
      let u1 := u.modTile t fun x => (mxSets e.w0 e.w1).foldl (fun y k => y.setInfo k ((y.info k).afterRun e.w0 e.w1)) x
      .go (u1.mxActive t occ)
        [.mxr { w0 := e.w0, w1 := e.w1, d := d, wbase := v.mx.wbase, wblks := v.mx.wblks,
                ks := [v.readStep e.w0 e.w1 d v.mx.wbase v.mx.wblks 0], reads := 1, upd := 0, sat := false, inv := false }] 0)

/-- WARM: the 32-beat ballast ramp leaves the engine warm (R131). -/
def execWarm (t : Nat) (s : State) : Host.Outcome State Fault Refusal :=
  .next (s.issue t .mx 2 fun u e => .go ((u.mxActive t (s.tscale t * u.occ t .mx e.w0 e.w1)).tileCount t .mxWarm 1) [] 0)

/-- A run in flight that reads the ring. -/
def Effect.isRun : Effect → Bool
  | .mxr .. => true
  | _ => false
def Tile.runInFlight (v : Tile) : Bool := v.fly.any fun f => f.eff.any Effect.isRun

/-- MXCFG sets the weight ring; one that names the ring in force changes nothing (R114, R115, R153). A skipped one is no ballast and is not
metered: R130 and R132 make no beat of an MXCFG an active one. DEDUCED (log entry 100). -/
def execMxcfg (t : Nat) (s : State) : Host.Outcome State Fault Refusal :=
  .next (s.issue t .mx 3 fun u e =>
    let v := u.tile t
    let b := mxcfgBase e.w0
    let n := mxcfgBlks e.w0
    if e.skip ∨ (b = v.mx.wbase ∧ n = v.mx.wblks) then .go u [] 0
    else if v.runInFlight then .fault 0x08 6 (mxFields [word v.mx.wbase, word v.mx.wblks, word b, word n])
    else .go u [.ring b n] 0)

/-- After 64 non-active clock beats the engine becomes cold (R130). -/
def execEngineCold (t : Nat) (s : State) : Host.Outcome State Fault Refusal :=
  .next (if 64 ≤ (s.tile t).mx.idle then s.modTile t fun v => { v with mx := { v.mx with cold := true } } else s)

/-- An inserted ramp ends: the engine is warm, and the run issues in the next clock beat (R132). -/
def execInsertedRampEnd (t : Nat) (s : State) : Host.Outcome State Fault Refusal :=
  .next (if (s.tile t).mx.ramp = 1 then
    s.modTile t fun v => { v with mx := { v.mx with ramp := 0, ramped := true, cold := false, idle := 0 } } else s)

end Sys2Proof.Machine
end

