-- ==== Sys2Proof/Machine/OnDie.lean ====
section
/-! DEFINITION. Plan traffic on the die (R47, R159, R231) and the write of a Landing slot (R56 to R60, R64, R269, R501). -/

namespace Sys2Proof.Machine

/-! ## Paths: tiles stand in a 16 x 16 grid, four Rooms of 4 x 4 tiles to a row -/

/-- DESIGN CHOICE (log entry 38). -/
def dieX (phys : Nat) : Nat := 4 * (phys / 16 % 4) + phys % 16 % 4
/-- DESIGN CHOICE (log entry 38). -/
def dieY (phys : Nat) : Nat := 4 * (phys / 64) + phys % 16 / 4

/-- The Doorway from a Room to its neighbour: 0 to 11 eastward, 12 to 23 westward, 24 to 35 southward, 36 to 47 northward.
DESIGN CHOICE (log entry 38). -/
def doorEast (rx ry : Nat) : Nat := 3 * ry + rx
/-- DESIGN CHOICE (log entry 38). -/
def doorWest (rx ry : Nat) : Nat := 12 + 3 * ry + (rx - 1)
/-- DESIGN CHOICE (log entry 38). -/
def doorSouth (rx ry : Nat) : Nat := 24 + 4 * ry + rx
/-- DESIGN CHOICE (log entry 38). -/
def doorNorth (rx ry : Nat) : Nat := 36 + 4 * (ry - 1) + rx

/-- The Rooms that a Doorway joins: source and destination. -/
def doorRooms (d : Nat) : Nat × Nat :=
  if d < 12 then (4 * (d / 3) + d % 3, 4 * (d / 3) + d % 3 + 1)
  else if d < 24 then (4 * ((d - 12) / 3) + (d - 12) % 3 + 1, 4 * ((d - 12) / 3) + (d - 12) % 3)
  else if d < 36 then (d - 24, d - 24 + 4)
  else (d - 36 + 4, d - 36)

/-- One tile step along a row or a column: the Doorway it crosses, if it crosses one. -/
def stepX (x y x' : Nat) : Option Nat :=
  if x / 4 = x' / 4 then none else some (if x < x' then doorEast (x / 4) (y / 4) else doorWest (x / 4) (y / 4))
def stepY (x y y' : Nat) : Option Nat :=
  if y / 4 = y' / 4 then none else some (if y < y' then doorSouth (x / 4) (y / 4) else doorNorth (x / 4) (y / 4))

/-- The steps along a row, and along a column. -/
def stepsX (y : Nat) : Nat → Nat → Nat → List (Option Nat)
  | 0, _, _ => []
  | n + 1, x, x' => if x = x' then [] else
    let nx := if x < x' then x + 1 else x - 1
    stepX x y nx :: stepsX y n nx x'
def stepsY (x : Nat) : Nat → Nat → Nat → List (Option Nat)
  | 0, _, _ => []
  | n + 1, y, y' => if y = y' then [] else
    let ny := if y < y' then y + 1 else y - 1
    stepY x y ny :: stepsY x n ny y'

/-- The steps of a path between physical tiles: row-first, or column-first (R47). -/
def pathSteps (colFirst : Bool) (src dst : Nat) : List (Option Nat) :=
  let x := dieX src
  let y := dieY src
  let x' := dieX dst
  let y' := dieY dst
  if colFirst then stepsY x 16 y y' ++ stepsX y' 16 x x' else stepsX y 16 x x' ++ stepsY x' 16 y y'

/-- Doorways with the beats up to each destination beat, and the beats after the last: 2 b a tile hop, 9 b a Doorway. DESIGN CHOICE (log entry 38). -/
def travelOf : Nat → List (Option Nat) → List (Nat × Nat) × Nat
  | acc, [] => ([], acc)
  | acc, none :: r => travelOf (acc + 2) r
  | acc, some d :: r => let x := travelOf 0 r; ((d, acc + 9) :: x.1, x.2)

/-- Hops that cross no Doorway, Doorways crossed and total of a path (R47). DESIGN CHOICE (log entry 38). -/
def pathTotal (colFirst : Bool) (src dst : Nat) : Nat × Nat × Nat :=
  let st := pathSteps colFirst src dst
  let x := travelOf 0 st
  (st.length - x.1.length, x.1.length, x.1.foldl (fun n d => n + d.2) x.2)

/-- The word of the travel table for a path (Table 19.6): BEATS is 0xFFF where it crosses an unusable Doorway (R233). -/
def pathWord (bad : List Nat) (colFirst : Bool) (src dst : Nat) : Word :=
  let x := pathTotal colFirst src dst
  let shut := (pathSteps colFirst src dst).any fun d => d.any bad.contains
  word (x.1 + x.2.1 * 2 ^ 8 + (if shut then 0xFFF else x.2.2) * 2 ^ 12)

/-! ## Beat numbers (R224) -/

/-- BN_p of a Room's beat in progress. -/
def Room.bn (r : Room) (p : Nat) : Nat := r.clk - 1 - SMap.get 0 r.bn0 p

/-- The beat count by which a partition's on-die travel runs in a Room: BN_p, or a tile's plan beats under the hazard
detector (R47, R63). -/
def State.bnAt (s : State) (p room t : Nat) : Nat :=
  if (s.part p).run.hzd then (s.tile t).tim.beat - 1 else (s.room room).bn p
def State.crsAt (s : State) (p room t : Nat) : Nat :=
  if (s.part p).run.hzd then (s.tile t).tim.course else SMap.get 0 (s.room room).crs p

/-- The partition has begun a later course in a Room than the one in which a word was sent: the word's step falls on BN 0 of that
course (R231). DEDUCED (log entry 39). -/
def State.carried (s : State) (o : OnDie) (room t : Nat) : Bool := decide (o.course < s.crsAt o.part room t)

/-- A step of a slot is due in a Room: its beat has come, or the Room has started a later course (R231). DEDUCED (log entry 39). -/
def State.stepDue (s : State) (o : OnDie) (room t : Nat) : Bool :=
  s.carried o room t || (decide (o.course = s.crsAt o.part room t) && decide (o.due ≤ s.bnAt o.part room t))

/-! ## Sending -/

/-- R353: a template's epoch takes bit 0 of the step number in bit 7. -/
def State.epochOf (s : State) (t ep : Nat) (par : Bool) : Nat :=
  if (s.planOf t).any fun pl => pl.serv.isSome then ep % 128 + put1 par 7 else ep

/-- Slot `i` of an STN is read from the operand store and sent in the beat in progress (R47, R159). -/
def State.stnSend (s : State) (t : Nat) (w0 w1 : Word) (i epoch : Nat) : State :=
  match s.partOf t, s.planOf t with
  | some p, some pl =>
    let col := (pl.path t (stnPath w0)).getD false
    let dst := stnTile w0
    let tr := travelOf 0 (pathSteps col (s.physTile t) (s.physTile dst))
    let m := s.bnAt p (s.roomOf t) t
    let o : OnDie :=
      { src := t, dst := dst, slot := stnSlot w1 + i, epoch := epoch, part := p,
        data := (s.tile t).opndRd (256 * (stnSrc w1 + i)) 256, doors := tr.1,
        due := m + (match tr.1 with
          | [] => tr.2
          | d :: _ => d.2),
        rest := tr.2, course := s.crsAt p (s.roomOf t) t }
    s.modFab fun f => { f with onDie := f.onDie ++ [o] }
  | _, _ => s

/-! ## Landing -/

/-- A tag of a tile. -/
def Tile.tagOf (v : Tile) (slot : Nat) : Nat := (SMap.get 0 v.tags slot).toNat

/-- The hazard detector records a hazard (R64); with HALT it stops the partition's plan at the first. -/
def State.hazard (s : State) (p : Nat) (h : HzdRec) : State :=
  let s1 := s.modDev fun d =>
    let l := d.hzdRecs ++ [h]
    if 4096 < l.length then { d with hzdRecs := l.drop 1, hzdLost := satAdd 32 d.hzdLost 1 } else { d with hzdRecs := l }
  if (s.part p).run.hzdStop && s.running p && !(s.part p).run.halted then
    (s1.haltPart p).modPart p fun v => { v with run := { v.run with hzdHalted := true } }
  else s1

/-- The detector's view of a landing write, and of a read (R64): the landing that the plan declares for a read is known by its epoch.
DESIGN CHOICE (log entry 60). -/
def State.hzdWrite (s : State) (p t slot ep : Nat) : State :=
  if !(s.part p).run.hzd then s else
  let k := 256 * t + slot
  let o := SMap.get HzdSlot.reset s.dev.hzdSlots k
  let b := (s.tile t).tim.beat - 1
  let s1 := s.modDev fun d => { d with hzdSlots := SMap.put HzdSlot.reset d.hzdSlots k { ep := ep, beat := b, seen := false, reads := [] } }
  if o.seen then s1
  else s1.hazard p { tile := t, slot := slot, ep0 := o.ep, ep1 := ep, beat0 := o.beat, beat1 := b, course := (s.tile t).tim.course - 1, iaddr := 0 }
/-- DESIGN CHOICE (log entry 60). -/
def State.hzdRead (s : State) (p t slot ep iaddr : Nat) : State :=
  if !(s.part p).run.hzd then s else
  let k := 256 * t + slot
  let o := SMap.get HzdSlot.reset s.dev.hzdSlots k
  let b := (s.tile t).tim.beat - 1
  let s1 := s.modDev fun d => { d with hzdSlots := SMap.put HzdSlot.reset d.hzdSlots k { o with seen := true, reads := o.reads ++ [b] } }
  if (s.tile t).tagOf slot = ep then s1
  else s1.hazard p { tile := t, slot := slot, ep0 := (s.tile t).tagOf slot, ep1 := ep, beat0 := o.beat, beat1 := b, course := (s.tile t).tim.course - 1, iaddr := iaddr }

/-- A landed slot becomes readable: its bytes and its tag, which are free of error (R48, R57, R184). -/
def State.landNow (s : State) (t : Nat) (e : LandEnt) : State :=
  let s1 := s.wr (loftAddr t (0xF0000 + 256 * e.slot)) e.data
  let s2 := s1.modTile t fun v => { v with tags := SMap.put 0 v.tags e.slot (byte e.epoch) }
  s2.modDev fun d => { d with badTag := d.badTag.filter (fun x => decide (x ≠ (t, e.slot))), softTag := d.softTag.filter fun x => decide (x ≠ (t, e.slot)) }

/-- The landings written in clock beats of a tile's Room before beat `b` become readable (R48). -/
def State.landUpTo (s : State) (t b : Nat) : State :=
  (s.tile t).lands.foldl (fun u e => if e.beat < b then u.landNow t e else u)
    (s.modTile t fun v => { v with lands := v.lands.filter fun e => decide (b ≤ e.beat) })

/-- The device as a service read of a Loft finds it: every landing written in an earlier beat of the Room is readable. -/
def State.landView (s : State) (t : Nat) : State := s.landUpTo t ((s.room (s.roomOf t)).clk - 1)

/-- A slot of plan traffic arrives at a Landing in clock beat `w` of the tile's Room: dropped for a tile of another partition (R159,
R269) or a halted one (R501), and otherwise written with its tag (R57), readable from the next beat (R48). -/
def State.landSlot (s : State) (p t slot epoch w : Nat) (data : List Byte) : State :=
  if s.owner 0 t ≠ some p then s.devCount .xpartMem 1
  else if (s.part p).run.halted then s.modPart p fun v => { v with flt := { v.flt with haltDrop := satAdd 48 v.flt.haltDrop 1 } }
  else
    let s1 := (s.hzdWrite p t slot epoch).modTile t fun v =>
      { v with lands := v.lands ++ [{ beat := w, slot := slot, epoch := epoch, data := data }] }
    s1.landUpTo t (s1.tile t).now

/-- Take the first element that meets a condition out of a list. -/
def takeFirst {α : Type} (f : α → Bool) : List α → Option (α × List α)
  | [] => none
  | a :: r => if f a then some (a, r) else (takeFirst f r).map fun x => (x.1, a :: x.2)

/-- BN_p in which the next step of a word takes place (R231). -/
def State.stepBn (s : State) (o : OnDie) (room t : Nat) : Nat := if s.carried o room t then 0 else o.due

/-- DOORWAY_WORD_WRITE: the word held at a Doorway is written in its destination beat; a parity failure writes it
nevertheless and raises a Doorway fault against the partition of the destination tile (R231, R234). DEDUCED (log entry 39). -/
def execDoorwayWordWrite (door : Nat) (parityOk : Bool) (s : State) : Host.Outcome State Fault Refusal :=
  let room := (doorRooms door).2
  .next (match takeFirst (fun o : OnDie => (o.doors.head?.any fun d => d.1 = door) && s.stepDue o room o.dst) s.fab.onDie with
    | none => s
    | some (o, rest) =>
      let doors := o.doors.drop 1
      let bn := s.stepBn o room o.dst
      let o' : OnDie := { o with doors := doors, course := s.crsAt o.part room o.dst, due := bn + (match doors with
        | [] => o.rest
        | d :: _ => d.2) }
      let s1 := s.modFab fun f => { f with onDie := rest ++ [o'] }
      if parityOk then s1
      else
        let f := FInfo.dev 0x0E 0 [word door, word (o.due - 9), word bn]
        let v := s1.part o.part
        let f' : FInfo := { f with course := if v.run.course = 0 then none else some (v.run.course - 1) }
        let s2 := match s1.owner 0 o.dst with
          | some p => s1.raise p f'
          | none => s1
        s2.askTest 4 door)

/-- The clock beat of a Room that is beat `bn` of a partition; under the hazard detector the tile's own beat in progress (R63). -/
def State.beatAt (s : State) (p t bn : Nat) : Nat :=
  if (s.part p).run.hzd then (s.tile t).now else SMap.get 0 (s.room (s.roomOf t)).bn0 p + bn

/-- ON_DIE_LANDING_WRITE: a slot sent by STN is written with its tag in the receiving Room's beat (R47, R159). DEDUCED (log entry 39). -/
def execOnDieLandingWrite (t : Nat) (s : State) : Host.Outcome State Fault Refusal :=
  .next (match takeFirst (fun o : OnDie => decide (o.dst = t) && o.doors.isEmpty && s.stepDue o (s.roomOf t) t) s.fab.onDie with
    | none => s
    | some (o, rest) =>
      (s.modFab fun f => { f with onDie := rest }).landSlot o.part t o.slot o.epoch (s.beatAt o.part t (s.stepBn o (s.roomOf t) t)) o.data)

end Sys2Proof.Machine
end

