-- ==== Sys2Proof/Machine/Scalar.lean ====
section
/-! DEFINITION. Scalar operations and the timing-control operations of the SC slot (R139 to R142, R86, R94, R96). -/

namespace Sys2Proof.Machine

/-- Destination, and operands a and b of a scalar operation (Table 5.2). -/
def scD (e : QEntry) : Nat := fld e.w0 16 4
def Tile.scA (v : Tile) (e : QEntry) : DWord := v.s (fld e.w0 20 4)
def Tile.scB (v : Tile) (e : QEntry) : DWord := if flag e.w0 28 then e.w1.signExtend 64 else v.s (fld e.w0 24 4)

/-- A scalar operation that writes a function of a and b to its destination. -/
def State.scOp (s : State) (t op : Nat) (f : DWord → DWord → DWord) : State :=
  s.issue t .sc op (pureAct fun u e => [.sreg (scD e) (f ((u.tile t).scA e) ((u.tile t).scB e))])

/-- SNOP has no effect (R138). -/
def execSnop (t : Nat) (s : State) : Host.Outcome State Fault Refusal := .next (s.issue t .sc 0 (pureAct fun _ _ => []))
/-- LI: sd = sign-extended imm32. -/
def execLi (t : Nat) (s : State) : Host.Outcome State Fault Refusal :=
  .next (s.issue t .sc 1 (pureAct fun _ e => [.sreg (scD e) (e.w1.signExtend 64)]))
/-- LIH: sd[63:32] = imm32; sd[31:0] kept. -/
def execLih (t : Nat) (s : State) : Host.Outcome State Fault Refusal :=
  .next (s.issue t .sc 2 (pureAct fun u e =>
    [.sreg (scD e) (e.w1 ++ ((u.tile t).s (scD e)).extractLsb' 0 32)]))
/-- ADD and SUB work modulo 2^64 (R140). -/
def execAdd (t : Nat) (s : State) : Host.Outcome State Fault Refusal := .next (s.scOp t 3 (· + ·))
def execSub (t : Nat) (s : State) : Host.Outcome State Fault Refusal := .next (s.scOp t 4 (· - ·))
/-- AND, OR, XOR. -/
def execAnd (t : Nat) (s : State) : Host.Outcome State Fault Refusal := .next (s.scOp t 5 (· &&& ·))
def execOr (t : Nat) (s : State) : Host.Outcome State Fault Refusal := .next (s.scOp t 6 (· ||| ·))
def execXor (t : Nat) (s : State) : Host.Outcome State Fault Refusal := .next (s.scOp t 7 (· ^^^ ·))
/-- SHL, SHR and SAR shift by b[5:0]; SHR fills with 0, SAR with bit 63 (R140). -/
def execShl (t : Nat) (s : State) : Host.Outcome State Fault Refusal := .next (s.scOp t 8 fun a b => a <<< (b.toNat % 64))
def execShr (t : Nat) (s : State) : Host.Outcome State Fault Refusal := .next (s.scOp t 9 fun a b => a >>> (b.toNat % 64))
def execSar (t : Nat) (s : State) : Host.Outcome State Fault Refusal :=
  .next (s.scOp t 0xA fun a b => a.sshiftRight (b.toNat % 64))
/-- MUL gives the low 64 bits of the product, 3 b after issue (R138, R140). -/
def execMul (t : Nat) (s : State) : Host.Outcome State Fault Refusal := .next (s.scOp t 0xB (· * ·))
/-- SETP: pd = COND(a, b). -/
def execSetp (t : Nat) (s : State) : Host.Outcome State Fault Refusal :=
  .next (s.issue t .sc 0xC (pureAct fun u e =>
    [.pred (scD e) (setpCond (fld e.w0 29 3) ((u.tile t).scA e) ((u.tile t).scB e))]))
/-- PLOG: pd = pa op pb. -/
def execPlog (t : Nat) (s : State) : Host.Outcome State Fault Refusal :=
  .next (s.issue t .sc 0xD (pureAct fun u e =>
    let p := (u.tile t).pred
    [.pred (scD e) (plogComb (fld e.w0 29 3) (flag16 p (fld e.w0 20 4)) (flag16 p (fld e.w0 24 4)))]))

/-! ## Timing control: the effect comes at decode, and the entry then issues with no other effect (R86) -/

/-- The timing-control operation whose effect comes next, if it is the one named. -/
def Tile.tcDue (v : Tile) (q : Queue) (op : Nat) : Option QEntry :=
  match v.fe.tcs with
  | (q', e) :: _ => if q' = q ∧ opcode e.w0 = op then some e else none
  | [] => none

/-- Apply the effect that is due, or issue the queue's entry. -/
def State.tcOp (s : State) (t op : Nat) (f : Tile → QEntry → Tile) : State :=
  match (s.tile t).tcDue .sc op with
  | some e => s.modTile t fun v => f { v with fe := { v.fe with tcs := v.fe.tcs.drop 1 } } e
  | none => s.issue t .sc op (pureAct fun _ _ => [])

/-- LOOP opens a counted loop over the next B words, or passes over them when the counter is 0 (R96, R99, R142). -/
def execLoop (t : Nat) (s : State) : Host.Outcome State Fault Refusal :=
  .next (s.tcOp t 0x10 fun v e => v.openLoop (fld e.w0 16 3) (fld e.w0 19 12 + 1) e.skip)
/-- CNTI loads a counter with a 32-bit immediate, in a skipped word too (R93, R96). -/
def execCnti (t : Nat) (s : State) : Host.Outcome State Fault Refusal :=
  .next (s.tcOp t 0x11 fun v e => v.setCnt (fld e.w0 16 3) e.w1)
/-- CMPC configures or disables a comparator; a disabled one drives 0 (R94, R142). -/
def execCmpc (t : Nat) (s : State) : Host.Outcome State Fault Refusal :=
  .next (s.tcOp t 0x12 fun v e =>
    let i := fld e.w0 16 2
    let en := flag e.w0 23
    let v1 := { v with cmp := SMap.put Cmp.reset v.cmp i { en := en, cnt := fld e.w0 18 3, cond := fld e.w0 21 2, ref := e.w1 } }
    if en then v1 else { v1 with pred := setFlag16 v1.pred (12 + i) false })

end Sys2Proof.Machine
end

