-- ==== Sys2Proof/Machine/LoadStore.lean ====
section
/-! DEFINITION. Loads and stores of a tile (R154 to R160), the digest path of stores (R439), and the operations FETCH, STN
and STD that act on the instruction cache, the die and the ports. -/

namespace Sys2Proof.Machine

/-! ## Access checks and fault records (R155, R163) -/

/-- Fields of an access fault: operation, computed address, queue; CAUSE carries the cause. -/
def accessFields (q : Queue) (w0 : Word) (addr : Nat) : List Word :=
  [word (opcode w0), 0] ++ lohi addr ++ [word (slotOf q)]

/-- The cause of an access fault of a Loft range: misaligned, Landing (where it may not be touched), wrap. A range that passes 0xF_FFFF
touches the Landing too, and its cause is wrap: else cause 0x3 could never stand in the record of an LDL or an LDS. DESIGN CHOICE (log entry 37). -/
def loftFault (off n align : Nat) (landing : Bool) : Option Nat :=
  if off % align ≠ 0 then some 1
  else if landing && inLanding off n && decide (off + n ≤ 2 ^ 20) then some 2
  else if 2 ^ 20 < off + n then some 3
  else none

/-- Fields of an uncorrectable Loft word or tag: queue, Loft offset, 0 for data or 1 for a tag. DESIGN CHOICE (log entry 37). -/
def loftBadFields (q : Queue) (off kind : Nat) : List Word := [word (slotOf q), word off, word kind]

/-- A read corrects the words that hold a single-bit error: each is counted, waits to be written back, and asks for the test
of its Loft row (R184, R508). -/
def State.loftSoft (s : State) (t off n : Nat) : State :=
  let a := loftAddr t off
  (s.dev.soft.filter fun x => decide (a ≤ x ∧ x < a + n)).foldl (fun u x =>
    let o := x - loftAddr t 0
    (u.modTile t fun v => ({ v with wback := v.wback ++ [(o, u.rdW x)] }).count .loftCe 1).askTest 0 (loftRow t o)) s

/-- A read corrects the arrival tags of slots that hold a single-bit error: each is counted, and is stored anew (R184). -/
def State.tagSoft (s : State) (t slot n : Nat) : State :=
  let hit := fun x : Nat × Nat => decide (x.1 = t ∧ slot ≤ x.2 ∧ x.2 < slot + n)
  (s.dev.softTag.filter hit).foldl (fun u x => (u.tileCount t .loftCe 1).askTest 0 (loftRow t (0xF0000 + 256 * x.2)))
    (s.modDev fun d => { d with softTag := d.softTag.filter fun x => !hit x })

/-- What reading the data and the tags of slots corrects. -/
def State.slotSoft (s : State) (t slot n : Nat) : State := (s.loftSoft t (0xF0000 + 256 * slot) (256 * n)).tagSoft t slot n

/-- A load from the own Loft: access checks, uncorrectable words (R185), and what it makes visible. -/
def State.loftLoad (s : State) (t : Nat) (e : QEntry) (off n align : Nat) (f : List Byte → List Effect) : Act :=
  match loftFault off n align true with
  | some c => .fault 0x0A c (accessFields .ld e.w0 off)
  | none =>
    match s.badIn (loftAddr t off) n with
    | some a => .fault 0x0B 1 (loftBadFields .ld (a - loftAddr t 0) 0)
    | none => .go (s.loftSoft t off n) (f (s.rd (loftAddr t off) n)) 0

/-- The LD queue reads the Loft for the beats of an occupancy (R167, R329). -/
def Act.loftBusy (a : Act) (t occ : Nat) : Act :=
  match a with
  | .go s eff need => .go (s.modTile t fun v => { v with loftRd := v.now + occ }) eff need
  | x => x

/-! ## Loads -/

/-- LDL: Loft to operand store. -/
def execLdl (t : Nat) (s : State) : Host.Outcome State Fault Refusal :=
  .next (s.issue t .ld 1 fun u e =>
    if e.skip then .go u [] 0 else
    (u.loftLoad t e ((u.tile t).loftOff (lsAreg e.w0) (offBytes e.w1)) (256 * ldlL e.w0) 256
      fun bs => [.opnd (256 * osUnit e.w1) bs]).loftBusy t (u.occ t .ld e.w0 e.w1))

/-- LDS: Loft to scalar register. -/
def execLds (t : Nat) (s : State) : Host.Outcome State Fault Refusal :=
  .next (s.issue t .ld 4 fun u e =>
    if e.skip then .go u [] 0 else
    (u.loftLoad t e ((u.tile t).loftOffS (ldsAreg e.w0) e.w1) 8 8 fun bs => [.sreg (ldsD e.w0) (dword (leNat bs))]).loftBusy t 1)

/-- Read Landing slots with their tags: the data, or the fault (R58, R157, R185). -/
def State.readSlots (s : State) (t slot n epoch : Nat) : Sum (Nat × Nat × List Word) (List Byte) :=
  let sl := (List.range n).map fun i => slot + i
  match sl.find? fun k => s.dev.badTag.contains (t, k) with
  | some k => .inl (0x0B, 1, loftBadFields .ld (0xF0000 + 256 * k) 1)
  | none =>
    match sl.find? fun k => decide ((s.tile t).tagOf k ≠ epoch) with
    | some k => .inl (0x03, 0, [word k, word epoch, word ((s.tile t).tagOf k), word (slotOf .ld)])
    | none =>
      match s.badIn (loftAddr t (0xF0000 + 256 * slot)) (256 * n) with
      | some a => .inl (0x0B, 1, loftBadFields .ld (a - loftAddr t 0) 0)
      | none => .inr (s.rd (loftAddr t (0xF0000 + 256 * slot)) (256 * n))

/-- The detector sees the reads of slots. -/
def State.hzdReads (s : State) (t slot n epoch iaddr : Nat) : State :=
  match s.partOf t with
  | none => s
  | some p => (List.range n).foldl (fun u i => u.hzdRead p t (slot + i) epoch iaddr) s

/-- LDG: reads Landing slots, two a beat, and checks their tags (R157). -/
def execLdg (t : Nat) (s : State) : Host.Outcome State Fault Refusal :=
  .next (s.issue t .ld 2 fun u e =>
    if e.skip then .go u [] 0 else
    let ep := u.epochOf t (ldgEpoch e.w1) e.par
    let n := ldgN e.w0
    let n0 := min 2 n
    let u1 := u.hzdReads t (ldgSlot e.w0) n0 ep e.iaddr
    match u1.readSlots t (ldgSlot e.w0) n0 ep with
    | .inl (cls, c, fs) => .fault cls c fs
    | .inr bs =>
      let rest := if 2 < n then [Effect.ldgRest (ldgSlot e.w0 + 2) (n - 2) ep (256 * (ldgDst e.w1 + 2))] else []
      (Act.go (u1.slotSoft t (ldgSlot e.w0) n0) ([.opnd (256 * ldgDst e.w1) bs] ++ rest) 0).loftBusy t (u.occ t .ld e.w0 e.w1))

/-- The scalar result of INC: a write of s[AREG] with a latency of 1 b of its own (R156). -/
def Tile.ldmIncr (v : Tile) (e : QEntry) (lat : Nat) (x : DWord) : Tile :=
  let f : Flight :=
    { id := 2 ^ 64, q := .ld, start := v.now, due := v.now + lat, set := none, iaddr := e.iaddr, slab := [], blks := [],
      sregs := [lsAreg e.w0], preds := [], need := 0, eff := [.sreg (lsAreg e.w0) x] }
  { v with fly := f :: v.fly }

/-- Blocks that the partition does not own are counted (R193). -/
def State.countForeign (s : State) (n : Nat) : State := if n = 0 then s else s.devCount .xpartMem n

/-- The parts of a Loft write that do not lie in the Landing; the drop is counted (R77). -/
def loftParts (t off : Nat) (bs : List Byte) : List Effect :=
  let k := 0xF0000 - off
  if bs.length ≤ k then [.mem (loftAddr t off) bs] else if k = 0 then [] else [.mem (loftAddr t off) (bs.take k)]
def State.countLanding (s : State) (t off n : Nat) : State := if inLanding off n then s.tileCount t .lndWdrop 1 else s

/-- LDM: Marl blocks to the operand store or the Loft; INC is a scalar result of latency 1 b (R156). -/
def execLdm (t : Nat) (s : State) : Host.Outcome State Fault Refusal :=
  .next (s.issue t .ld 3 fun u e =>
    if e.skip then .go u [] 0 else
    let v := u.tile t
    let a := v.marlAddr (lsAreg e.w0) (lsmOff e.w1)
    let n := lsmL e.w0
    match u.marlFault a n with
    | some c => .fault 0x0A c (accessFields .ld e.w0 a)
    | none =>
      let dst := fun i => 256 * (lsmUnit e.w1 + i)
      let (own, oth) := (List.range n).partition fun i => u.blkOwned t (a + 256 * i)
      let how := fun i => if lsmSel e.w0 then BlkOp.rdLoft (dst i) else BlkOp.rdOpnd (dst i)
      let blks : List Blk := own.map fun i => { addr := a + 256 * i, tile := t, fly := v.nextId, op := how i }
      let eff := oth.flatMap fun i => if lsmSel e.w0 then loftParts t (dst i) (zeros 256) else [Effect.opnd (dst i) (zeros 256)]
      let u0 := (u.pushBlks blks).countForeign oth.length
      let u1 := if lsmSel e.w0 then oth.foldl (fun w i => w.countLanding t (dst i) 256) u0 else u0
      let u2 := if ldmInc e.w0 then u1.modTile t fun x => x.ldmIncr e (u.tscale t) (v.s (lsAreg e.w0) + dword (256 * n)) else u1
      .go u2 eff blks.length)

/-- A line other than `l` of the set of `l` that a FETCH in flight locks, with its end course. -/
def Effect.lockIn (x : Effect) (l : Nat) : Option (Nat × Nat) :=
  match x with
  | .lines b k (some c) => (List.range k).findSome? fun i => if icSet (b + i) = icSet l ∧ b + i ≠ l then some (b + i, c) else none
  | _ => none

/-- FETCH: at its decode the lines that are not resident are requested; at its issue its lines are locked (R101, R102). DEDUCED (log entry 35). -/
def execFetch (t : Nat) (s : State) : Host.Outcome State Fault Refusal :=
  .next (match (s.tile t).tcDue .ld 5 with
    | some e =>
      let s1 := s.modTile t fun v => { v with fe := { v.fe with tcs := v.fe.tcs.drop 1 } }
      if (s.marlFault e.aux.toNat (fetchN e.w0)).isSome then s1
      else (List.range (fetchN e.w0)).foldl (fun u i => u.fetchLine t (e.aux.toNat / 256 + i)) s1
    | none => s.issue t .ld 5 fun u e =>
      let a := e.aux.toNat
      let n := fetchN e.w0
      match u.marlFault a n with
      | some c => .fault 0x0A c (accessFields .ld e.w0 a)
      | none =>
        let lines := (List.range n).map fun i => a / 256 + i
        let lock := if fetchLock e.w0 then some ((u.tile t).tim.course - 1 + fetchDelta e.w0) else none
        let v := u.tile t
        let other := fun l : Nat => match v.icLocked (icSet l) with
          | some x => if x.line ≠ l then some (x.line, x.lock.getD 0) else none
          | none => v.fly.findSome? fun (f : Flight) => f.eff.findSome? fun (x : Effect) => x.lockIn l
        match (if lock.isSome then lines.findSome? fun l => (other l).map fun x => (l, x) else none) with
        | some (l, x) => .fault 0x07 0 ([word (icSet l), 0] ++ lohi (256 * x.1) ++ [word x.2])
        | none =>
          let u1 := lines.foldl (fun (w : State) l => w.fetchLine t l) u
          let u2 := u1.modTile t fun x => lines.foldl (fun y l => if y.resident l then y.icFill l [] lock else y) x
          .go u2 [.lines (a / 256) n lock] ((lines.filter fun l => !(u2.tile t).resident l).length))

/-! ## The digest path (R439, R160) -/

/-- The digest list of a tile and the shape of the step in progress. -/
def State.digList (s : State) (t : Nat) : List (Nat × Nat) :=
  match s.partOf t with
  | none => []
  | some p =>
    let v := s.part p
    match v.plan with
    | none => []
    | some pl => ((pl.digs.find? fun d => decide (d.tile = t ∧ d.shape = v.run.shape)).map (·.ents)).getD []

/-- The hash of a canonical chunk (R439). -/
def chunkHash (k l i : Nat) (c : List Byte) : BitVec 128 := digest128 (toLE 8 k ++ toLE 2 l ++ toLE 6 i ++ c)

/-- Where a tile keeps its partial of layer `l` of step `k`: a step stays open until it is closed (R440). -/
def digKey (k l : Nat) : Nat := l + 4096 * k

/-- Add a store's chunks to the tile's partials. -/
def Tile.digestChunks (v : Tile) (k l : Nat) : Nat → List (List Byte) → Tile
  | _, [] => v
  | i, c :: r =>
    let h := chunkHash k l i c
    Tile.digestChunks { v with digSum := SMap.put 0 v.digSum (digKey k l) (SMap.get 0 v.digSum (digKey k l) + h),
                               digCnt := SMap.put 0 v.digCnt (digKey k l) (SMap.get 0 v.digCnt (digKey k l) + 1),
                               digCourse := v.digCourse + h } k l (i + 1) r

/-- What a store with DIG = 1 does to its digest list: the fault, or the tile after. `n` is the store's byte count; a skipped
store consumes its entry and digests nothing, and none is digested while EN of SRV_LDIG_CTL is 0 (Table 15.6). -/
def State.digStore (s : State) (t : Nat) (skip : Bool) (n : Nat) (bs : List Byte) : Sum (Nat × List Word) State :=
  let v := s.tile t
  match (s.digList t)[v.digI]? with
  | none => .inl (1, [word v.digI])
  | some (l, coff) =>
    if n % 64 ≠ 0 then .inl (2, [word v.digI])
    else
      let (k, en) := match s.partOf t with
        | some p => ((s.part p).run.step, (s.part p).aud.en)
        | none => (0, false)
      .inr (s.modTile t fun x =>
        let y := { x with digI := x.digI + 1 }
        if skip || !en then y else y.digestChunks k l coff (chunks 64 (n / 64) bs))

/-- The digest part of a store, before its access checks: fault, or go on. -/
def State.withDig (s : State) (t : Nat) (dig skip : Bool) (n : Nat) (bs : List Byte) (go : State → Act) : Act :=
  if !dig then go s
  else match s.digStore t skip n bs with
    | .inl (c, fs) => .fault 0x1A c fs
    | .inr s1 => go s1

/-! ## Stores -/

/-- A store to the own Loft of bytes taken at issue. -/
def State.loftStore (s : State) (t : Nat) (e : QEntry) (off align : Nat) (bs : List Byte) : Act :=
  match loftFault off bs.length align false with
  | some c => .fault 0x0A c (accessFields .st e.w0 off)
  | none => .go (s.countLanding t off bs.length) (loftParts t off bs) 0

/-- STL: operand store to Loft. -/
def execStl (t : Nat) (s : State) : Host.Outcome State Fault Refusal :=
  .next (s.issue t .st 1 fun u e =>
    let v := u.tile t
    let n := 256 * ldlL e.w0
    let bs := v.opndRd (256 * osUnit e.w1) n
    u.withDig t (stlDig e.w0) e.skip n bs fun w =>
      if e.skip then .go w [] 0 else w.loftStore t e (v.loftOff (lsAreg e.w0) (offBytes e.w1)) 256 bs)

/-- STA: slab rows to Loft. -/
def execSta (t : Nat) (s : State) : Host.Outcome State Fault Refusal :=
  .next (s.issue t .st 2 fun u e =>
    let v := u.tile t
    let n := staRows e.w0 * tfmtBytes (staTfmt e.w0)
    let bs := v.slabBytes (slabSet e.w0) (staRow0 e.w1) (staRows e.w0) (staTfmt e.w0)
    u.withDig t (staDig e.w0) e.skip n bs fun w =>
      if e.skip then .go w [] 0 else w.loftStore t e (v.loftOff (staAreg e.w0) (offBytes e.w1)) 256 bs)

/-- STS: scalar register to Loft. -/
def execSts (t : Nat) (s : State) : Host.Outcome State Fault Refusal :=
  .next (s.issue t .st 6 fun u e =>
    if e.skip then .go u [] 0 else
    let v := u.tile t
    u.loftStore t e (v.loftOffS (ldsAreg e.w0) e.w1) 8 (toLE 8 (v.s (fld e.w0 16 4)).toNat))

/-- STM: operand store or Loft to Marl; a write to memory that the partition does not own is ignored (R155, R156). -/
def execStm (t : Nat) (s : State) : Host.Outcome State Fault Refusal :=
  .next (s.issue t .st 5 fun u e =>
    let v := u.tile t
    let n := lsmL e.w0
    let src := 256 * lsmUnit e.w1
    let bs := if lsmSel e.w0 then u.rd (loftAddr t src) (256 * n) else v.opndRd src (256 * n)
    u.withDig t (stmDig e.w0) e.skip (256 * n) bs fun w =>
      if e.skip then .go w [] 0 else
      let a := v.marlAddr (lsAreg e.w0) (lsmOff e.w1)
      match w.marlFault a n with
      | some c => .fault 0x0A c (accessFields .st e.w0 a)
      | none =>
        match (if lsmSel e.w0 then w.badIn (loftAddr t src) (256 * n) else none) with
        | some x => .fault 0x0B 1 (loftBadFields .st (x - loftAddr t 0) 0)
        | none =>
          let (own, oth) := (List.range n).partition fun i => w.blkOwned t (a + 256 * i)
          let blks : List Blk := own.map fun i => { addr := a + 256 * i, tile := t, fly := v.nextId, op := .wr ((bs.drop (256 * i)).take 256) }
          let w1 := if lsmSel e.w0 then w.loftSoft t src (256 * n) else w
          .go ((w1.pushBlks blks).countForeign oth.length) [] blks.length)

/-- STN: sends slots to the Landing of a tile of the die, one a beat from the issue beat (R47, R159). -/
def execStn (t : Nat) (s : State) : Host.Outcome State Fault Refusal :=
  .next (s.issue t .st 3 fun u e =>
    if e.skip then .go u [] 0 else
    let ep := u.epochOf t (stnEpoch e.w1) e.par
    .go (u.stnSend t e.w0 e.w1 0 ep) (if 1 < stnN e.w0 then [.stnRest e.w0 e.w1 1 ep] else []) 0)

/-- The header of a departure's packet (Tables 9.3 and 9.4). -/
def depHdr (me p : Nat) (d : Dep) (epoch : Nat) : Hdr :=
  { Hdr.zero with dst := d.dst, src := me, part := p, len := 4 * d.ns, hops := 31,
                  addr := loftAddr d.dtile (0xF0000 + 256 * d.dslot), epoch := epoch }

/-- STD: stages a departure entry in its port's buffer; a skipped one voids the departure (R93, R159, R264). -/
def execStd (t : Nat) (s : State) : Host.Outcome State Fault Refusal :=
  .next (s.issue t .st 4 fun u e =>
    let dep := stdDep e.w0
    match u.partOf t, u.depOf t dep with
    | some p, some d =>
      let q := u.port d.port
      let held := q.tx.dbuf.filter fun x => !x.void
      if !(e.skip || (u.part p).sh.silent) && (held.any (fun x => decide (x.dep = dep ∧ x.part = p)) || decide (64 ≤ held.length)) then
        .fault 0x10 0 [word dep, word d.port, word held.length]
      else
        let v := u.tile t
        let vp := u.part p
        let k := v.tim.course - 1
        let x : Staged :=
          { dep := dep, part := p, tile := t, course := k, due := (vp.startOf k).getD u.now + vp.scale * d.toff, void := e.skip || vp.sh.silent,
            pkt := { hdr := (depHdr u.me p d (u.epochOf t d.epoch e.par)).enc, data := flitsOf (v.opndRd (256 * stdSrc e.w1) (256 * d.ns)),
                     ready := 0, ing := none },
            rdy := u.now + Config.sMax t d.port }
        .go (u.modPort d.port fun y => { y with tx := { y.tx with dbuf := y.tx.dbuf ++ [x] } }) [] 0
    | _, _ => .go u [] 0)

end Sys2Proof.Machine
end

