-- ==== Sys2Proof/Machine/Service.lean ====
section
/-! DEFINITION. The positions of a Marl channel (R171 to R173), and the blocks of service accesses: the positions they take (R172, R214),
their CRC (R178 to R180), and the errors that their reads correct (R182, R184, R188). -/

namespace Sys2Proof.Machine

/-! ## Positions (R171 to R173): 47 positions in every frame of 80 t, or 160 t in P1, numbered from tick 0 -/

/-- Number of the position in progress. DESIGN CHOICE (log entry 40). -/
def State.posNow (s : State) : Nat := s.now * 47 / s.frame
/-- Number of the frame in progress. DESIGN CHOICE (log entry 40). -/
def State.frameNow (s : State) : Nat := s.now / s.frame
/-- A position begins at least 6 t after the end of the failed position `fp` (R179). -/
def State.resendDue (s : State) (fp pos : Nat) : Bool := decide (s.frame * fp + s.frame + 282 ≤ s.frame * pos)
/-- The first such position. -/
def State.resendPos (s : State) (fp : Nat) : Nat := fp + 1 + ceilDiv 282 s.frame
/-- The frame is one of a refresh window of a channel. -/
def inWindow (frame ch : Nat) : Bool := decide ((frame + 72 - 3 * ch) % 24 < 2)
/-- The refresh window of a channel in which a frame lies. -/
def windowOf (frame ch : Nat) : Nat := (frame + 72 - 3 * ch) / 24

def Stack.chan (k : Stack) (ch : Nat) : Chan := SMap.get Chan.reset k.chans ch
def Stack.setChan (k : Stack) (ch : Nat) (c : Chan) : Stack := { k with chans := SMap.put Chan.reset k.chans ch c }
def State.modChan (s : State) (stk ch : Nat) (f : Chan → Chan) : State := s.modStack stk fun k => k.setChan ch (f (k.chan ch))

/-- A sweep is active on the stack. -/
def Stack.sweeping (k : Stack) : Bool := k.sweep.any fun w => !w.fin && !w.stopped

/-! ## Errors of Marl sectors and Cellar transfers -/

/-- Fields that place a Marl sector: stack, channel, die, bank group, bank, stripe, sector (Table 6.11). -/
def marlFields (a : Nat) : List Word :=
  let o := a % stackSize
  [word (a / stackSize), word (chanOf o), word (dieOf o), word (bits o 18 2), word (bits o 20 2), word (o / 2 ^ 26), word (a % 16384 / 32)]

/-- Memory at an address holds an error that cannot be corrected until it is written again. -/
def State.markBad (s : State) (a : Nat) : State := s.modDev fun d => if d.bad.contains a then d else { d with bad := a :: d.bad }

/-- A corrected read of `n` sectors, transfers or words is counted where the error lies, and asks for the test of its place (R182, R184,
R188, R508). -/
def State.countCe (s : State) (a n : Nat) : State :=
  match s.region a with
  | .marl k _ => (s.stackCount k .ce n).askTest 1 (a / 16384)
  | .cellar off => (s.modDev fun d => { d with clrCe := bump 48 n d.clrCe (s.cellarChan off) }).askTest 3 (off / 2 ^ 34)
  | .loft t off => (s.tileCount t .loftCe n).askTest 0 (loftRow t off)
  | _ => s

/-- Marks of correctable errors in the Marl sectors and Cellar transfers that a range touches. -/
def State.softIn (s : State) (a n : Nat) : List Nat :=
  s.dev.soft.filter fun x => decide (x / 32 * 32 < a + n ∧ a < x / 32 * 32 + 32) && (match s.region x with
    | .marl .. => true
    | .cellar _ => true
    | _ => false)

/-- A read of Marl or Cellar corrects what can be corrected, and counts each sector or transfer (R182, R188). -/
def State.memSoft (s : State) (a n : Nat) : State := (s.softIn a n).foldl (fun u x => u.countCe x 1) s

/-! ## Service blocks (R172, R178 to R180, R214) -/

/-- A service block joins its channel: it will take a position that no plan block takes. While a sweep is active its stack admits one to
a die and channel in a frame, and one that has to wait for a later frame is counted. DESIGN CHOICE (log entry 40). -/
def State.svcBlk (s : State) (a : Nat) : State :=
  let k := a / stackSize
  let o := a % stackSize
  let st := s.stack k
  let c := st.chan (chanOf o)
  let f := s.frameNow
  let next := SMap.get 0 c.dieFr (dieOf o)
  let wait := st.sweeping && decide (f < next)
  let fr := if wait then next else f
  let s1 := s.modChan k (chanOf o) fun x => { x with svc := x.svc ++ [(dieOf o, fr)], dieFr := SMap.put 0 x.dieFr (dieOf o) (max next (fr + 1)) }
  if wait then s1.stackCount k .swpSvcdef 1 else s1

/-- The record of a Marl transfer fault (Table 6.11). -/
def transferFields (stk ch fp pos : Nat) (wr : Bool) (a : Nat) : List Word :=
  [word stk, word ch, word (fp / 47), word (fp % 47), word (pos % 47), word (if wr then 1 else 0)] ++ lohi a

/-- A Marl transfer fault against the partition that owns a block's region (R180). -/
def State.transferFault (s : State) (a : Nat) (tile : Option Nat) (fields : List Word) : State :=
  match s.ownerAt a with
  | some o => s.raise o { FInfo.dev 0x0B 3 fields with tile := tile }
  | none => s

/-- The block of a service access at an address crosses its stack's interface: sent once more after a CRC failure, and lost with a
transfer fault after the second. False where it is lost. A block that no stack holds crosses no interface. -/
def State.svcCross (s : State) (wr : Bool) (r : Bool × State) (a : Nat) : Bool × State :=
  match r.1, s.region a with
  | true, .marl k o =>
    let ch := chanOf o
    let u := r.2.svcBlk a
    let n := min 2 (u.dev.crcBad.filter fun x => decide (x = a)).length
    if n = 0 then (true, u)
    else
      let u1 := u.modDev fun d => { d with crcBad := if n = 1 then d.crcBad.erase a else (d.crcBad.erase a).erase a }
      let u2 := ((u1.stackCount k (if wr then .crcWr else .crcRd) n).askTest 2 (16 * k + ch)).svcBlk a
      if n = 1 then (true, u2)
      else (false, u2.transferFault a none (transferFields k ch u2.posNow (u2.resendPos u2.posNow) wr a))
  | _, _ => r

/-- Blocks of a range. -/
def blocksOf (a n : Nat) : List Nat := (List.range ((a + n - 1) / 256 - a / 256 + 1)).map fun i => 256 * (a / 256 + i)

/-- The blocks of a service access of a range cross in order: false where one is lost (R180). -/
def State.svcPass (s : State) (wr : Bool) (a n : Nat) : Bool × State :=
  if n = 0 then (true, s) else (blocksOf a n).foldl (fun r b => r.2.svcCross wr r b) (true, s)

end Sys2Proof.Machine
end

