-- ==== Sys2Proof/Machine/SyncOps.lean ====
section
/-! DEFINITION. Synchronisation words and barriers (spec/11): sync updates, waits with their polls and monitors, Rafter
barriers and mask barriers, and the SY operations. -/

namespace Sys2Proof.Machine

/-! ## Rafter barriers (R336 to R340) -/

/-- The entry of a configured barrier of a partition. -/
def State.rafterEnt (s : State) (p bid : Nat) : Option RafterEnt :=
  match (s.part p).plan with
  | none => none
  | some pl => match pl.rafter[bid]? with
    | none => none
    | some e => if e.loc = 0 ∧ e.nch = 0 then none else some e

/-- TAG of the engine's packets (R338). -/
def rafterTag (p bid : Nat) : Nat := 2 ^ 15 + p * 2 ^ 8 + bid

/-- A flagged SADD of 1 from the sync engine. -/
def State.rafterSend (s : State) (p bid dst addr : Nat) : State :=
  s.send { Hdr.zero with dst := dst, vc := 3, ord := true, part := p, opc := 6, addr := addr, tag := rafterTag p bid, opa := 1 } []

/-- GENW has increased: the children of the round are released and forgotten. -/
def State.rafterRelease (s : State) (p bid : Nat) (e : RafterEnt) : State :=
  let kids := SMap.get [] (s.part p).kids bid
  let s1 := s.modPart p fun v => { v with kids := SMap.put [] v.kids bid [] }
  kids.foldl (fun u d => u.rafterSend p bid d e.genw) s1

/-- GENW stands at `g`: where that is more than the engine has acted on, the round is released (R338). -/
def State.rafterGen (s : State) (p bid : Nat) (e : RafterEnt) (g : Nat) : State :=
  let old := SMap.get 0 (s.part p).rgen bid
  let s1 := s.modPart p fun v => { v with rgen := SMap.put 0 v.rgen bid g }
  if old < g then s1.rafterRelease p bid e else s1

/-- The sync engine looks at a barrier's two words, whatever wrote them (R338): an increase of GENW releases the children, and when UPW
reaches E x (G + 1) the round is complete on this device: the parent is told once, or the root raises its generation. -/
def State.rafterCheck (s : State) (p bid : Nat) (e : RafterEnt) : State :=
  let up := (s.rdW e.upw).toNat
  let g := (s.rdW e.genw).toNat
  let s1 := s.rafterGen p bid e g
  if up ≠ (e.loc + e.nch) * (g + 1) ∨ SMap.get 0 (s1.part p).rsig bid = g + 1 then s1
  else if e.parent = 0xFFFF then (s1.wrW e.genw (dword (g + 1))).rafterGen p bid e (g + 1)
  else (s1.modPart p fun v => { v with rsig := SMap.put 0 v.rsig bid (g + 1) }).rafterSend p bid e.parent e.upw

/-- The sync engine looks at every configured barrier of a partition. -/
def State.rafterAct (s : State) (p : Nat) : State :=
  match (s.part p).plan with
  | none => s
  | some _ => (List.range 16).foldl (fun u b => match u.rafterEnt p b with
    | some e => u.rafterCheck p b e
    | none => u) s

/-- RBARs of a barrier that have issued and that the engine does not yet hold. -/
def Tile.rbars (v : Tile) (bid : Nat) : Nat := (v.fly.filter fun f => f.eff.contains (.rbar bid)).length
def State.rbarsOf (s : State) (p bid : Nat) : Nat := (s.tilesOf p).foldl (fun n t => n + (s.tile t).rbars bid) 0

/-- Why an arrival at a barrier is a fault (R339): 1 past the round, 2 more children than NCH. An RBAR that has issued counts. -/
def State.rafterBad (s : State) (p bid : Nat) (e : RafterEnt) (child : Option Nat) : Option Nat :=
  let up := (s.rdW e.upw).toNat + s.rbarsOf p bid
  let g := (s.rdW e.genw).toNat
  if (e.loc + e.nch) * (g + 1) < up + 1 then some 1
  else if child.isSome && decide (e.nch ≤ (SMap.get [] (s.part p).kids bid).length) then some 2
  else none

/-- Fields of a Rafter barrier fault: kind, BID, UPW, G, E, arriving tile or SRC. DESIGN CHOICE (log entry 36). -/
def State.rafterFields (s : State) (bid : Nat) (e : Option RafterEnt) (who : Nat) : List Word :=
  match e with
  | none => [0, word bid, 0, 0, 0, 0, 0, word who]
  | some x => [0, word bid] ++ lohi (s.rdW x.upw).toNat ++ lohi (s.rdW x.genw).toNat ++ [word (x.loc + x.nch), word who]

/-- An arrival adds 1 to UPW, and a child's arrival records the child. DEDUCED (log entry 46). -/
def State.rafterArrive (s : State) (p bid : Nat) (e : RafterEnt) (child : Option Nat) : State :=
  let s1 := match child with
    | some d => s.modPart p fun v => { v with kids := SMap.put [] v.kids bid (SMap.get [] v.kids bid ++ [d]) }
    | none => s
  (s1.wrW e.upw (s1.rdW e.upw + 1)).rafterCheck p bid e

/-! ## Sync updates (R161, R324, R325) -/

/-- The value after a sync operation on a word. -/
def SyncUpd.apply (u : SyncUpd) (old : DWord) : DWord :=
  match u.kind with
  | 0 => old + u.x
  | 1 => u.x
  | _ => if old = u.x then u.y else old

/-- The barrier of a partition whose up word or generation word lies at an address: true for the generation word. -/
def State.rafterWord (s : State) (p a : Nat) : Option (Nat × RafterEnt × Bool) :=
  (List.range 16).findSome? fun b => (s.rafterEnt p b).bind fun e =>
    if a = e.upw then some (b, e, false) else if a = e.genw then some (b, e, true) else none

/-- Perform a sync operation on a word, and let the sync engine act on a barrier's word that it changes. DESIGN CHOICE (log entry 47). -/
def State.syncDo (s : State) (p? : Option Nat) (u : SyncUpd) : State :=
  let old := s.rdW u.addr
  if u.kind = 2 ∧ old ≠ u.x then s else
  let s1 := s.wrW u.addr (u.apply old)
  match p? with
  | none => s1
  | some p =>
    match s1.rafterWord p u.addr with
    | some (b, e, _) => s1.rafterCheck p b e
    | none => s1

/-- A tile's update of a word of its own Loft that takes effect in the beat in progress, or earlier, and has not yet been made (R324). -/
def State.loftSyncDue (s : State) (t a : Nat) : Bool :=
  (s.tile t).fly.any fun f => decide (f.need = 0 ∧ f.due + 1 ≤ (s.room (s.roomOf t)).clk) && f.eff.any fun e => match e with
    | .sync u => decide (u.addr = a)
    | _ => false

/-- A tile's sync block for a word that has reached the word's channel and has not yet crossed (R324). -/
def State.marlSyncDue (s : State) (a : Nat) : Bool :=
  let c := (s.stack (a / stackSize)).chan (chanOf (a % stackSize))
  (c.plan ++ c.again.map (·.1)).any fun b => decide (b.rdy ≤ s.now) && match b.op with
    | .sync u => decide (u.addr = a)
    | _ => false

/-- A sync operation of the fabric or of the host on a word waits behind those of tiles that reach the word first: the tile's own update
of a Loft word of the same beat, and the blocks that stand at the channel of a Marl word (R324). -/
def State.syncBehind (s : State) (a : Nat) : Bool :=
  match s.region a with
  | .loft t _ => s.loftSyncDue t a
  | .marl .. => s.marlSyncDue a
  | _ => false

/-- Where a tile's sync word lies (R323). -/
inductive SyPlace where
  | loft | marl | blocked | fault (cause : Nat)
  deriving DecidableEq, Repr

def State.syPlace (s : State) (t a : Nat) : SyPlace :=
  if a % 8 ≠ 0 then .fault 1
  else match s.region a with
    | .loft k off => if k ≠ t then .fault 4 else if inLanding off 8 then .fault 2 else .loft
    | .marl .. => if s.blkOwned t a then .marl else .blocked
    | _ => .fault 4

/-- TAG of a remote signal (Table 11.4). -/
def sigTag (t p : Nat) : Nat := t + p * 2 ^ 8 + 2 ^ 14

/-- A remote update: its checks, and the flagged packet (R161, R333). -/
def State.syRemote (s : State) (t : Nat) (e : QEntry) (a : Nat) (u : SyncUpd) : Act :=
  let dev := (((s.tile t).s (syAreg e.w0)).toNat) / 2 ^ 48
  if a % 8 ≠ 0 then .fault 0x0A 1 (accessFields .sy e.w0 a)
  else if !(decide (a < marlEnd) || decide (0x020000000000 ≤ a ∧ a < 0x020010000000)) then .fault 0x0A 4 (accessFields .sy e.w0 a)
  else match s.partOf t with
    | none => .go s [] 0
    | some p => .go (s.send { Hdr.zero with dst := dev, vc := 3, ord := true, part := p, opc := 6 + u.kind, addr := a,
                                            tag := sigTag t p, opa := u.x.toNat, opb := u.y.toNat } []) [] 0

/-- The fields of the memory fault that a read of a Loft sync word meets, if its word cannot be corrected (R185); a SSET reads nothing. -/
def State.loftWordBad (s : State) (t a : Nat) (blind : Bool) : Option (List Word) :=
  if blind then none else (s.badIn a 8).map fun x => loftBadFields .sy (x - loftAddr t 0) 0

/-- SADD, SSET and SCAS (R161, R325). DESIGN CHOICE (log entry 47). -/
def State.syUpdate (s : State) (t op : Nat) : State :=
  s.issue t .sy op fun w e =>
    if e.skip then .go w [] 0 else
    let v := w.tile t
    let a := v.syAddr e.w0 e.w1
    let u : SyncUpd := { kind := op - 1, addr := a, x := v.s (syVreg e.w0), y := if op = 3 then v.s (syNreg e.w0) else 0 }
    if syRmt e.w0 then w.syRemote t e a u
    else match w.syPlace t a with
      | .fault c => .fault 0x0A c (accessFields .sy e.w0 a)
      | .loft => (match w.loftWordBad t a (decide (op = 2)) with
        | some fs => .fault 0x0B 1 fs
        | none => .go (if op = 2 then w else w.loftSoft t (a - loftAddr t 0) 8) [.sync u] 0)
      | .marl => .go (w.pushBlk { addr := a / 256 * 256, tile := t, fly := v.nextId, op := .sync u }) [] 1
      | .blocked => .go (w.devCount .xpartMem 1) [] 0

def execSadd (t : Nat) (s : State) : Host.Outcome State Fault Refusal := .next (s.syUpdate t 1)
def execSset (t : Nat) (s : State) : Host.Outcome State Fault Refusal := .next (s.syUpdate t 2)
def execScas (t : Nat) (s : State) : Host.Outcome State Fault Refusal := .next (s.syUpdate t 3)

/-! ## Waits (R327 to R332) -/

/-- A value meets a wait's condition. -/
def Wait.met (w : Wait) (v : DWord) : Bool := if w.eq then decide (v = w.val) else decide (w.val.toNat ≤ v.toNat)

/-- A satisfied wait completes: its unit is free and its bit is set at its completion (R327). -/
def Tile.waitDone (v : Tile) : Tile :=
  match v.wait with
  | none => v
  | some w =>
    let f : Flight :=
      { id := v.nextId, q := .sy, start := v.now, due := v.tim.cb, set := w.set, iaddr := w.iaddr, slab := [], blks := [],
        sregs := [], preds := [], need := 0, eff := [] }
    { v with wait := none, fly := v.fly ++ [f], nextId := v.nextId + 1 }

/-- A wait is satisfied: it completes at once in a course, and otherwise in the next plan beat (R346). -/
def State.waitHit (s : State) (t : Nat) : State :=
  if s.inCourse t then s.modTile t Tile.waitDone
  else s.modTile t fun v => { v with wait := v.wait.map fun w => { w with sat := true } }

/-- A read of the waiting word returns a value. -/
def State.waitRead (s : State) (t : Nat) (x : DWord) (poll : Nat) : State :=
  match (s.tile t).wait with
  | none => s
  | some w =>
    let s1 := s.modTile t fun v => { v with wait := some { w with reads := w.reads + 1, last := x, poll := poll } }
    if w.met x then s1.waitHit t else s1

/-- The monitor entry of a line. -/
def Tile.monOf (v : Tile) (line : Nat) : Option Monitor := v.mons.find? fun m => decide (m.line = line)

/-- Arm an entry for a line: a free one, or the one armed least recently (R330). -/
def Tile.monArm (v : Tile) (line : Nat) : Tile :=
  let m : Monitor := { line := line, stamp := v.monStamp + 1, vals := [] }
  let v1 := { v with monStamp := v.monStamp + 1 }
  if v.mons.length < 64 then { v1 with mons := v.mons ++ [m] }
  else
    let old := v.mons.foldl (fun a (x : Monitor) => min a x.stamp) (v.monStamp + 1)
    ({ v1 with mons := (v.mons.filter fun (x : Monitor) => decide (x.stamp ≠ old)) ++ [m] }).count .monReuse 1

/-- Keep a word's value in the entry that watches its line. -/
def Tile.monKeep (v : Tile) (a : Nat) (x : DWord) : Tile :=
  { v with mons := v.mons.map fun m => if m.line = a / 64 then { m with vals := SMap.set m.vals a x } else m }

/-- SWGE and SWEQ (R161, R327, R329 to R331). -/
def State.syWait (s : State) (t op : Nat) : State :=
  s.issue t .sy op fun u e =>
    if e.skip then .go u [] 0 else
    let v := u.tile t
    let a := v.syAddr e.w0 e.w1
    let w : Wait := { kind := .word, eq := op = 5, mon := syMon e.w0, addr := a, val := v.s (syVreg e.w0), reads := 0, last := 0,
                      poll := 0, sat := false, wcrs := 0, set := none, iaddr := 0 }
    let known := if syMon e.w0 then (v.monOf (a / 64)).bind fun m => SMap.find m.vals a else none
    let arm := fun x : Tile => if syMon e.w0 && (x.monOf (a / 64)).isNone then x.monArm (a / 64) else x
    match u.syPlace t a, known with
    | .fault c, _ => .fault 0x0A c (accessFields .sy e.w0 a)
    | .blocked, _ =>
      if w.met 0 then .go (u.devCount .xpartMem 1) [] 0
      else .wait (u.devCount .xpartMem 1) { w with reads := 1, poll := u.now + 256 }
    | _, some x => if w.met x then .go u [] 0 else .wait u { w with reads := 1, last := x }
    | .loft, none => (match u.loftWordBad t a false with
      | some fs => .fault 0x0B 1 fs
      | none =>
        let x := u.rdW a
        let u1 := (u.loftSoft t (a - loftAddr t 0) 8).modTile t fun y => (arm y).monKeep a x
        if w.met x then .go u1 [] 0 else .wait u1 { w with reads := 1, last := x, poll := v.tim.cb })
    | .marl, none =>
      .wait ((u.modTile t arm).pushBlk { addr := a / 256 * 256, tile := t, fly := v.nextId, op := .rdWait }) w

def execSwge (t : Nat) (s : State) : Host.Outcome State Fault Refusal := .next (s.syWait t 4)
def execSweq (t : Nat) (s : State) : Host.Outcome State Fault Refusal := .next (s.syWait t 5)

/-- MONITOR_NOTIFY: the next notification reaches the tile; it may satisfy a monitored wait on a word that it carries (R330). -/
def execMonitorNotify (t : Nat) (s : State) : Host.Outcome State Fault Refusal :=
  .next (match (s.tile t).notes with
    | [] => s
    | ws :: r =>
      let s1 := s.modTile t fun v => { v with notes := r }
      if !(ws.any fun w => ((s.tile t).monOf (w.1 / 64)).isSome) then s1
      else
        let s2 := s1.modTile t fun v => (ws.foldl (fun x w => x.monKeep w.1 w.2) v).count .monNote 1
        match (s2.tile t).wait with
        | some w =>
          if w.kind = .word && w.mon && !w.sat then
            (match ws.find? fun x => decide (x.1 = w.addr) with
              | some x => s2.waitRead t x.2 w.poll
              | none => s2)
          else s2
        | none => s2)

/-- A polling wait on the own Loft that has a read to make in the beat in progress: a plan beat, a maintenance beat among them (R87, R329).
DESIGN CHOICE (log entry 40). -/
def State.pollDue (s : State) (t : Nat) : Bool :=
  let v := s.tile t
  match v.wait with
  | none => false
  | some w =>
    w.kind = .word && !w.mon && !w.sat && decide (s.syPlace t w.addr = .loft) && (v.tim.plan || v.tim.maint) && decide (w.poll ≠ v.tim.cb) &&
      decide (v.loftRd ≤ v.now)

/-- A read of a wait meets an error that cannot be corrected: the wait ends in a memory fault, precise on the SY queue (R163, R182, R185). -/
def State.waitBad (s : State) (t cause iaddr : Nat) (fields : List Word) : State :=
  (s.modTile t fun v => { v with wait := none }).opFault t .sy 0x0B cause iaddr fields

/-- A polling read of a Loft word. -/
def State.pollLoft (s : State) (t : Nat) (w : Wait) : State :=
  match s.loftWordBad t w.addr false with
  | some fs => s.waitBad t 1 w.iaddr fs
  | none => (s.loftSoft t (w.addr - loftAddr t 0) 8).waitRead t (s.rdW w.addr) (s.tile t).tim.cb

/-- A polling read of a Marl word, which is a service block: where it is lost the wait reads again 256 t later. -/
def State.pollMarl (s : State) (t : Nat) (w : Wait) : State :=
  let r := s.svcPass false w.addr 8
  let s1 := r.2
  if !r.1 then s1.modTile t fun v => { v with wait := some { w with poll := s.now + 256 } }
  else match s1.badIn (w.addr / 32 * 32) 32 with
    | some x => s1.waitBad t 2 w.iaddr (marlFields x)
    | none => (s1.memSoft w.addr 8).waitRead t (s1.rdW w.addr) (s.now + 256)

/-- SYNC_POLL_READ: a polling wait rereads its word: on the own Loft in each plan beat in which the LD queue makes no Loft read, and
otherwise every 256 t (R329); a word that R166 blocks reads as zero (R331). -/
def execSyncPollRead (t : Nat) (s : State) : Host.Outcome State Fault Refusal :=
  .next (match (s.tile t).wait with
    | none => s
    | some w =>
      if s.pollDue t && (s.issuing t .ld).isNone then (s.tileCount t .sywPoll 1).pollLoft t w
      else if w.kind = .word && !w.mon && !w.sat && decide (0 < w.reads) && decide (w.poll ≤ s.now) then
        match s.syPlace t w.addr with
        | .marl => (s.tileCount t .sywPoll 1).pollMarl t w
        | .blocked => ((s.tileCount t .sywPoll 1).devCount .xpartMem 1).waitRead t 0 (s.now + 256)
        | _ => s
      else s)

/-! ## Barrier operations -/

def Tile.arrOf (v : Tile) (b : Nat) : Nat := SMap.get 0 v.arr b
def Tile.tphOf (v : Tile) (m : Nat) : Nat := SMap.get 0 v.tph m

/-- A wait on a barrier. -/
def barWait (k : WaitKind) (id : Nat) : Wait :=
  { kind := k, eq := false, mon := false, addr := id, val := 0, reads := 0, last := 0, poll := 0, sat := false, wcrs := 0, set := none, iaddr := 0 }

/-- RBAR: adds 1 to the tile's ARR at its issue, and to UPW at its completion, when the sync engine holds the arrival (R338, R339).
DEDUCED (log entry 101). -/
def execRbar (t : Nat) (s : State) : Host.Outcome State Fault Refusal :=
  .next (s.issue t .sy 8 fun u e =>
    if e.skip then .go u [] 0 else
    match u.partOf t with
    | none => .go u [] 0
    | some p =>
      let b := barId e.w0
      match u.rafterEnt p b with
      | none => .fault 0x15 3 (u.rafterFields b none t)
      | some r =>
        match u.rafterBad p b r none with
        | some c => .fault 0x15 c (u.rafterFields b (some r) t)
        | none => .go (u.modTile t fun v => { v with arr := SMap.put 0 v.arr b (v.arrOf b + 1) }) [.rbar b] 0)

/-- The sync engine holds an arrival of a tile (R338). -/
def State.rbarDone (s : State) (t bid : Nat) : State :=
  match s.partOf t with
  | none => s
  | some p => match s.rafterEnt p bid with
    | some e => s.rafterArrive p bid e none
    | none => s

/-- RWAIT: completes once G is at least the tile's ARR (R338). -/
def execRwait (t : Nat) (s : State) : Host.Outcome State Fault Refusal :=
  .next (s.issue t .sy 9 fun u e =>
    if e.skip then .go u [] 0 else
    match u.partOf t with
    | none => .go u [] 0
    | some p =>
      let b := barId e.w0
      match u.rafterEnt p b with
      | none => .fault 0x15 3 (u.rafterFields b none t)
      | some r => if (u.tile t).arrOf b ≤ (u.rdW r.genw).toNat then .go u [] 0 else .wait u (barWait .rwait b))

/-- RAFTER_RELEASE: an RWAIT completes after the increase of GENW (R338). -/
def execRafterRelease (t : Nat) (s : State) : Host.Outcome State Fault Refusal :=
  .next (match (s.tile t).wait, s.partOf t with
    | some w, some p =>
      if w.kind ≠ .rwait || w.sat then s
      else match s.rafterEnt p w.addr with
        | some r => if (s.tile t).arrOf w.addr ≤ (s.rdW r.genw).toNat then s.waitHit t else s
        | none => s
    | _, _ => s)

/-- The mask barrier entry of a partition, if configured. -/
def State.maskEnt (s : State) (p m : Nat) : Option MaskEnt :=
  match (s.part p).plan with
  | none => none
  | some pl => match pl.masks[m]? with
    | none => none
    | some e => if e.mask = 0 then none else some e

/-- The bit of a tile in a mask, if its group has one. -/
def maskBit (e : MaskEnt) (t : Nat) : Option Nat := if t / 64 = e.grp ∧ e.mask.getLsbD (t % 64) then some (t % 64) else none

def Part.arrivedOf (v : Part) (m : Nat) : DWord := SMap.get 0 v.arrived m
def Part.phOf (v : Part) (m : Nat) : Nat := SMap.get 0 v.ph m

/-- Fields of a mask barrier fault: kind, MID, ARRIVED, MASK, arriving tile. DESIGN CHOICE (log entry 36). -/
def maskFields (m : Nat) (arrived mask : DWord) (t : Nat) : List Word :=
  [1, word m] ++ lohi arrived.toNat ++ lohi mask.toNat ++ [word t]

/-- MBAR: arrives at a mask barrier, or waits on it (R343, R344). Causes: 1 not in MASK, 2 already arrived, 3 unconfigured. -/
def execMbar (t : Nat) (s : State) : Host.Outcome State Fault Refusal :=
  .next (s.issue t .sy 0xA fun u e =>
    if e.skip then .go u [] 0 else
    match u.partOf t with
    | none => .go u [] 0
    | some p =>
      let m := maskId e.w0
      let v := u.part p
      if maskWait e.w0 then
        if (u.tile t).tphOf m ≤ v.phOf m then .go u [] 0 else .wait u (barWait .mbar m)
      else match u.maskEnt p m with
        | none => .fault 0x15 3 (maskFields m (v.arrivedOf m) 0 t)
        | some x =>
          match maskBit x t with
          | none => .fault 0x15 1 (maskFields m (v.arrivedOf m) x.mask t)
          | some i =>
            if (v.arrivedOf m).getLsbD i then .fault 0x15 2 (maskFields m (v.arrivedOf m) x.mask t)
            else .go ((u.modPart p fun y => { y with arrived := SMap.put 0 y.arrived m (y.arrivedOf m ||| dword (2 ^ i)) }).modTile t
              fun y => { y with tph := SMap.put 0 y.tph m (y.tphOf m + 1) }) [] 0)

/-- MASK_BARRIER_RELEASE: when ARRIVED equals MASK it clears, PH advances, and the waiting MBARs complete (R343). -/
def execMaskBarrierRelease (p mid : Nat) (s : State) : Host.Outcome State Fault Refusal :=
  .next (match s.maskEnt p mid with
    | none => s
    | some x =>
      if (s.part p).arrivedOf mid ≠ x.mask then s
      else
        let s1 := s.modPart p fun v => { v with arrived := SMap.put 0 v.arrived mid 0, ph := SMap.put 0 v.ph mid (v.phOf mid + 1) }
        let ph := (s1.part p).phOf mid
        (s1.tilesOf p).foldl (fun u t =>
          match (u.tile t).wait with
          | some w => if w.kind = .mbar && decide (w.addr = mid) && !w.sat && decide ((u.tile t).tphOf mid ≤ ph) then u.waitHit t else u
          | none => u) s1)

end Sys2Proof.Machine
end

