-- ==== Sys2Proof/Machine/Beat.lean ====
section
/-! DEFINITION. The clock beat of a tile: operations in progress go on, the beat stalls or is a plan beat, and a plan beat
decodes one Shale word (SHALE_WORD_DECODE, R82 to R105); and the completion of an operation (OPERATION_COMPLETE, R85). -/

namespace Sys2Proof.Machine

/-! ## Operations in progress -/

/-- A flight that a fault drops: the operation does not complete, and its queue stops (R58, R157). -/
def State.dropFlight (s : State) (t id : Nat) : State := s.modTile t fun v => { v with fly := v.fly.filter fun f => decide (f.id ≠ id) }

/-- A SAT or INV bit has been set on a tile: the step's window-event bit (R434). -/
def State.windowEvent (s : State) (t : Nat) : State :=
  match s.partOf t with
  | some p => s.modPart p fun v => { v with aud := { v.aud with wev := if v.aud.wev.contains v.run.step then v.aud.wev else v.aud.wev ++ [v.run.step] } }
  | none => s

/-- A run goes on in clock beat `b`: the updates of earlier beats are made, and the read of the beat (R129). All that is left is done where
`b` is none, as the run completes. The run after; in the plan scale of the hazard detector every step takes 4 times as long (R63). -/
def Tile.runOn (v : Tile) (r : MxRun) (scale start : Nat) (b : Option Nat) : Tile × MxRun :=
  let n := mxReads r.w0 r.w1
  let x := v.updateRuns r scale start b n
  if n ≤ x.2.reads || (b.any fun c => decide (c < start + scale * x.2.reads)) then x
  else (x.1, { x.2 with ks := x.2.ks ++ [x.1.readStep r.w0 r.w1 r.d r.wbase r.wblks x.2.reads], reads := x.2.reads + 1 })

/-- A flight's effects are replaced. -/
def Tile.setEff (v : Tile) (id : Nat) (f : List Effect → List Effect) : Tile :=
  { v with fly := v.fly.map fun g => if g.id = id then { g with eff := f g.eff } else g }

/-- What an operation still has to do in clock beat `b`: an LDG reads its other slots in the beat after its issue beat, an STN sends its
next slot, a run reads its operands and updates its sets (R47, R129, R157). DEDUCED (log entry 34). -/
def State.goOn (s : State) (t b : Nat) (f : Flight) : State :=
  let k := s.tscale t
  f.eff.foldl (fun u e =>
    match e with
    | .ldgRest slot n ep off =>
      if b < f.start + k then u else
      let u1 := u.hzdReads t slot n ep f.iaddr
      (match u1.readSlots t slot n ep with
       | .inl (cls, c, fs) => (u1.dropFlight t f.id).opFault t .ld cls c f.iaddr fs
       | .inr bs => (u1.slotSoft t slot n).modTile t fun v => v.setEff f.id fun es => (es.filter fun x => decide (x ≠ e)) ++ [.opnd off bs])
    | .stnRest w0 w1 i ep =>
      if b < f.start + k * i then u else
      (u.stnSend t w0 w1 i ep).modTile t fun v => v.setEff f.id fun _ => if i + 1 < stnN w0 then [.stnRest w0 w1 (i + 1) ep] else []
    | .mxr r =>
      let x := (u.tile t).runOn r k f.start (some b)
      let u1 := u.setTile t (x.1.setEff f.id fun _ => [.mxr x.2])
      if (x.2.sat && !r.sat) || (x.2.inv && !r.inv) then u1.windowEvent t else u1
    | _ => u) s

def State.goOnAll (s : State) (t b : Nat) : State := (s.tile t).fly.foldl (fun u f => u.goOn t b f) s

/-! ## Decode -/

/-- The skip of a word: its sampled predicate, and every open loop's skip (R92, R99). -/
def Tile.skips (v : Tile) (h : Word) : Bool :=
  v.fe.loops.any LoopFrame.skip || (shPen h && (flag16 v.pred (shPidx h) == shPneg h))

/-- Send the operations of a word to the tails of their queues (R82); the timing-control ones have their effect next. DEDUCED (log entry 35). -/
def Tile.enqueue (v : Tile) (skip par : Bool) (pc ready : Nat) : List (Queue × Word × Word) → Tile
  | [] => v
  | (q, w0, w1) :: r =>
    let aux := if q = .ld ∧ opcode w0 = 5 then dword (v.marlAddr (lsAreg w0) (w1.toNat * 256)) else 0
    let e : QEntry := { w0 := w0, w1 := w1, iaddr := pc, skip := skip, ready := ready, aux := aux, par := par }
    let u := v.queue q
    let v1 := v.setQueue q { u with ents := u.ents ++ [e] }
    let tc := (q = .sc && decide (0x10 ≤ opcode w0)) || (q = .ld && opcode w0 = 5)
    Tile.enqueue (if tc then { v1 with fe := { v1.fe with tcs := v1.fe.tcs ++ [(q, e)] } } else v1) skip par pc ready r

/-- Decode a word in the plan beat in progress. DEDUCED (log entry 35). -/
def State.decodeWord (s : State) (t : Nat) (h : Word) (ops : List (Queue × Word × Word)) : State :=
  let run := ((s.partOf t).map fun p => (s.part p).run).getD Run.reset
  let par := decide (run.step % 2 = 1)
  s.modTile t fun v0 =>
    let v := v0.evalCmps
    -- a step that is held runs with every word skipped (R425)
    let skip := run.held || v.skips h
    let pc := v.fe.pc
    let v1 := (linesOf pc (4 * shLen h)).foldl (fun x l => x.icTouch l) v
    let v2 := if skip then v1.count .skipw 1 else v1
    let v3 := { v2 with fe := { v2.fe with pc := (pc + 4 * shLen h) % 2 ^ 48, miss := [] } }
    let v4 := (v3.enqueue skip par pc v3.tim.pb ops).countWord
    if ops.any fun o => decide (o.1 = .sc ∧ opcode o.2.1 = 0x10) then v4 else closeLoops 5 v4

/-- Pass over a word of a zero-count loop (R96): its lines are used. -/
def Tile.passWord (v : Tile) (h : Word) : Tile :=
  let v1 := (linesOf v.fe.pc (4 * shLen h)).foldl (fun x l => x.icTouch l) v
  let v2 := { v1 with fe := { v1.fe with pc := (v1.fe.pc + 4 * shLen h) % 2 ^ 48, passL := v1.fe.passL - 1, miss := [] } }
  if v2.fe.passL = 0 then closeLoops 5 v2 else v2

/-- The queue that the record of a malformed word names (R163): that of its first operation; 0xFF where its header has none. DESIGN CHOICE
(log entry 36). -/
def malQueue (h : Word) : Word := word (((List.range 6).find? fun i => flag h i).elim 0xFF fun i => slotOf (queueOf i))

/-- A malformed word stops the front end (R109). -/
def State.malformed (s : State) (t : Nat) (h : Word) (why : Nat) : State :=
  let a := (s.tile t).fe.pc
  (s.modTile t fun v => { v with fe := { v.fe with stop := true } }).tileFault t 0x05 0 a [h, word why, malQueue h]

/-! ## The beat -/

/-- The Room's beat in progress is stepped down. -/
def State.stepped (s : State) (t : Nat) : Bool := (s.room (s.roomOf t)).stepCur

/-- A plan beat of the course begins: it pays for a step-down, and counts; so does a wait at the head of the SY queue (R41, R347). -/
def State.countBeat (s : State) (t : Nat) (inC : Bool) : State :=
  (if inC && s.stepped t then s.charge t .stepdn 1 else s).modTile t fun v =>
    let v1 := { v with tim := { v.tim with pb := v.tim.pb + 1, beat := if inC then v.tim.beat + 1 else v.tim.beat } }
    if v1.wait.isSome then v1.count .sywBeats 1 else v1

/-- Begin a plan beat in which queues may issue. -/
def State.planBeat (s : State) (t : Nat) (inC : Bool) : State :=
  (s.countBeat t inC).modTile t fun v => { v with tim := { v.tim with plan := true } }

/-- A maintenance beat: a plan beat in which nothing decodes and nothing issues (R87). -/
def State.maintBeat (s : State) (t : Nat) : State :=
  (s.countBeat t true).modTile t fun v => { v with tim := { v.tim with maint := true } }

/-- TIL_RSV_PEAK and TIL_RSV_PEAKC take the tile's S and course. -/
def Tile.setPeak (v : Tile) : Tile :=
  let c1 := SMap.put 0 v.ctr TileCtr.rsvPeak.idx (min (2 ^ 32 - 1) v.tim.s)
  { v with ctr := SMap.put 0 c1 TileCtr.rsvPeakC.idx (v.tim.course - 1) }

/-- The end of plan beat LEN - 1: the largest S at the end of any course is kept (R46). -/
def State.endCourse (s : State) (t : Nat) : State :=
  let v := s.tile t
  match s.courseOf t with
  | none => s
  | some c =>
    if v.tim.beat ≠ c.len ∨ v.tim.s ≤ SMap.get 0 v.ctr TileCtr.rsvPeak.idx then s
    else s.modTile t fun x => x.setPeak

/-- A stalled clock beat, charged to the reserve (R41, R105). -/
def State.stallBeat (s : State) (t : Nat) : State := s.charge t .ilk 8

/-- SY waits at the head of a halted tile are abandoned (R501). -/
def dropWaits : List QEntry → List QEntry
  | [] => []
  | e :: r => if isWait e.w0 then dropWaits r else e :: r

/-- Engine activity of a beat (R130, R135): active in an occupancy or a ramp, and otherwise idle unless a run issues in it; `plan` where it
is a plan beat of the course. -/
def State.mxBeat (s : State) (t b : Nat) (ramp issues plan : Bool) : State :=
  if decide (b < (s.tile t).mx.busy) || ramp then s.mxBusy t b plan
  else if issues then s
  else s.modTile t Tile.mxQuiet

/-- A beat of a tile in a course or in its drain that an inserted ramp does not take: a stall, the start of a ramp, a maintenance or a plan
beat. -/
def State.workBeat (s : State) (t b : Nat) (inC late : Bool) : State :=
  let v := s.tile t
  let hzd := s.tscale t = 4
  if late then
    -- R176: a late Marl block stalls the tile; under the detector it is not charged
    let s1 := s.mxBeat t b false false false
    if hzd || !inC then s1 else s1.stallBeat t
  else if inC && s.inMaint t then (s.mxBeat t b false false true).maintBeat t
  else
    let look := if inC then s.look t b else Look.none
    let miss := match look with
      | .miss ls => ls
      | _ => []
    if s.headStall t b || decide (look = .ilk) || !miss.isEmpty then
      let s1 := (s.mxBeat t b false false false).modTile t fun x =>
        if miss.isEmpty then x
        else (if x.fe.miss.isEmpty then x.count .icmiss 1 else x) |> fun y => { y with fe := { y.fe with miss := miss } }
      s1.stallBeat t
    else if v.rampDue b then
      ((s.mxBeat t b true false false).modTile t fun x => { x with mx := { x.mx with ramp := 32 } }).charge t .ramp 256
    else
      let s1 := (s.mxBeat t b false (v.mxIssues b) inC).planBeat t inC
      let s2 := if inC then s1 else s1.modTile t fun x =>
        x.setQueue .sy { x.queue .sy with ents := dropWaits (x.queue .sy).ents }
      match look with
      | .hold => s2.tileCount t .qhold 1
      | .pass h => s2.modTile t fun x => x.passWord h
      | .bad h w => s2.malformed t h w
      | .word h ops => s2.decodeWord t h ops
      | _ => s2

/-- A clock beat of an inserted ramp (R132): it is as long under the hazard detector. -/
def State.rampBeat (s : State) (t b : Nat) : State :=
  (s.mxBeat t b true false false).modTile t fun x => { x with mx := { x.mx with ramp := x.mx.ramp - 1 } }

/-- The course that a tile begins next begins in the Room's beat in progress, which is the tile's next (R42, R44). -/
def State.startDue (s : State) (t : Nat) : Bool :=
  match s.partOf t with
  | none => false
  | some p =>
    let v := s.part p
    let x := s.room (s.roomOf t)
    v.live && decide ((s.tile t).tim.cb + 1 = x.clk) &&
      (match v.startOf (s.tile t).tim.course with
       | some b => decide (10 * ((b : Int) + 2) ≤ s.begTicks (s.roomOf t))
       | none => false)

/-- The tile's next clock beat may begin: its Room has begun it, every completion that is due has been made, and everything
that issues in the beat before has issued. DESIGN CHOICE (log entry 33). -/
def State.beatReady (s : State) (t : Nat) : Bool :=
  let v := s.tile t
  decide (t < s.nTiles) && decide (v.tim.cb < (s.room (s.roomOf t)).clk) && v.fe.tcs.isEmpty && decide (v.mx.ramp ≠ 1) &&
  !v.issuesLeft && !s.pollDue t &&
  allQueues.all fun q => match v.fly.find? fun f => decide (f.q = q) with
    | some f => !f.ends v.tim.cb
    | none => true

/-- The next beat of the tile's front end: not while a course waits to begin in it. DESIGN CHOICE (log entry 33). -/
def State.beatOk (s : State) (t : Nat) : Bool := s.beatReady t && !s.startDue t

/-- The next clock beat of a tile's front end and queues: the landings of earlier beats are readable in it (R48). DESIGN CHOICE (log
entries 3, 33). -/
def State.tileBeat (s : State) (t : Nat) : State :=
  let b := (s.tile t).tim.cb
  let s0 := s.modTile t fun v => { v.xbStart with tim := { v.tim with cb := b + 1, plan := false, maint := false } }
  let s1 := (s0.landUpTo t b).goOnAll t b
  let inC := s1.inCourse t
  let s2 := if inC && ((s1.tile t).wait.any fun w => w.sat) then s1.modTile t Tile.waitDone else s1
  let late := (s.tile t).dueNow.isSome
  if !inC && !s1.draining t then s2.mxBeat t b false false false
  else if 1 < (s2.tile t).mx.ramp then s2.rampBeat t b
  else if s.tscale t = 4 ∧ b % 4 ≠ 0 then s2.mxBeat t b false false false
  else (s2.workBeat t b inC late).endCourse t

/-- SHALE_WORD_DECODE. DESIGN CHOICE (log entry 33). -/
def execShaleWordDecode (t : Nat) (s : State) : Host.Outcome State Fault Refusal :=
  .next (if s.beatOk t then s.tileBeat t else s)

/-! ## Completion (R85, R89, R90) -/

/-- What is left of a run as it completes. -/
def Tile.runEnd (v : Tile) (r : MxRun) (scale : Nat) : Nat → Tile × MxRun
  | 0 => (v, r)
  | n + 1 =>
    let x := v.runOn r scale 0 none
    Tile.runEnd x.1 x.2 scale n

/-- Make one effect visible. -/
def State.effect (s : State) (t : Nat) (e : Effect) : State :=
  match e with
  | .sreg i v => s.modTile t fun x => x.setS i v
  | .pred i b => s.modTile t fun x => { x with pred := setFlag16 x.pred i b }
  | .opnd off bs => s.modTile t fun x => x.opndWr off bs
  | .mem a bs => s.wr a bs
  | .slabRows set row0 accs =>
    let s1 := s.modTile t fun x => x.setAccs set (SMap.putList Acc.zero (x.accs set) (64 * row0) accs)
    if accs.any Acc.sat then s1.windowEvent t else s1
  | .slabClear a0 a1 => s.modTile t fun x =>
      let y := if a0 then x.setAccs 0 [] else x
      if a1 then y.setAccs 1 [] else y
  | .mxr r =>
    let x := (s.tile t).runEnd r (s.tscale t) (mxReads r.w0 r.w1 + 1)
    let s1 := s.setTile t x.1
    if (x.2.sat && !r.sat) || (x.2.inv && !r.inv) then s1.windowEvent t else s1
  | .ring b n => s.modTile t fun x => { x with mx := { x.mx with wbase := b, wblks := n } }
  | .lines .. => s
  | .sync u => s.syncDo (s.partOf t) u
  | .rbar b => s.rbarDone t b
  | .ldgRest .. => s
  | .stnRest .. => s

/-- Set the barrier bit of a completed operation, or raise a barrier-bit fault (R89, R90, R109). -/
def State.setBit (s : State) (t : Nat) (f : Flight) : State :=
  match f.set with
  | none => s
  | some i =>
    let bad := (s.tile t).xbFault i
    let s1 := s.modTile t fun v => v.setXb i
    if bad then s1.tileFault t 0x06 0 f.iaddr [word i, word (slotOf f.q)] else s1

/-- Complete an operation. DEDUCED (log entry 34). -/
def State.complete (s : State) (t : Nat) (f : Flight) : State :=
  (f.eff.foldl (fun u e => u.effect t e) (s.dropFlight t f.id)).setBit t f

/-- OPERATION_COMPLETE: the first operation of a queue completes once its latency has elapsed (R84, R85). DESIGN CHOICE (log entry 2). -/
def execOperationComplete (t : Nat) (q : Queue) (s : State) : Host.Outcome State Fault Refusal :=
  .next (let v := s.tile t
    match v.fly.find? fun f => decide (f.q = q) with
    | some f => if f.ends v.tim.cb && !v.issuesLeft then s.complete t f else s
    | none => s)

/-! ## The end of a drain (R501) and Loft errors (R184) -/

/-- TILE_DRAIN_END: a halted or complete tile whose operations have completed, and none of whose heads can issue, abandons
what is still queued. DESIGN CHOICE (log entry 41). -/
def execTileDrainEnd (t : Nat) (s : State) : Host.Outcome State Fault Refusal :=
  .next (let v := s.tile t
    let sy := v.setQueue .sy { v.queue .sy with ents := dropWaits (v.queue .sy).ents }
    let can := allQueues.any fun q => match (sy.queue q).ents with
      | e :: _ => !v.fe.qstop.contains q && (!opWen e.w0 || flag16 v.xb (opWidx e.w0))
      | [] => false
    if s.draining t && v.fly.isEmpty && !can then
      s.modTile t fun x => { x with q := [], fe := { x.fe with tcs := [] }, drained := true }
    else s)

/-- LOFT_ECC_WRITEBACK: a corrected word is written back in a beat in which the write port is idle (R184): no
store or sync update of the Loft is in flight. One that has been written since has no error left. DESIGN CHOICE (log entry 37). -/
def execLoftEccWriteback (t : Nat) (s : State) : Host.Outcome State Fault Refusal :=
  .next (match (s.tile t).wback with
    | [] => s
    | (off, x) :: r =>
      let stores := fun e : Effect => match e with
        | .mem .. => true
        | .sync _ => true
        | _ => false
      let busy := (s.tile t).fly.any fun f => decide (f.q ≠ .ld) && f.eff.any stores
      if busy then s
      else if !s.dev.soft.contains (loftAddr t off) then s.modTile t fun v => { v with wback := r }
      else
        let s1 := (s.modTile t fun v => { v with wback := r }).modDev fun d => { d with soft := d.soft.filter fun a => decide (a ≠ loftAddr t off) }
        { s1 with mem := SMap.putList memDefault s1.mem (loftAddr t off) (toLE 8 x.toNat) })

end Sys2Proof.Machine
end

