-- ==== Sys2Proof/Machine/Marl.lean ====
section
/-! DEFINITION. The Marl channels (R171 to R183): what a position carries, plan blocks and what they carry to a tile, re-sends, code-fetch
fills, refresh windows, temperature, patrol scrub; the known-answer segments of tiles and stacks (R510); the Cellar's refresh (R189). -/

namespace Sys2Proof.Machine

/-- A block moves towards the stack. -/
def BlkOp.isWrite : BlkOp → Bool
  | .wr _ => true
  | .sync _ => true
  | _ => false

/-! ## Arrival at the tile -/

/-- The FETCH in flight that names a line (R101). -/
def Tile.lineFly (v : Tile) (line : Nat) : Option Flight :=
  v.fly.find? fun f => f.eff.any fun e => match e with
    | .lines l n _ => decide (l ≤ line ∧ line < l + n)
    | _ => false

/-- A block of an operation that should have completed in an earlier beat is late (R176). -/
def State.lateBlk (s : State) (b : Blk) (f? : Option Flight) : State :=
  if f?.any fun f => decide (f.due < (s.tile b.tile).tim.cb) then s.stackCount (b.addr / stackSize) .late 1 else s

/-- A block of an operation in flight has reached the tile. -/
def State.blkCrossed (s : State) (b : Blk) (e : Option Effect) : State :=
  (s.lateBlk b ((s.tile b.tile).fly.find? fun f => decide (f.id = b.fly))).modTile b.tile fun x => { x with fly := x.fly.map fun f =>
    if f.id = b.fly then { f with need := f.need - 1, eff := f.eff ++ e.toList } else f }

/-- The data of a block, or its acknowledgement, reaches the tile (R176). A fill of the Loft takes the fill port in the Room's beat in
progress (R78), and one addressed to the Landing is dropped (R77). -/
def State.blkArrive (s : State) (x : BackBlk) : State :=
  let b := x.blk
  match b.op with
  | .rdOpnd off => s.blkCrossed b (some (.opnd off x.data))
  | .rdLoft dst =>
    let s1 := s.modTile b.tile fun v => { v with fillAt := (s.room (s.roomOf b.tile)).clk }
    if inLanding dst 256 then (s1.tileCount b.tile .lndWdrop 1).blkCrossed b none
    else s1.blkCrossed b (some (.mem (loftAddr b.tile dst) x.data))
  | .rdLine _ =>
    (s.lateBlk b ((s.tile b.tile).lineFly (b.addr / 256))).modTile b.tile fun v => v.icArrive (b.addr / 256) x.data
  | .wr _ => s.blkCrossed b none
  | .sync _ => s.blkCrossed b none
  | .rdWait =>
    match (s.tile b.tile).wait with
    | some w =>
      if w.kind = .word && decide (w.addr / 256 * 256 = b.addr) && !w.sat then
        let y := dword (leNat ((x.data.drop (w.addr % 256)).take 8))
        (s.modTile b.tile fun v => v.monKeep w.addr y).waitRead b.tile y (s.now + 256)
      else s
    | none => s

/-- What of the blocks on their way from a stack has reached its tile by now. -/
def State.marlBack (s : State) (stk : Nat) : State :=
  let (due, later) := (s.stack stk).back.partition fun x => decide (x.tick ≤ s.now)
  due.foldl State.blkArrive (s.modStack stk fun k => { k with back := later })

/-! ## Crossing the interface -/

/-- The bytes that a block carries to its tile. -/
def State.blkData (s : State) (b : Blk) : List Byte := if b.op.isWrite then [] else s.rd b.addr 256

/-- What a block that passes its check does at the stack. -/
def State.blkStack (s : State) (b : Blk) : State :=
  match b.op with
  | .wr data => s.wr b.addr data
  | .sync u => s.syncDo (s.partOf b.tile) u
  | _ => s

/-- A block that passes its check does its work at the stack, and its data or acknowledgement sets out to its tile (R175, R176). -/
def State.blkDone (s : State) (b : Blk) : State :=
  let stk := b.addr / stackSize
  let x : BackBlk := { tick := s.now + Config.retTime s.reduced b.tile stk, blk := b, data := s.blkData b }
  ((s.blkStack b).modStack stk fun k => { k with back := k.back ++ [x] }).marlBack stk

/-- The operation of a block that will not come does not complete: a load or a store, the FETCHes that name a line, a wait. -/
def State.blkLost (s : State) (b : Blk) : State :=
  match b.op with
  | .rdLine _ => match (s.tile b.tile).lineFly (b.addr / 256) with
    | some f => s.dropFlight b.tile f.id
    | none => s
  | .rdWait => s.modTile b.tile fun v => { v with wait := none }
  | _ => s.dropFlight b.tile b.fly

/-- The queue and the instruction address of the operation of a block; none where the block is an instruction-cache line that the front
end needs. -/
def Tile.blkOwner (v : Tile) (b : Blk) : Option (Queue × Nat) :=
  match b.op with
  | .rdLine _ => (v.lineFly (b.addr / 256)).map fun f => (f.q, f.iaddr)
  | .rdWait => v.wait.map fun w => (.sy, w.iaddr)
  | _ => (v.fly.find? fun f => decide (f.id = b.fly)).map fun f => (f.q, f.iaddr)

/-- An uncorrectable sector met by a tile's block: the fault is precise, and the operation does not complete (R163, R182). -/
def State.blkBad (s : State) (b : Blk) (sector : Nat) : State :=
  let own := (s.tile b.tile).blkOwner b
  let s1 := ((s.markBad sector).askTest 1 (sector / 16384)).blkLost b
  let s2 := s1.modTile b.tile fun x => { x with fe := match own with
    | some o => { x.fe with qstop := o.1 :: x.fe.qstop }
    | none => { x.fe with stop := true } }
  s2.tileFault b.tile 0x0B 2 ((own.map (·.2)).getD (s.tile b.tile).fe.pc) (marlFields sector)

/-- An interface block of a die and channel takes a beat of its engine from the sweep in progress (R214), and a plan block is counted
against the sweep's BPMAX (R215). -/
def State.sweepBlk (s : State) (stk die ch : Nat) (plan : Bool) : State :=
  s.modStack stk fun k => { k with sweep := k.sweep.map fun w =>
    let i := 16 * die + ch
    { w with blks := if plan then bump 32 1 w.blks i else w.blks, lost := bump 32 1 w.lost i } }

/-- The range of a block that its access reads under ECC: the whole block, the sector of a sync word that the stack updates, or nothing. -/
def Blk.eccRange (b : Blk) : Nat × Nat :=
  match b.op with
  | .wr _ => (b.addr, 0)
  | .sync u => (u.addr / 32 * 32, 32)
  | _ => (b.addr, 256)

/-- The check of a block that has crossed without a CRC failure: the errors that the row names, and those that memory is marked with
(R182). -/
def State.blkChecked (s : State) (b : Blk) (ecc : EccEvent) : State :=
  let r := b.eccRange
  if r.2 = 0 then s.blkDone b
  else match ecc, s.badIn r.1 r.2 with
    | _, some a => s.blkBad b (a / 32 * 32)
    | .uncorrectable first, none => s.blkBad b (r.1 + 32 * first % r.2)
    | .corrected n, none => ((s.countCe b.addr n).memSoft r.1 r.2).blkDone b
    | .clean, none => (s.memSoft r.1 r.2).blkDone b

/-- A block has crossed and failed its CRC: it is counted, and the test of its interface is asked for (R178, R508). -/
def State.crcFail (s : State) (stk ch : Nat) (b : Blk) : State :=
  (s.stackCount stk (if b.op.isWrite then .crcWr else .crcRd) 1).askTest 2 (16 * stk + ch)

/-- A block is a plan block (R172): a line that the front end misses is none. -/
def BlkOp.isPlan : BlkOp → Bool
  | .rdLine miss => !miss
  | _ => true

/-- What every crossing of a block of a tile counts: its beat of the engines, and the interface's activity in the tick for a plan block
(R66, R214). -/
def State.blkMeter (s : State) (stk ch : Nat) (b : Blk) : State :=
  let s1 := s.sweepBlk stk (dieOf (b.addr % stackSize)) ch b.op.isPlan
  if b.op.isPlan then s1.modStack stk fun k => { k with lastPlan := s.now + 1 } else s1

/-- A block crosses for the first time in the position in progress: checked, or discarded whole and to be sent again (R178, R179). -/
def State.blkFirst (s : State) (stk ch : Nat) (b : Blk) (crcOk : Bool) (ecc : EccEvent) : State :=
  let s1 := s.blkMeter stk ch b
  if crcOk then s1.blkChecked b ecc
  else (s1.crcFail stk ch b).modChan stk ch fun x => { x with again := x.again ++ [(b, s.posNow)] }

/-! ## Positions -/

/-- The window of a channel in which a frame lies is used for refresh: at the doubled rate every one, and else those whose number, which
R173 counts 3 lower, is even. -/
def Chan.refreshes (c : Chan) (frame ch : Nat) : Bool := inWindow frame ch && (c.hot || decide (windowOf frame ch % 2 = 1))

/-- A tile's front end waits for a line of a channel (R104). -/
def State.missFor (s : State) (stk ch : Nat) : Bool :=
  s.tiles.any fun kv => kv.2.fe.miss.any fun l => decide (l * 256 / stackSize = stk ∧ chanOf (l * 256 % stackSize) = ch)

/-- The plan block that may take the position in progress, and those that stay: the oldest whose request has reached the channel, in an
ordinary position, or in the spare one where a re-send has displaced a block (R172). -/
def State.planNext (s : State) (c : Chan) (ch : Nat) : Option (Blk × List Blk) :=
  let p := s.posNow % 47
  if inWindow s.frameNow ch || decide (p = 45) || (decide (p = 46) && decide (c.disp = 0)) then none
  else takeFirst (fun b => decide (b.rdy ≤ s.now)) c.plan

/-- The oldest service block that may cross takes the position in progress (R172, R214). -/
def State.svcPosition (s : State) (stk ch : Nat) : State :=
  match takeFirst (fun x : Nat × Nat => decide (x.2 ≤ s.frameNow)) ((s.stack stk).chan ch).svc with
  | none => s
  | some (x, r) => (s.modChan stk ch fun c => { c with svc := r, pos := s.posNow + 1 }).sweepBlk stk x.1 ch false

/-- MARL_POSITION_TRANSFER: a position of a channel that no re-send takes carries the oldest plan block where its kind admits one, and a
service block otherwise; the code-fetch position carries neither while a line is missing (R172). DESIGN CHOICE (log entry 40). -/
def execMarlPositionTransfer (stk ch : Nat) (crcOk : Bool) (ecc : EccEvent) (s : State) : Host.Outcome State Fault Refusal :=
  .next (let c := (s.stack stk).chan ch
    let pos := s.posNow
    if pos < c.pos || (c.again.any fun x => s.resendDue x.2 pos) || c.refreshes s.frameNow ch then s
    else match s.planNext c ch with
      | some (b, r) =>
        (s.modChan stk ch fun x => { x with plan := r, pos := pos + 1, disp := if r.isEmpty then 0 else if pos % 47 = 46 then x.disp - 1 else x.disp }).blkFirst
          stk ch b crcOk ecc
      | none => if pos % 47 = 45 && s.missFor stk ch then s else s.svcPosition stk ch)

/-- MARL_BLOCK_RESEND: the block that failed first is sent again in the first position that begins at least 6 t after the end of the
failed one, whatever its kind; a second failure raises a Marl transfer fault against the owner of the region (R179, R180). -/
def execMarlBlockResend (stk ch : Nat) (crcOk : Bool) (ecc : EccEvent) (s : State) : Host.Outcome State Fault Refusal :=
  .next (let c := (s.stack stk).chan ch
    let pos := s.posNow
    match c.again with
    | [] => s
    | (b, fp) :: r =>
      if !s.resendDue fp pos || decide (pos < c.pos) then s
      else
        let s1 := s.modChan stk ch fun x =>
          { x with again := r, pos := pos + 1, disp := if x.plan.isEmpty ∨ 45 ≤ pos % 47 then x.disp else x.disp + 1 }
        let s2 := s1.blkMeter stk ch b
        if crcOk then s2.blkChecked b ecc
        else ((s2.crcFail stk ch b).blkLost b).transferFault b.addr (some b.tile) (transferFields stk ch fp pos b.op.isWrite b.addr))

/-- A missing line may cross now: its channel's code-fetch position is in progress and free, outside a window and with no re-send due. -/
def State.codePos (s : State) (line : Nat) : Bool :=
  let o := line * 256 % stackSize
  let ch := chanOf o
  let c := (s.stack (line * 256 / stackSize)).chan ch
  let pos := s.posNow
  decide (pos % 47 = 45) && decide (c.pos ≤ pos) && !inWindow s.frameNow ch && !(c.again.any fun x => s.resendDue x.2 pos)

/-- ICACHE_MISS_FILL: a line that the front end misses crosses in the code-fetch position of its channel, one line in a position (R104,
R172), its CRC and ECC outcome as the marks of its block say (R178, R182); a line of memory that the partition does not own reads as zeros
and is counted (R81, R166). DESIGN CHOICE (log entry 40). -/
def execIcacheMissFill (t : Nat) (s : State) : Host.Outcome State Fault Refusal :=
  .next (let foreign := fun l : Nat => (s.marlFault (l * 256) 1).isSome || !s.blkOwned t (l * 256)
    match (s.tile t).fe.miss.find? fun l => foreign l || (s.codePos l && !s.lineComing t l) with
    | none => s
    | some l =>
      if foreign l then (s.modTile t fun v => v.icArrive l (zeros 256)).devCount .xpartMem 1
      else
        let stk := l * 256 / stackSize
        let ch := chanOf (l * 256 % stackSize)
        let b : Blk := { addr := l * 256, tile := t, fly := 0, op := .rdLine true, rdy := s.now }
        let u := (s.modDev fun d => { d with crcBad := d.crcBad.erase b.addr }).modChan stk ch fun x => { x with pos := s.posNow + 1 }
        u.blkFirst stk ch b (!s.dev.crcBad.contains b.addr) .clean)

/-- MARL_REFRESH_WINDOW: a channel's window begins; a change of refresh rate takes effect; in a window that is not used for refresh the
stack runs known-answer segments on 8 engines (R173, R174, R510), and in one that is the engines of the channel do no work (R214). -/
def execMarlRefreshWindow (stk ch : Nat) (katPass : Bool) (s : State) : Host.Outcome State Fault Refusal :=
  .next (let f := s.frameNow
    let c := (s.stack stk).chan ch
    let w := windowOf f ch
    if !inWindow f ch || c.win = w + 1 then s
    else
      let hot := (s.stack stk).hot || (s.stack stk).force2x
      let s1 := s.modChan stk ch fun x => { x with win := w + 1, hot := hot }
      if hot || w % 2 = 1 then
        s1.modStack stk fun k => { k with sweep := k.sweep.map fun x => { x with refr := bump 32 (2 * s.frame) x.refr ch } }
      else
        let s2 := (s1.modStack stk fun k => { k with kat := (k.kat + 8) % 256 }).devCount .katSeg 1
        if katPass then s2
        else
          let s3 := match (List.range 48).findSome? fun i => s2.owner 1 (48 * stk + i) with
            | some p => s2.raise p (FInfo.dev 0x1B 0 [word stk, word s2.posNow])
            | none => s2
          s3.askTest 6 stk)

/-- STACK_TEMP_CHANGE: at 85 C the stack goes to the doubled rate, and below 80 C back (R174, Table 6.7). -/
def execStackTempChange (stk temp : Nat) (s : State) : Host.Outcome State Fault Refusal :=
  .next (s.modStack stk fun k => { k with temp := temp % 256, hot := if 85 ≤ temp then true else if temp < 80 then false else k.hot })

/-- PATROL_SCRUB: a stack reads a sector in a service block and writes back its corrected form (R182, R183). -/
def execPatrolScrub (stk sector : Nat) (ecc : EccEvent) (s : State) : Host.Outcome State Fault Refusal :=
  .next (if !s.stackUp stk then s else
    let a := stk * stackSize + 32 * (sector % (48 * 2 ^ 25))
    let s1 := (s.modStack stk fun k => { k with patrol := (sector + 1) % (48 * 2 ^ 25) }).svcBlk a
    let bad := fun u : State =>
      let u1 := (u.markBad a).askTest 1 (a / 16384)
      match u1.ownerAt a with
      | some p => u1.raise p (FInfo.dev 0x0B 2 (marlFields a))
      | none => u1
    match ecc, s1.badIn a 32 with
    | .uncorrectable _, _ => bad s1
    | _, some _ => bad s1
    | .corrected _, none => s1.countCe a 1
    | .clean, none => (s1.memSoft a 32).modDev fun d => { d with soft := d.soft.filter fun x => decide (x < a ∨ a + 32 ≤ x) })

/-- CELLAR_REFRESH: the Porch dies refresh the Cellar as DDR5 requires; its contents stay (R189). -/
def execCellarRefresh (ch : Nat) (s : State) : Host.Outcome State Fault Refusal :=
  .next (if bit s.pwr.chpop ch then s else s)

/-- KAT_SEGMENT: in a maintenance beat the tile runs the next of 2,048 known-answer segments; a wrong answer raises a
known-answer fault, and the whole sequence is tested (R510). DESIGN CHOICE (log entry 41). -/
def execKatSegment (t : Nat) (pass : Bool) (s : State) : Host.Outcome State Fault Refusal :=
  .next (let v := s.tile t
    let maint := match s.courseOf t with
      | some c => decide (c.len < v.tim.beat + c.maint)
      | none => false
    if !maint || v.katAt = v.tim.cb + 1 then s
    else
      let s1 := (s.modTile t fun x => { x with kat := (x.kat + 1) % 2048, katAt := x.tim.cb + 1 }).devCount .katSeg 1
      if pass then s1 else (s1.tileFault t 0x1B 0 0 [word v.kat]).askTest 5 t)

end Sys2Proof.Machine
end

