-- ==== Sys2Proof/Machine/Access.lean ====
section
/-! DEFINITION. Who may access a register (R448, R470, R530): the device owner is the PF of a host port or the sideband;
virtual function n acts for partition n - 1. -/

namespace Sys2Proof.Machine

/-- A function answers requests: its port's link is up, and a virtual function has been enabled by the host (R448). -/
def State.fnUp (s : State) (hp fn : Nat) : Bool :=
  decide (hp < 2) && (s.hport hp).up && decide (fn ≤ (s.hport hp).vfs)

/-- The accessor reaches the device. -/
def State.accUp (s : State) : Accessor → Bool
  | .host hp fn => s.fnUp hp fn
  | .sideband => true

/-- The accessor has device-owner access. -/
def accOwner : Accessor → Bool
  | .host _ fn => fn = 0
  | .sideband => true

/-- The accessor may touch what belongs to a partition. -/
def accFor (a : Accessor) (p : Nat) : Bool :=
  match a with
  | .host _ fn => decide (fn = 0 ∨ fn = p + 1)
  | .sideband => true

/-- An access through a VF to what is not its partition's is counted (R470). -/
def State.regViol (s : State) : State := s.modCmd fun c => { c with regViol := satAdd 32 c.regViol 1 }

/-- A write that only the device owner may make. -/
def State.devWrite (s : State) (a : Accessor) (f : State → State) : State :=
  if !s.accUp a then s else if accOwner a then f s else s.regViol

/-- A write to a register of a partition. -/
def State.partWrite (s : State) (a : Accessor) (p : Nat) (f : State → State) : State :=
  if !s.accUp a || decide (64 ≤ p) then s else if accFor a p then f s else s.regViol

/-- Bytes that a read returns. -/
def State.readReply (s : State) (bs : List Byte) : State := s.modCmd fun c => { c with rd := bs }

end Sys2Proof.Machine
end

