-- ==== Sys2Proof/Machine/Clocks.lean ====
section
/-! DEFINITION. Room clocks (R223 to R230), reference monitoring and holdover (R235 to R238), and the discipline of Mantel
time (R239 to R246). -/

namespace Sys2Proof.Machine

/-! ## Room clocks: lengths in tenths of a tick -/

/-- A Room begins its next beat: its length, its step-down (R228), and the events that fall on it. -/
def Room.begin (b10 : Nat) (r : Room) : Room :=
  let sd := decide (0 < r.step)
  let len := b10 + r.nxtAdd + (if sd then 1 else 0)
  let r1 : Room :=
    { r with clk := r.clk + 1, sbn := r.sbn + 1, beg := r.edge, edge := r.edge + len, nxtAdd := 0, curEv := r.nxtEv, nxtEv := 0,
             stepCur := sd, stepPrev := r.stepCur, step := if r.arm then 1024 else r.step - 1, stepOn := r.stepOn || r.arm, arm := false }
  if sd then r1.count .stepdn 1 else r1

/-- The beats that begin up to a tenth of a tick of device time. -/
def Room.advance (b10 : Nat) : Nat → Nat → Room → Room
  | 0, _, r => r
  | n + 1, t10, r => if r.edge ≤ t10 then Room.advance b10 n t10 (r.begin b10) else r

/-- Tiles whose Room is `r`. -/
def State.tilesIn (s : State) (r : Nat) : List Nat := (List.range s.nTiles).filter fun t => s.roomOf t = r

/-- An event lengthens a Room's next beat by the larger of what applies to it, and every tile of the Room in its course is
charged for it in full (R229). DESIGN CHOICE (log entry 3). -/
def State.stretch (s : State) (r add e8 : Nat) : State :=
  let s1 := s.modRoom r fun x => { x with nxtAdd := max x.nxtAdd add, nxtEv := x.nxtEv + e8 }
  (s1.tilesIn r).foldl (fun u t => u.charge t .stretch e8) s1

/-- Own stretches in flight in the beat in progress: from the stretched beat, n + 1, through n + 4 (R225). DESIGN CHOICE (log entry 52). -/
def Room.inFlight (r : Room) : Nat := (r.own.filter fun o => decide (o.1 < r.clk ∧ r.clk ≤ o.1 + 4)).length

/-- The Room has answered a droop of the beat in progress with a stretch of its own: its added length. -/
def Room.answered (r : Room) : Option Nat := (r.own.find? fun o => decide (o.1 = r.clk)).map (·.2)

/-- Announce a stretch to every other Room: the echo falls on SBN n + 5 (R226). -/
def State.announce (s : State) (r add : Nat) : State :=
  let n := (s.room r).sbn - 1
  (List.range 16).foldl (fun u k => if k = r then u else
    u.modRoom k fun x => { x with echoes := x.echoes ++ [(n + 5, add, r)] }) s

/-- A level 2 droop of the beat in progress takes the place of a level 1 droop answered in it. DESIGN CHOICE (log entry 52). -/
def Room.upgrade (r : Room) : Room :=
  let own := r.own.map fun o => if o.1 = r.clk then (o.1, 4) else o
  let ctr := SMap.put 0 r.ctr RoomCtr.str25.idx (SMap.get 0 r.ctr RoomCtr.str25.idx - 1)
  ({ r with own := own, ctr := ctr } : Room).count .str50 1

/-- DROOP_DETECT (R225, Table 8.1): level 1 stretches the next beat by 25%, level 2 by 50%; with two own stretches in
flight either raises the alarm (R227). Of two droops in one beat only a level 2 is answered; a beat in which the Room has raised its own
alarm has been answered, and one that another Room's alarm stretches has not. DESIGN CHOICE (log entry 52). -/
def execDroopDetect (r level : Nat) (s : State) : Host.Outcome State Fault Refusal :=
  .next (let x := s.room r
    let add := if level = 1 then 2 else 4
    if x.clk = 0 || decide (16 ≤ r) || (level ≠ 1 && level ≠ 2) || decide (x.almAt = x.clk) then s
    else match x.answered with
      | some old =>
        if old = 2 ∧ level = 2 then
          let s1 := s.modRoom r Room.upgrade
          (List.range 16).foldl (fun u k => if k = r then u else
            u.modRoom k fun y => { y with echoes := y.echoes.map (fun e => if e = (x.sbn + 4, 2, r) then (e.1, 4, r) else e) })
            (s1.stretch r 4 2)
        else s
      | none =>
        if 2 ≤ x.inFlight then
          let s1 := (s.modRoom r fun y => ({ y with arm := true, almAt := y.clk } : Room).count .alarm 1).stretch r 4 4
          (List.range 16).foldl (fun u k => if k = r then u else u.modRoom k fun y => { y with alarm := y.alarm + 1 }) s1
        else
          let s1 := s.modRoom r fun y => ({ y with own := y.own.filter (fun (o : Nat × Nat) => decide (y.clk < o.1 + 5)) ++ [(y.clk, add)] } : Room).count
            (if level = 1 then .str25 else .str50) 1
          (s1.stretch r add add).announce r add)

/-- The multiple of 4,096 t, plus 1, that a time in tenths of a tick has reached. -/
def sbnEpoch (t : Int) : Nat := (t / 40960).toNat + 1

/-- SBN restarts at the edge at which the Room's beat in progress ends (R224). -/
def State.restartsNext (s : State) (r : Nat) : Bool :=
  let x := s.room r
  let e : Int := (x.edge : Int) + 10 * (s.mnt.now : Int) - 10 * (s.mnt.up : Int)
  decide (0 ≤ e ∧ sbnEpoch e ≠ x.sbnAt)

/-- STRETCH_ECHO (R226): the Room applies an announced stretch to its beat SBN n + 5, or to its next beat if that one has
begun; not to a beat at which SBN restarts. -/
def execStretchEcho (r : Nat) (s : State) : Host.Outcome State Fault Refusal :=
  .next (let x := s.room r
    match (if s.restartsNext r then none else x.echoes.find? fun e => decide (e.1 ≤ x.sbn)) with
    | none => s
    | some e => (s.modRoom r fun y => ({ y with echoes := y.echoes.erase e } : Room).count .echo 1).stretch r e.2.1 e.2.1)

/-- ALARM_ARRIVAL (R227): the Room stretches its next beat by 50%, and steps down from the beat after it. Each alarm is an event of its
own, charged in full (R229). -/
def execAlarmArrival (r : Nat) (s : State) : Host.Outcome State Fault Refusal :=
  .next (if 0 < (s.room r).alarm then (s.modRoom r fun y => { y with alarm := y.alarm - 1, arm := true }).stretch r 4 4 else s)

/-- STEPDOWN_END (R228): 1,024 stepped-down beats have begun, and the last of them has ended. -/
def execStepdownEnd (r : Nat) (s : State) : Host.Outcome State Fault Refusal :=
  .next (let x := s.room r
    if x.stepOn && decide (x.step = 0) && !x.stepCur && !x.arm then s.modRoom r fun y => { y with stepOn := false } else s)

/-- SBN_RESTART (R224): at the first beat edge at or after a Mantel tick that is a multiple of 4,096 the beat in progress
has SBN 0; echoes that wait are not applied (R226). SBN is kept as the number of beats begun since. -/
def execSbnRestart (r : Nat) (s : State) : Host.Outcome State Fault Refusal :=
  .next (let x := s.room r
    let m := sbnEpoch (s.begTicks r)
    if x.clk = 0 || s.begTicks r < 0 || x.sbnAt = m then s
    else s.modRoom r fun y => { y with sbn := 1, sbnAt := m, echoes := [] })

/-! ## References (R236 to R238) -/

def Mnt.ref (m : Mnt) (b : Bool) : RefIn := if b then m.refB else m.refA
def Mnt.setRef (m : Mnt) (b : Bool) (x : RefIn) : Mnt := if b then { m with refB := x } else { m with refA := x }

/-- A time fault against every partition that has a plan loaded (R238, R242, R245). -/
def State.timeFault (s : State) (cause : Nat) (fields : List Word) : State :=
  ((List.range 64).filter fun p => (s.part p).plan.isSome).foldl (fun u p => u.raise p (FInfo.dev 0x0F cause fields)) s

/-- With EN = 1, MASTER = 1 and a good reference the device is in TRACK at once (R241). -/
def Mnt.masterTrack (m : Mnt) : Mnt := if m.tdEn && m.master && m.active.isSome then { m with td := .track } else m

/-- A device whose EN was set while a plan was loaded begins to steer once every plan has been unloaded (R241). -/
def State.tdSettle (s : State) : State :=
  if s.mnt.tdEn && !s.mnt.master && decide (s.mnt.td = .unlocked) && !s.anyPlan then
    s.modMnt fun m => { m with td := .acquire, loaded := false, okRun := 0, tdAt := m.up }
  else s

/-- A reference becomes good: it is taken if none is in use, and holdover ends. -/
def State.refGood (s : State) (b : Bool) : State :=
  s.modMnt fun m =>
    let m1 := m.setRef b { m.ref b with good := true, goodAt := m.up }
    if m1.active.isNone then ({ m1 with active := some b, hold := false }).masterTrack else m1

/-- A reference becomes bad: fail-over to the other if that is good (R237), and otherwise holdover with a time fault (R238).
DEDUCED (log entry 53). -/
def State.refBad (s : State) (b : Bool) : State :=
  let m0 := s.mnt
  let s1 := s.modMnt fun m => m.setRef b { m.ref b with good := false, run := 0 }
  if m0.active ≠ some b then s1
  else if (m0.ref (!b)).good then (s1.modMnt fun m => { m with active := some (!b) }).mntCount .refFailover 1
  else (s1.modMnt fun m => { m with active := none, hold := true }).timeFault 1 []

/-- REFCLK_WINDOW_END: a window of 10 us of a reference is judged against Table 8.5; 1,000 good ones in a row make it good. -/
def execRefclkWindowEnd (ref : Nat) (w : RefWindow) (s : State) : Host.Outcome State Fault Refusal :=
  .next (if s.pwr.inReset || decide (2 ≤ ref) then s else
    let b := decide (ref = 1)
    let soft := decide (5000 < w.jitter) || decide (w.duty < 450) || decide (550 < w.duty)
    let freq := s.mnt.active.isSome && decide (200000 < w.offset)
    let hard := decide (10000 < w.jitter) || decide (w.duty < 400) || decide (600 < w.duty) || freq
    let s1 := if soft then s.mntCount (if b then .refbSoft else .refaSoft) 1 else s
    if hard then s1.refBad b
    else if soft then s1.modMnt fun m => m.setRef b { m.ref b with run := 0 }
    else
      let s2 := s1.modMnt fun m => m.setRef b { m.ref b with run := min 1000 ((m.ref b).run + 1) }
      if 1000 ≤ (s2.mnt.ref b).run ∧ !(s2.mnt.ref b).good then s2.refGood b else s2)

/-- REFCLK_MISSING_EDGES: three missing periods make a reference bad at once (R237). -/
def execRefclkMissingEdges (ref : Nat) (s : State) : Host.Outcome State Fault Refusal :=
  .next (if s.pwr.inReset || decide (2 ≤ ref) then s else s.refBad (decide (ref = 1)))

/-- REF_REVERT_TIMEOUT: with REVERT = 1 the generator returns to the preferred reference 10 s after it is good again (R237).
DEDUCED (log entry 53). DESIGN CHOICE (log entry 54). -/
def execRefRevertTimeout (s : State) : Host.Outcome State Fault Refusal :=
  .next (let m := s.mnt
    if m.revert && decide (m.active = some (!m.pref)) && (m.ref m.pref).good && decide ((m.ref m.pref).goodAt + 10000000000 ≤ m.up)
    then s.modMnt fun x => { x with active := some m.pref } else s)

/-! ## Time exchanges (R240, Table 10.2) -/

/-- The body of a time request or reply: T2, T3, XID and PTRK. -/
def timeBody (t2 t3 xid : Nat) (ptrk : Bool) : BitVec 192 :=
  BitVec.ofNat 192 (t2 % 2 ^ 64 + (t3 % 2 ^ 64) * 2 ^ 64 + (xid % 2 ^ 16) * 2 ^ 128 + put1 ptrk 144)

/-- Queue a message for a port's next control flits. -/
def Port.say (v : Port) (m : LinkMsg) : Port := { v with tx := { v.tx with msgs := v.tx.msgs ++ [m] } }

/-- The first message of a kind that has arrived at a port, and the port without it. -/
def Port.hear (v : Port) (mtype : Nat) : Option (LinkMsg × Port) :=
  (takeFirst (fun m : LinkMsg => decide (m.mtype = mtype)) v.rx.msgs).map fun x => (x.1, { v with rx := { v.rx with msgs := x.2 } })

/-- TIME_EXCHANGE_TIMER: every 1 ms an UP link asks its peer for the time. -/
def execTimeExchangeTimer (port : Nat) (s : State) : Host.Outcome State Fault Refusal :=
  .next (let v := s.port port
    if v.st ≠ .up || s.mnt.up < v.exAt + 1000000 then s
    else s.modPort port fun x =>
      { x with xid := (x.xid + 1) % 2 ^ 16, exAt := s.mnt.up }.say { mtype := 1, mseq := 0, body := timeBody 0 0 ((x.xid + 1) % 2 ^ 16) false })

/-- A device sets PTRK while it is in TRACK, and a master always sets it (R241). -/
def Mnt.ptrk (m : Mnt) : Bool := decide (m.td = .track) || m.master

/-- TIME_REQUEST_RECEIVE: the device replies with T2, the time at its pins, and PTRK; T3 is stamped as the reply leaves. -/
def execTimeRequestReceive (port t2 : Nat) (s : State) : Host.Outcome State Fault Refusal :=
  .next (match (s.port port).hear 1 with
    | none => s
    | some (m, v) =>
      let xid := bits m.body.toNat 128 16
      s.setPort port (v.say { mtype := 2, mseq := 0, body := timeBody t2 0 xid s.mnt.ptrk }))

/-- The port from which the device takes time. -/
def Mnt.timePort (m : Mnt) : Nat := if m.altUse then m.alt else m.parent

/-- The rate of a device that steers, in thousandths of a ppm from the reference rate, after an exchange: it moves by at most 0.5 ppm in a
millisecond and stays within 200 ppm (R241); how far it moves is the free value `Config.steer`. -/
def Mnt.steerRate (m : Mnt) (theta : Int) : Mnt :=
  if m.up < m.rateAt + 1000000 then m
  else
    let d := max (-500) (min 500 (Config.steer theta m.rate))
    { m with rate := max (-200000) (min 200000 (m.rate + d)), rateAt := m.up }

/-- Steering by an exchange with the parent (R241, R242): `theta` in tenths of a tick. DEDUCED (log entry 53). -/
def State.steer (s : State) (port : Nat) (theta : Int) (ptrk : Bool) : State :=
  let s1 := s.modMnt fun m => ({ m with theta := theta } : Mnt).steerRate theta
  let load := decide (s1.mnt.td = .acquire) && !s1.mnt.loaded
  let s2 := if load then s1.modMnt fun m => { m with now := ((m.now : Int) + (theta + 5) / 10).toNat, loaded := true } else s1
  let small := decide (theta.natAbs ≤ 20)
  let s3 := if small then s2 else s2.mntCount .tdOob 1
  let s4 := s3.modMnt fun m =>
    let r := if small && ptrk then min 16 (m.okRun + 1) else 0
    { m with okRun := r, td := if decide (16 ≤ r) && decide (m.td ≠ .unlocked) then .track else m.td }
  if theta.natAbs ≤ 50 then s4
  else (s4.modMnt fun m => { m with td := if m.td = .track then .acquire else m.td, okRun := 0 }).timeFault 2 [word (scode 32 theta), word port]

/-- A cable delay measured during a run that leaves the plan's interval (c - 1, c] (R243, R245). -/
def State.checkDelay (s : State) (port delay : Nat) : State :=
  (List.range 64).foldl (fun u p =>
    let v := u.part p
    match v.plan with
    | none => u
    | some pl =>
      match pl.links[port]? with
      | some (c, true) =>
        if v.running && !(decide (10 * c < delay + 10) && decide (delay ≤ 10 * c)) then u.raise p (FInfo.dev 0x0F 4 [word port, word delay, word c])
        else u
      | _ => u) s

/-- A port has been silent for 3 ms. DESIGN CHOICE (log entry 54). -/
def State.silent (s : State) (n : Nat) : Bool := decide (max (s.port n).exRep s.mnt.tdAt + 3000000 ≤ s.mnt.up)

/-- A link is down: DOWN, or training again after it; a retrain is not (R243, R315). -/
def State.linkDown (s : State) (n : Nat) : Bool := decide ((s.port n).st = .down ∨ (s.port n).st = .train)

/-- The port that the device does not take time from. -/
def Mnt.otherPort (m : Mnt) : Nat := if m.altUse then m.parent else m.alt

/-- The device takes its parent from the other port at the next exchange: ALTEN = 1, and the link in use is down or has been silent for
3 ms (R243). DEDUCED (log entry 53). -/
def State.altDue (s : State) : Bool :=
  let m := s.mnt
  m.tdEn && !m.master && m.altEn && decide (m.td ≠ .unlocked) && (s.silent m.timePort || s.linkDown m.timePort)

/-- TIME_REPLY_RECEIVE: theta = ((t2 - t1) - (t4 - t3)) / 2 and the cable delay ((t2 - t1) + (t4 - t3)) / 2, in tenths, the delay rounded up
to the next tenth (R52, R240). t1 is what the port recorded as its request left; the row's own is not looked at. DESIGN CHOICE (log entry 61). -/
def execTimeReplyReceive (port _t1 t4 : Nat) (s : State) : Host.Outcome State Fault Refusal :=
  .next (match (s.port port).hear 2 with
    | none => s
    | some (m, v) =>
      let b := m.body.toNat
      let d1 : Int := (bits b 0 64 : Int) - v.t1
      let d2 : Int := (t4 : Int) - (bits b 64 64 : Int)
      if bits b 128 16 ≠ v.xid || v.st ≠ .up then s.setPort port v
      else
        let theta := (d1 - d2) / 2
        let delay := ((d1 + d2 + 1) / 2).toNat
        let s0 := if s.altDue && decide (port = s.mnt.otherPort) then s.modMnt fun x => { x with altUse := !x.altUse } else s
        let s1 := (s0.setPort port { v with delay := delay, exRep := s.mnt.up }).checkDelay port delay
        let x := s1.mnt
        if x.tdEn && !x.master && decide (x.td ≠ .unlocked) && decide (port = x.timePort) then s1.steer port theta (bit b 144) else s1)

/-! ## Discipline (R241 to R243) -/

/-- PARENT_SILENCE_TIMEOUT: a silent or lost parent is replaced by the alternate (R243); with both silent, HOLDOVER (Table 8.8).
DEDUCED (log entry 53). -/
def execParentSilenceTimeout (s : State) : Host.Outcome State Fault Refusal :=
  .next (let m := s.mnt
    let held := decide (m.td = .track) || (decide (m.td = .acquire) && m.loaded)
    if !m.tdEn || m.master then s
    else if s.altDue && decide ((s.port m.otherPort).st = .up) && !s.silent m.otherPort then
      s.modMnt fun x => { x with altUse := !x.altUse }
    else if held && s.silent m.timePort && (!m.altEn || s.silent m.otherPort) then
      s.modMnt fun x => { x with td := .holdover, holdAt := x.up, holdFlt := false, okRun := 0 }
    else s)

/-- HOLDOVER_LIMIT: 10 ms in HOLDOVER raise a time fault (R242). DESIGN CHOICE (log entry 54). -/
def execHoldoverLimit (s : State) : Host.Outcome State Fault Refusal :=
  .next (let m := s.mnt
    if decide (m.td = .holdover) && !m.holdFlt && decide (m.holdAt + 10000000 ≤ m.up) then
      (s.modMnt fun x => { x with holdFlt := true }).timeFault 3 []
    else s)

/-- MNT_TD_CTL: EN, MASTER, PARENT, ALTEN, ALT (Table 8.9), and the state that follows (R241): a device that stays a master, or stays none,
with EN = 1 keeps its state. -/
def execMntTdCtlWrite (acc : Accessor) (v : BitVec 32) (s : State) : Host.Outcome State Fault Refusal :=
  .next (s.devWrite acc fun u =>
    let en := flag v 0
    let ms := flag v 1
    let keep := en && u.mnt.tdEn && decide (ms = u.mnt.master)
    let u1 := u.modMnt fun m =>
      { m with tdEn := en, master := ms, parent := fld v 2 4, altEn := flag v 6, alt := fld v 7 4, altUse := false, okRun := 0, tdAt := m.up,
               td := if keep then m.td else .unlocked, loaded := m.loaded && keep }
    (u1.modMnt Mnt.masterTrack).tdSettle)

/-- MNT_WC_CTL.COMMIT applies the written pair together (R246). -/
def execMntWcCommit (acc : Accessor) (v : BitVec 32) (s : State) : Host.Outcome State Fault Refusal :=
  .next (s.devWrite acc fun u => if flag v 0 then u.modMnt fun m => { m with wcM := m.wcPendM, wcU := m.wcPendU } else u)

/-- A read of the low word of MNT_COUNT latches the high word (R238). -/
def execMntCountLowRead (acc : Accessor) (s : State) : Host.Outcome State Fault Refusal :=
  .next (if !s.accUp acc then s else
    (s.modMnt fun m => { m with latch := word (m.now / 2 ^ 32) }).readReply (toLE 4 (s.mnt.now % 2 ^ 32)))

end Sys2Proof.Machine
end

