-- ==== Sys2Proof/Machine/Ports.lean ====
section
/-! DEFINITION. The transmit side of an Eloagal port: the frame grid (R254 to R258), the filling of positions ahead (R261,
R274 to R276), the link-position queue (R308, R311), and a port's ways into RETRAIN and DOWN (R315 to R318). -/

namespace Sys2Proof.Machine

/-! ## The grid, in 1/640 t: a position lasts 219 (R254) -/

/-- A time in ticks. -/
def tk (n : Nat) : Nat := 640 * n

/-- A plan uses a port: one of its plan links, or named by its plan route table (R317). -/
def Plan.usesPort (pl : Plan) (n : Nat) : Bool := pl.linkPorts.contains n || pl.routes.any fun r => decide (r.2 = n)

/-- The partition whose running plan uses a port. -/
def State.userOf (s : State) (n : Nat) : Option Nat :=
  (List.range 64).find? fun p => let v := s.part p
                                 v.running && v.plan.any fun pl => pl.usesPort n

/-- Starts of the courses about the present of the plan that uses a port: frame 0 begins at each (R256). DESIGN CHOICE (log entry 56). -/
def State.gridStarts (s : State) (n : Nat) : List Nat :=
  match s.userOf n with
  | none => []
  | some p =>
    let v := s.part p
    (List.range 3).filterMap fun i => if v.run.course + i = 0 then none else (v.startOf (v.run.course + i - 1)).map tk

/-- The latest course start up to a time of the plan that uses a port. -/
def State.lastStart (s : State) (n x : Nat) : Option Nat :=
  (s.gridStarts n).foldl (fun a b => if b ≤ x then some (max b (a.getD 0)) else a) none

/-- The start of the grid that holds at a time: the latest course start of the plan that uses the port, or else the group in progress (R256). -/
def State.anchor (s : State) (n x : Nat) : Nat := (s.lastStart n x).getD (min x (s.port n).tx.grp)

/-- The next course start after a time: no position may end after it (R256). -/
def State.bound (s : State) (n x : Nat) : Option Nat :=
  (s.gridStarts n).foldl (fun a b => if b ≤ x then a else match a with
    | none => some b
    | some c => some (min b c)) none

/-- The start of the position that holds a time, and of the position after that one. -/
def State.posOf (s : State) (n x : Nat) : Nat := let a := s.anchor n x
                                                a + 219 * ((x - a) / 219)
def State.nextPos (s : State) (n x : Nat) : Nat :=
  let y := x + 219
  match s.bound n x with
  | some b => if b < y + 219 then b else y
  | none => y

/-- The first group of a port that comes UP at a time: the one in progress on the grid of the plan that uses the port, while its control
position is still to come; on any other port, one that begins at that time (R256, R316). -/
def State.groupFrom (s : State) (n x : Nat) : Nat :=
  match s.lastStart n x with
  | none => x
  | some a =>
    let g := a + 7008 * ((x + 218 - a) / 7008)
    match s.bound n x with
    | some b => min b g
    | none => g

/-- Number of a position in its frame grid, from the grid's start. DESIGN CHOICE (log entry 56). -/
def State.posIdx (s : State) (n x : Nat) : Nat := (x - s.anchor n x) / 219
/-- Reserved positions: p mod 16 = 15 (R254). -/
def State.reservedPos (s : State) (n x : Nat) : Bool := decide (s.posIdx n x % 16 = 15)

def Port.slotAt (v : Port) (x : Nat) : Option Slot := SMap.find v.tx.slots x
def emptySlot : Slot := { kind := .occupied, flit := 0, seq := 0, part := 0, hdr := 0, t0 := 0, own := false }
def Port.setSlot (v : Port) (x : Nat) (k : Slot) : Port := { v with tx := { v.tx with slots := SMap.set v.tx.slots x k } }

/-- A slot that belongs to plan traffic in an open position. -/
def Slot.planned (k : Slot) : Bool := decide (k.kind = .plan ∨ k.kind = .occupied)
/-- A link flit (R294). -/
def Slot.isLink (k : Slot) : Bool := decide (k.kind = .control ∨ k.kind = .linkPlan ∨ k.kind = .replay)
/-- Two slots of one plan packet. -/
def Slot.same (k o : Slot) : Bool := decide (o.hdr = k.hdr ∧ o.t0 = k.t0 ∧ o.own = k.own)
/-- The slot of a plan packet. -/
def planSlot (part : Nat) (hdr : Flit) (t0 : Nat) (own : Bool) : Slot :=
  { kind := .plan, flit := hdr, seq := 0, part := part, hdr := hdr, t0 := t0, own := own }
/-- The slot of a service flit of the replay buffer. -/
def svcSlot (f : TxFlit) : Slot := { kind := .service, flit := f.flit, seq := f.seq, part := f.part, hdr := f.hdr, t0 := f.first, own := false }

/-! ## Filling positions -/

/-- Put service flits, in order, into the free open positions from a position on. -/
def State.layService (s : State) (n : Nat) : Nat → Nat → List Slot → State
  | 0, _, _ => s
  | _, _, [] => s
  | fuel + 1, x, k :: r =>
    if s.reservedPos n x || ((s.port n).slotAt x).isSome then State.layService s n fuel (s.nextPos n x) (k :: r)
    else State.layService (s.modPort n fun v => v.setSlot x k) n fuel (s.nextPos n x) r

/-- Take the service flits that are still to be sent from a position on, and lay them again around what has claimed their
places (R261). -/
def State.relay (s : State) (n x : Nat) : State :=
  let svc := ((s.port n).tx.slots.filter fun k => decide (x ≤ k.1 ∧ k.2.kind = .service)).map (·.2)
  let s1 := s.modPort n fun v =>
    { v with tx := { v.tx with slots := v.tx.slots.filter fun k => !decide (x ≤ k.1 ∧ k.2.kind = .service) } }
  s1.layService n (svc.length + 4096) x svc

/-- The first position from `x` on that no plan flit and no other link flit occupies (R274). -/
def State.linkPos (s : State) (n : Nat) : Nat → Nat → Nat
  | 0, x => x
  | fuel + 1, x =>
    match (s.port n).slotAt x with
    | some k => if k.kind = .service then x else State.linkPos s n fuel (s.nextPos n x)
    | none => x

/-- A control flit that leaves in the position `y`: T3 of a time reply is stamped (R240, R300). -/
def stampControl (f : Flit) (y : Nat) : Flit :=
  if bits f.toNat 96 4 = 2 then BitVec.ofNat 512 (f.toNat - bits f.toNat 384 64 * 2 ^ 384 + (10 * y / 640) % 2 ^ 64 * 2 ^ 384) else f

/-- A link flit in the position `y`; the port records t1 as a time request leaves its pins (R240, R300). -/
def Port.putStamped (v : Port) (y : Nat) (k : Slot) : Port :=
  if k.kind ≠ .control then v.setSlot y k
  else
    let w := v.setSlot y { k with flit := stampControl k.flit y }
    if bits k.flit.toNat 96 4 = 1 then { w with t1 := 10 * y / 640 } else w

/-- Put a link flit at its reserved position, or at the first later one that is free of plan flits (R274). -/
def State.putLink (s : State) (n x : Nat) (k : Slot) : State :=
  let y := s.linkPos n 1024 x
  match (s.port n).slotAt y with
  | none => s.modPort n fun v => v.putStamped y k
  | some old =>
    let s1 := s.modPort n fun v => v.putStamped y k
    (s1.modPort n fun v => v.setSlot (y + 1) old).relay n y

/-- What would be sent in a position that ends after a course start at `b` leaves in the first positions of the new grid, link flits
before service flits (R256). -/
def State.refit (s : State) (n b : Nat) : State :=
  let off := (s.port n).tx.slots.filter fun k => decide (b < k.1 + 219) && !k.2.planned
  let s1 := s.modPort n fun v => { v with tx := { v.tx with slots := v.tx.slots.filter fun k => !(decide (b < k.1 + 219) && !k.2.planned) } }
  let s2 := (off.filter fun k => k.2.isLink).foldl (fun u k => u.putLink n b k.2) s1
  s2.layService n (off.length + 4096) b ((off.filter fun k => !k.2.isLink).map (·.2))

/-! ## Placing plan packets (R274 to R276) -/

/-- Positions of the flits of a plan packet that leave at given times: each flit takes the position in which it begins, and
occupies the next one too where it overlaps that. -/
def State.planKeys (s : State) (n : Nat) (times : List (Nat × Flit)) (k : Slot) : List (Nat × Slot) :=
  times.flatMap fun tf =>
    let x := s.posOf n tf.1
    let me := (x, { k with kind := .plan, flit := tf.2 })
    if x = tf.1 then [me] else [me, (s.nextPos n x, { k with kind := .occupied })]

/-- Remove a packet's positions. -/
def Port.dropPlan (v : Port) (k : Slot) : Port :=
  { v with tx := { v.tx with slots := v.tx.slots.filter fun e => !(e.2.planned && e.2.same k) } }

/-- A plan packet is dropped in a collision: counted, and a fault against its partition (R276, R293). -/
def State.collide (s : State) (n x : Nat) (lose win : Slot) : State :=
  let q := s.posIdx n x
  let w := fun h : Flit => word (bits h.toNat 0 32)
  (s.portCount n .planColl 1).raise lose.part (FInfo.dev 0x11 0 [word n, word (q / 1024), word (q % 1024), w lose.hdr, w win.hdr])

/-- The first of a packet's positions that another plan packet holds. -/
def Port.clash (v : Port) (ks : List (Nat × Slot)) : Option (Nat × Slot) :=
  ks.findSome? fun e => match v.slotAt e.1 with
    | some o => if o.planned && !o.same e.2 then some (e.1, o) else none
    | none => none

/-- Put the positions of a packet on the grid; a real flit takes the place of its packet's own overlap. -/
def Port.putPlan (v : Port) : List (Nat × Slot) → Port
  | [] => v
  | (x, k) :: r =>
    Port.putPlan (match v.slotAt x with
      | some o => if k.kind = .occupied ∧ o.planned then v else v.setSlot x k
      | none => v.setSlot x k) r

/-- Give a packet its positions: link flits that stood in them move to later ones (R274), and the service flits from the first on are laid
around them (R261). -/
def State.claim (s : State) (n : Nat) (ks : List (Nat × Slot)) : State :=
  match ks with
  | [] => s
  | (x, _) :: _ =>
    let moves := fun k : Nat × Slot => decide (x ≤ k.1 ∧ k.2.kind = .service) || (k.2.isLink && ks.any fun e => e.1 = k.1)
    let off := (s.port n).tx.slots.filter moves
    let s1 := s.modPort n fun v => ({ v with tx := { v.tx with slots := v.tx.slots.filter fun k => !moves k } } : Port).putPlan ks
    let s2 := (off.filter fun k => k.2.isLink).foldl (fun u k => u.putLink n k.1 k.2) s1
    s2.layService n (off.length + 4096) x ((off.filter fun k => !k.2.isLink).map (·.2))

/-- Keep the positions of a packet whose header has been received occupied, where no other plan packet holds one of them (R261, R308). -/
def State.reserve (s : State) (n : Nat) (times : List (Nat × Flit)) (k : Slot) : State :=
  let ks := (s.planKeys n times k).map fun e => (e.1, { e.2 with kind := .occupied })
  if ((s.port n).clash ks).isSome then s else s.claim n ks

/-- Place a plan packet. Of two that would occupy one position the one whose first flit leaves first is sent; together, a
forwarded one wins over a departure (R276). Positions kept for a packet that has not been received whole give way without a count. -/
def State.placePlan (s : State) (n : Nat) (times : List (Nat × Flit)) (k : Slot) : Nat → State
  | 0 => s
  | fuel + 1 =>
    let ks := s.planKeys n times k
    match (s.port n).clash ks with
    | none => s.claim n ks
    | some (x, o) =>
      if o.t0 < k.t0 ∨ (o.t0 = k.t0 ∧ k.own) then s.collide n x k o
      else
        let whole := (s.port n).tx.slots.any fun e => decide (e.2.kind = .plan) && e.2.same o
        let s1 := s.modPort n fun v => v.dropPlan o
        State.placePlan (if whole then s1.collide n x o k else s1) n times k fuel

/-- The first open positions from a time on that no plan flit occupies, one for each flit (R63). -/
def State.openTimes (s : State) (n : Nat) : Nat → Nat → List Flit → List (Nat × Flit)
  | 0, _, _ => []
  | _, _, [] => []
  | fuel + 1, x, f :: r =>
    if s.reservedPos n x || ((s.port n).slotAt x).any Slot.planned then State.openTimes s n fuel (s.nextPos n x) (f :: r)
    else (x, f) :: State.openTimes s n fuel (s.nextPos n x) r

/-- The consecutive open positions that a departure takes from its departure position on (R258). -/
def State.depTimes (s : State) (n : Nat) : Nat → Nat → List Flit → List (Nat × Flit)
  | 0, _, _ => []
  | _, _, [] => []
  | fuel + 1, x, f :: r =>
    if s.reservedPos n x then State.depTimes s n fuel (s.nextPos n x) (f :: r)
    else (x, f) :: State.depTimes s n fuel (s.nextPos n x) r

/-! ## Messages -/

/-- Queue a launch message (type 0x3) or a retrain request (type 0x4) with the next MSEQ (R300). -/
def Port.sayNumbered (v : Port) (mtype : Nat) (body : BitVec 192) : Port :=
  let q := (v.tx.mseq + 1) % 256
  ({ v with tx := { v.tx with mseq := q } }).say { mtype := mtype, mseq := q, body := body }

/-- Ask for a retrain: the port enters RETRAIN once the request has been sent (R316). DESIGN CHOICE (log entry 57). -/
def State.wantRetrain (s : State) (n : Nat) : State :=
  if (s.port n).tx.msgs.any fun m => decide (m.mtype = 4) then s else s.modPort n fun v => v.sayNumbered 4 0

/-! ## Plan replays (R311) -/

/-- The next replay of a plan flit is on its way: in the link-position queue, waiting for a place in it, or in a position. -/
def Port.replaying (v : Port) (seq : Nat) : Bool :=
  (v.tx.lq.any fun q => !q.late && decide (q.seq = seq)) || v.tx.lqWait.contains seq ||
    v.tx.slots.any fun k => decide (k.2.kind = .replay ∧ k.2.seq = seq)

/-- Set the replay count of a plan flit. -/
def Port.setReps (v : Port) (seq r : Nat) : Port :=
  { v with tx := { v.tx with replay := v.tx.replay.map fun g => if g.plan && decide (g.seq = seq) then { g with reps := r } else g } }

/-- A replay takes its place in the link-position queue. -/
def Port.enqueueReplay (v : Port) (f : TxFlit) : Port :=
  let w := v.setReps f.seq (f.reps + 1)
  let q := w.tx.lq ++ [{ late := false, seq := f.seq, part := f.part, flit := f.flit, hdr := f.hdr, t0 := f.first }]
  ({ w with tx := { w.tx with lq := q } } : Port).peak .lqPeak q.length

/-- Replays that wait take the places of the queue that have become free, oldest first; one that has been acknowledged has left the
replay buffer and waits no more. -/
def Port.serveLq (v : Port) : Nat → Port
  | 0 => v
  | fuel + 1 =>
    match v.tx.lqWait with
    | [] => v
    | q :: r =>
      if 1024 ≤ v.tx.lq.length then v
      else
        let w : Port := { v with tx := { v.tx with lqWait := r } }
        Port.serveLq (match v.tx.replay.find? fun f => f.plan && decide (f.seq = q) with
          | some f => w.enqueueReplay f
          | none => w) fuel

/-- Put a plan flit of the replay buffer into the link-position queue, or let it wait for a place; a fourth replay asks for a retrain
instead, once (R311, R316). -/
def State.queueReplay (s : State) (n : Nat) (f : TxFlit) : State :=
  let v := s.port n
  if v.replaying f.seq || decide (4 ≤ f.reps) then s
  else if f.reps = 3 then (s.modPort n fun u => u.setReps f.seq 4).wantRetrain n
  else s.modPort n fun u => ({ u with tx := { u.tx with lqWait := u.tx.lqWait ++ [f.seq] } } : Port).serveLq (u.tx.lqWait.length + 1)

/-! ## Ports that send link-control positions alone (R283, R291) -/

/-- Under LFENCE = 1, or while FAB_DEVID is unassigned, a port sends nothing but control flits. -/
def State.quiet (s : State) (n : Nat) : Bool := (s.port n).lfence || decide (s.me = 0xFFFF)

/-- The first position that begins after the present one. -/
def State.pos0 (s : State) (n : Nat) : Nat := max (s.port n).tx.grp (s.nextPos n (s.posOf n (tk s.now)))

/-- A port goes quiet: plan packets in positions still to come are dropped, late and replayed flits go back to their queue, and service flits
wait in the replay buffer. DESIGN CHOICE (log entry 57). -/
def State.hush (s : State) (n : Nat) : State :=
  let x := s.pos0 n
  let off := (s.port n).tx.slots.filter fun k => decide (x ≤ k.1 ∧ k.2.kind ≠ .control)
  let gone := ((off.filter fun k => decide (k.2.kind = .plan)).map fun k => (k.2.hdr, k.2.t0, k.2.own)).eraseDups
  let back := (off.filter fun k => decide (k.2.kind = .linkPlan ∨ k.2.kind = .replay)).map fun k =>
    ({ late := decide (k.2.kind = .linkPlan), seq := k.2.seq, part := k.2.part, flit := k.2.flit, hdr := k.2.hdr, t0 := k.2.t0 } : LqFlit)
  s.modPort n fun v =>
    ({ v with tx := { v.tx with lq := back ++ v.tx.lq, slots := v.tx.slots.filter fun k => !decide (x ≤ k.1 ∧ k.2.kind ≠ .control) } } : Port).count
      .fenceDrop (if v.lfence then gone.length else 0)

/-- A port that is no longer quiet lays the service flits that wait. -/
def State.speak (s : State) (n : Nat) : State :=
  let v := s.port n
  let fl := v.tx.replay.filter fun f => !f.plan && f.ended.isNone && !v.tx.slots.any fun k => decide (k.2.kind = .service ∧ k.2.seq = f.seq)
  if v.st ≠ .up then s else s.layService n (fl.length + 4096) (s.pos0 n) (fl.map svcSlot)

/-- After a write that may have made a port quiet, or have ended that. -/
def State.settle (s : State) (n : Nat) (was : Bool) : State :=
  if s.quiet n = was then s else if was then s.speak n else s.hush n

/-! ## Entering RETRAIN and DOWN (R315 to R318) -/

/-- After the role switch W's Porch dies copy the packets of the partition to S by this port: it is a mirror link (R514). -/
def State.mirrorLink (s : State) (h : Shadow) (n : Nat) : Bool :=
  decide (h.role = 5) && (s.routeEntry s.fab.active h.peer).any fun e => bit e 4 && decide (bits e 0 4 = n)

/-- The link fault of a port: once in a run for every partition whose running plan uses it, or whose mirror link it is (R317, R322, R514). -/
def State.linkFault (s : State) (n newSt cause : Nat) : State :=
  (List.range 64).foldl (fun u p =>
    let v := u.part p
    if v.running && ((v.plan.any fun pl => pl.usesPort n) || u.mirrorLink v.sh n) && !(u.port n).faulted.contains p then
      (u.modPort n fun x => { x with faulted := x.faulted ++ [p] }).raise p
        (FInfo.dev 0x12 cause [word n, word (u.port n).peer, word newSt, word cause, word p])
    else u) s

/-- Packets of which the hold buffer keeps flits: by the chain of headers (R306); flits whose header is lost count as one packet. -/
def heldPackets (hold : SMap Flit) (head : Nat) : Nat → List Nat → Nat
  | 0, _ => 0
  | _, [] => 0
  | fuel + 1, k :: r =>
    let isHead := fun j => decide (j = head) || hcrcOk (SMap.get 0 hold j)
    if isHead k then
      let n := (Hdr.dec (SMap.get 0 hold k)).len
      1 + heldPackets hold head fuel (r.filter fun j => decide (k + n < j))
    else 1 + heldPackets hold head fuel (r.dropWhile fun j => !isHead j)

/-- Plan packets that a port drops (R316): those with a flit in its replay buffer, its link-position queue or its positions, those staged,
and those of the hold buffer. -/
def Port.planPackets (v : Port) : Nat :=
  ((v.tx.replay.filter fun f => f.plan).map (fun f => (f.hdr, f.first)) ++ v.tx.lq.map (fun q => (q.hdr, q.t0)) ++
    (v.tx.slots.filter fun k => decide (k.2.kind = .plan ∨ k.2.kind = .linkPlan)).map fun k => (k.2.hdr, k.2.t0)).eraseDups.length +
  (v.tx.dbuf.filter fun d => !d.void).length + heldPackets v.rx.hold v.rx.head v.rx.hold.length (v.rx.hold.map (·.1))

/-- Discard the plan state of a port (R316). -/
def Port.dropPlans (v : Port) : Port :=
  ({ v with tx := { v.tx with replay := v.tx.replay.filter (fun f => !f.plan), lq := [], lqWait := [], dbuf := [], psnNew := 0,
                              slots := [] },
            rx := { v.rx with hold := [], psnTop := 0, psnHi := 0, got := [], head := 0, lateP := [], arrT := [], lost := [], rsvd := [] } } : Port).count .planDrop v.planPackets

/-- Enter RETRAIN from UP. -/
def State.enterRetrain (s : State) (n cause : Nat) : State :=
  if (s.port n).st ≠ .up then s else
  let s1 := s.modPort n fun v =>
    ({ v.dropPlans with st := .retrain, cause := cause, since := s.mnt.up, attempt := 1,
                        tx := { v.dropPlans.tx with msgs := v.tx.msgs.filter fun m => decide (m.mtype = 3) } } : Port).count .retrain 1
  s1.linkFault n 3 cause

/-- Places of an ingress buffer are free again: the channel's returned count advances. DESIGN CHOICE (log entry 57). -/
def State.returnCredit (s : State) (ing : Option Nat) (vc k : Nat) : State :=
  match ing with
  | none => s
  | some n => s.modPort n fun v => { v with rx := { v.rx with crOut := SMap.put 0 v.rx.crOut vc (SMap.get 0 v.rx.crOut vc + k) } }

/-- The service packets that a port holds when it goes DOWN: queued, or with an unacknowledged flit (R318). -/
def Port.downPackets (v : Port) : List Flit :=
  (v.tx.replay.filter fun f => !f.plan && decide (f.seq = f.first)).map (·.hdr) ++
    ((v.tx.replay.filter fun f => !f.plan && decide (f.seq ≠ f.first) &&
        !(v.tx.replay.any fun g => !g.plan && decide (g.seq = f.first))).map fun f => (f.first, f.hdr)).eraseDups.map (·.2) ++
    (List.range 4).flatMap fun vc => (SMap.get [] v.tx.egress vc).map (·.hdr)

/-- The ingress places that the packets of a port going DOWN still hold: one for each flit that has not been transmitted (R304). -/
def Port.downPlaces (v : Port) : List (Option Nat × Nat × Nat) :=
  ((v.tx.replay.filter fun f => f.ing.isSome).map fun f => (f.ing, (Hdr.dec f.hdr).vc, 1)) ++
    (List.range 4).flatMap fun vc => (SMap.get [] v.tx.egress vc).map fun k => (k.ing, vc, k.data.length + 1)

/-- Enter DOWN from any other state: everything queued is dropped, and each service packet answered with status 0x4.
DESIGN CHOICE (log entries 58, 82). -/
def State.enterDown (s : State) (n cause : Nat) : State :=
  let v := s.port n
  if v.st = .down then s else
  let pk := v.downPackets
  let s1 := s.modPort n fun u =>
    let w := u.dropPlans
    let x : Port := { w with st := .down, cause := cause, since := s.mnt.up,
                             tx := { TxSide.reset with grp := w.tx.grp, mseq := w.tx.mseq },
                             rx := { RxSide.reset with ingress := w.rx.ingress, planIn := w.rx.planIn, mack := w.rx.mack } }
    let y := if u.st = .up ∨ u.st = .retrain then x.count .down 1 else x
    y.count .downDrop pk.length
  let s1' := v.downPlaces.foldl (fun u e => u.returnCredit e.1 e.2.1 e.2.2) s1
  let s2 := pk.foldl (fun u h => u.answerDrop (Hdr.dec h) 4) s1'
  let s3 := if cause = 7 ∨ cause = 8 then s2 else s2.askTest 7 n
  s3.linkFault n 0 cause

/-- Start training from DOWN: EN = 1 and the transmitter not squelched; in P3 ports stay DOWN (Table 17.7). -/
def State.enterTrain (s : State) (n : Nat) : State :=
  let v := s.port n
  if v.en && !v.efence && decide (v.st = .down) && decide (n < s.nPorts) && decide (s.pwr.state ≠ 3) then s.modPort n fun u => { u with st := .train, since := s.mnt.up } else s

/-! ## Credits (R304) -/

/-- Buffer of a channel (Table 9.2). DESIGN CHOICE (log entry 55). -/
def vcBuffer : Nat → Nat
  | 2 => 1024
  | 3 => 128
  | _ => 256

/-- Credits that the sender holds for a channel. -/
def Port.credits (v : Port) (vc : Nat) : Nat := vcBuffer vc + SMap.get 0 v.tx.crRet vc - SMap.get 0 v.tx.crUsed vc

/-- Waiting flagged packets and tallies (Table 9.12). -/
def Fab.occ (f : Fab) : Nat := f.src.foldl (fun n kv => n + kv.2.vest.length) 0
def Fab.tallies (f : Fab) : Nat := f.src.foldl (fun n kv => n + kv.2.tally.length) 0
def State.vestFull (s : State) : Bool := decide (256 ≤ s.fab.occ)

end Sys2Proof.Machine
end

