-- ==== Sys2Proof/Machine/Link.lean ====
section
/-! DEFINITION. The link layer (spec/10): groups and trailers (R294 to R297), control flits (R299, R300), service go-back-N
(R301 to R303), credits (R304, R305), plan flits and their selective replay (R306 to R312), and the states of a port (R314 to R320). -/

namespace Sys2Proof.Machine

/-! ## The receive side's report -/

/-- Lost PSNs as ranges of up to 32, oldest first. -/
def lossRanges : List Nat → List (Nat × Nat)
  | [] => []
  | p :: r =>
    match lossRanges r with
    | (q, k) :: l => if q = p + 1 ∧ k < 32 then (p, k + 1) :: l else (p, 1) :: (q, k) :: l
    | [] => [(p, 1)]

/-- A sorted list with a number added. -/
def insertNat (n : Nat) : List Nat → List Nat
  | [] => [n]
  | a :: r => if n < a then n :: a :: r else if n = a then a :: r else a :: insertNat n r

/-- PACK: every PSN up to it that is not in a listed range has been received (R309). -/
def RxSide.pack (x : RxSide) : Nat :=
  match (lossRanges x.lost)[6]? with
  | some (p, _) => (p + 65535) % 65536
  | none => (x.psnTop + 65535) % 65536

/-- The message that the next control flit carries: launch before retrain request before time exchange (R300). -/
def Port.nextMsg (v : Port) : Option LinkMsg :=
  match v.tx.msgs.find? fun m => decide (m.mtype = 3) with
  | some m => some m
  | none =>
    match v.tx.msgs.find? fun m => decide (m.mtype = 4) with
    | some m => some m
    | none => v.tx.msgs.head?

/-- A time message leaves the queue as it is sent; a numbered one stays until the peer holds it (R300). -/
def Port.sendMsgOf (v : Port) : Option LinkMsg × Port :=
  match v.nextMsg with
  | none => (none, v)
  | some m => if m.mtype = 3 ∨ m.mtype = 4 then (some m, v) else (some m, { v with tx := { v.tx with msgs := v.tx.msgs.erase m } })

/-- A control flit (Table 10.2); T3 of a time reply is stamped in the position in which it leaves. -/
def State.controlFlit (s : State) (n : Nat) : Flit × State :=
  let v := s.port n
  let cr := fun vc => SMap.get 0 v.rx.crOut vc % 65536
  let sig := if s.vestFull then v.rx.sigOut else cr 3
  let (m?, v1) := v.sendMsgOf
  let ls := (lossRanges v.rx.lost).take 6
  let mt := (m?.map (·.mtype)).getD 0
  let mq := (m?.map (·.mseq)).getD 0
  let body := (m?.map (·.body)).getD 0
  let ws : List Word :=
    [word ((v.rx.ssn + 65535) % 65536 + v.rx.pack * 65536), word (cr 0 + cr 1 * 65536), word (cr 2 + sig * 65536),
     word (mt + ls.length * 16 + mq * 2 ^ 8 + v.rx.mack * 2 ^ 16)] ++
    (List.range 6).map (fun i => match ls[i]? with
      | some (p, k) => word (p % 65536 + (k - 1) * 65536)
      | none => 0) ++
    (List.range 6).map (fun i => word (bits body.toNat (32 * i) 32))
  (flitOfWords ws, s.setPort n { v1 with rx := { v1.rx with sigOut := sig } })

/-! ## Sending -/

/-- REPLAY_POSITION_SEND: the head of the link-position queue, or a control flit (R296, R311); on a quiet port a control flit (R291). -/
def execReplayPositionSend (port : Nat) (s : State) : Host.Outcome State Fault Refusal :=
  .next (let v := s.port port
    let x := v.tx.grp + 15 * 219
    if v.st ≠ .up || v.tx.repl || tk (s.now + 1) ≤ x || ((s.bound port v.tx.grp).any fun b => decide (b < x + 219)) then s
    else
      let s1 := s.modPort port fun u => { u with tx := { u.tx with repl := true } }
      match (if s.quiet port then [] else v.tx.lq) with
      | q :: r =>
        let k : Slot := { kind := if q.late then .linkPlan else .replay, flit := q.flit, seq := q.seq, part := q.part, hdr := q.hdr, t0 := q.t0, own := false }
        (s1.modPort port fun u => ({ u with tx := { u.tx with lq := r } } : Port).serveLq (u.tx.lqWait.length + 1)).putLink port x k
      | [] =>
        let (f, s2) := s1.controlFlit port
        s2.putLink port x { emptySlot with kind := .control, flit := f, t0 := x })

/-- What the trailer of a group says, gathered position by position. -/
structure GroupAcc where
  flits : List (Nat × Flit)
  tmap  : Nat
  lkind : Nat
  nlink : Nat
  ssn   : Option Nat
  psn   : Option Nat
  rpsa  : Option Nat
  na    : Nat
  rpsb  : Option Nat
  /-- plan flits sent for the first time, and the flits of the replay buffer that were transmitted, each with its end -/
  news  : List (Slot × Nat)
  ended : List (SlotKind × Nat × Nat)
  deriving DecidableEq, Repr

def GroupAcc.empty : GroupAcc :=
  { flits := [], tmap := 0, lkind := 0, nlink := 0, ssn := none, psn := none, rpsa := none, na := 0, rpsb := none, news := [], ended := [] }

/-- Take one position into a group's trailer; `next` is the next plan sequence number. -/
def GroupAcc.add (a : GroupAcc) (next pos t : Nat) (k : Slot) : GroupAcc :=
  let b := { a with flits := a.flits ++ [(pos, k.flit)] }
  let link := fun (c : GroupAcc) (kd : Nat) =>
    { c with tmap := c.tmap + 3 * 2 ^ (2 * pos), lkind := c.lkind + kd * 2 ^ (2 * c.nlink), nlink := c.nlink + 1 }
  let psn := next + a.news.length
  match k.kind with
  | .occupied => a
  | .service => { b with tmap := b.tmap + 2 ^ (2 * pos), ssn := some (b.ssn.getD k.seq), ended := b.ended ++ [(SlotKind.service, k.seq, t)] }
  | .plan => { b with tmap := b.tmap + 2 * 2 ^ (2 * pos), psn := some (b.psn.getD psn), news := b.news ++ [(k, t)] }
  | .control => link b 0
  | .linkPlan => link { b with psn := some (b.psn.getD psn), news := b.news ++ [(k, t)] } 1
  | .replay =>
    let c := { b with ended := b.ended ++ [(SlotKind.replay, k.seq, t)] }
    match c.rpsa with
    | none => link { c with rpsa := some k.seq, na := 1 } 2
    | some p => if k.seq = p + c.na then link { c with na := c.na + 1 } 2 else link { c with rpsb := some (c.rpsb.getD k.seq) } 3

/-- The trailer of Table 10.1. -/
def trailerOf (flits : List (Nat × Flit)) (tmap lkind ssn psn ra rb : Nat) : BitVec 168 :=
  let body := tmap + lkind * 2 ^ 64 + (ssn % 65536) * 2 ^ 72 + (psn % 65536) * 2 ^ 88 + (ra % 65536) * 2 ^ 104 + (rb % 65536) * 2 ^ 120
  let bytes := (List.range 32).flatMap fun i => flitBytes (((flits.find? fun f => f.1 = i).map (·.2)).getD 0)
  BitVec.ofNat 168 (body + (crc32c (bytes ++ toLE 17 body)).toNat * 2 ^ 136)

/-- The sequence number that a group's trailer gives when it holds no service flit: the next to be sent. -/
def Port.nextSsn (v : Port) : Nat :=
  match v.tx.slots.find? fun k => decide (k.2.kind = .service) with
  | some k => k.2.seq
  | none => v.tx.ssnNew

/-- The end of a flit's transmission in a group, if the group carries it. -/
def GroupAcc.endOf (a : GroupAcc) (f : TxFlit) : Option Nat :=
  (a.ended.find? fun x => decide (x.2.1 = f.seq) && (decide (x.1 = SlotKind.replay) == f.plan)).map (·.2.2)

/-- The end of a position in device time, in 1/640 t. -/
def State.endAt (s : State) (x : Nat) : Nat := 640 * s.mnt.up + (x + 219) - tk s.now

/-- Close the group in progress: number its first-time plan flits, note the ends of transmissions, return the ingress places of the
flits it has transmitted for the first time (R304), put the group on the pins. DESIGN CHOICE (log entry 56). -/
def State.closeGroup (s : State) (n e : Nat) : State :=
  let v := s.port n
  let g := v.tx.grp
  let mine := v.tx.slots.filter fun k => decide (k.1 < e)
  let a := mine.foldl (fun (b : GroupAcc) k => b.add v.tx.psnNew ((k.1 - g) / 219) (s.endAt k.1) k.2) GroupAcc.empty
  let rest := v.tx.slots.filter fun k => decide (e ≤ k.1)
  let ssn := a.ssn.getD ({ v with tx := { v.tx with slots := rest } } : Port).nextSsn
  let psn := a.psn.getD v.tx.psnNew
  let grp : Group := { flits := a.flits, trailer := trailerOf a.flits a.tmap a.lkind ssn psn (a.rpsa.getD 0) (a.rpsb.getD 0) }
  let news := a.news.zipIdx.map fun x =>
    ({ seq := v.tx.psnNew + x.2, plan := true, part := x.1.1.part, flit := x.1.1.flit, hdr := x.1.1.hdr, first := x.1.1.t0, ended := some x.1.2,
       sent := true, reps := 0, ing := none } : TxFlit)
  let room := 4096 - v.tx.replay.length
  let old := v.tx.replay.map fun f =>
    match a.endOf f with
    | some x => { f with ended := some x, sent := true, ing := none }
    | none => f
  let freed := v.tx.replay.filter fun f => f.ing.isSome && (a.endOf f).isSome
  let again := (v.tx.replay.filter fun f => !f.plan && f.sent && (a.endOf f).isSome).length
  let nrep := (a.ended.filter fun x => decide (x.1 = SlotKind.replay)).length
  let v1 : Port := { v with tx := { v.tx with grp := e, slots := rest, repl := false, replay := old ++ news.take room,
                                              psnNew := v.tx.psnNew + news.length, out := some grp } }
  let v2 := (((v1.count .rbNoplace (news.length - room)).count .planRflits nrep).count .svcRflits again).peak .rbPeak v1.tx.replay.length
  freed.foldl (fun u f => u.returnCredit f.ing (Hdr.dec f.hdr).vc 1) (s.setPort n v2)

/-- CONTROL_POSITION_SEND: the control position's flit, then the group's trailer (R295, R296). A group that a course start
cuts short ends there, with its trailer. A retrain request that has been sent is followed by RETRAIN (R316). -/
def execControlPositionSend (port : Nat) (s : State) : Host.Outcome State Fault Refusal :=
  .next (let v := s.port port
    let g := v.tx.grp
    let x := g + 31 * 219
    let cut := (s.bound port g).filter fun b => decide (b < x + 219)
    if v.st ≠ .up then s
    else match cut with
      | some b => if tk (s.now + 1) < b then s else (s.refit port b).closeGroup port b
      | none =>
        if tk (s.now + 1) ≤ x then s
        else
          let (f, s1) := s.controlFlit port
          let s2 := (s1.putLink port x { emptySlot with kind := .control, flit := f, t0 := x }).closeGroup port (x + 219)
          let asked := (s2.port port).tx.out.any fun o => o.flits.any fun fl => decide (bits o.trailer.toNat (2 * fl.1) 2 = 3 ∧ bits fl.2.toNat 96 4 = 4)
          if asked && v.tx.msgs.any (fun m => decide (m.mtype = 4)) then s2.enterRetrain port 1 else s2)

/-! ## Receiving a group (R297, R301, R307, R309, R312) -/

/-- Put a service packet into its channel's ingress buffer. -/
def Port.pushIn (v : Port) (vc : Nat) (k : Packet) : Port :=
  { v with rx := { v.rx with ingress := SMap.put [] v.rx.ingress vc (SMap.get [] v.rx.ingress vc ++ [k]) } }

/-- A service packet is complete at ingress; its header reached the pins at `t`, and it leaves an egress port 180 t after that at the earliest (R273). -/
def State.servicePacket (s : State) (n : Nat) (fl : List Flit) (t : Nat) : State :=
  match fl with
  | [] => s
  | h :: d =>
    let vc := (Hdr.dec h).vc
    if (s.port n).lfence then (s.portCount n .fenceDrop 1).returnCredit (some n) vc fl.length
    else if !hcrcOk h then (s.fabCount .hcrcDrop 1).returnCredit (some n) vc fl.length
    else s.modPort n fun v => v.pushIn vc { hdr := h, data := d, ready := ceilDiv t 640 + 180, ing := some n }

/-- A service flit with its sequence number, at the time it reached the pins. -/
def State.takeService (s : State) (n ssn t : Nat) (f : Flit) : State :=
  let v := s.port n
  let d := (v.rx.ssn + 65536 - ssn % 65536) % 65536
  if d = 0 then
    let part := v.rx.part ++ [f]
    let t0 := if v.rx.part.isEmpty then t else v.rx.partT
    let full := match part with
      | h :: _ => decide (part.length = (Hdr.dec h).len + 1)
      | [] => false
    let s1 := s.modPort n fun u => { u with rx := { u.rx with ssn := u.rx.ssn + 1, part := if full then [] else part, partT := t0 } }
    if full then s1.servicePacket n part t0 else s1
  else s.portCount n (if d ≤ 32768 then .dup else .oos) 1

/-- A plan flit with its sequence number; `late` if it is a replay or travels in link positions. The 4,096 PSNs below the highest received
are tracked, and what is older counts as received (R307). -/
def Port.takePlan (v : Port) (psn t : Nat) (late : Bool) (f : Flit) : Port :=
  let old := v.rx.got.contains psn || decide (psn + 4097 < v.rx.psnHi)
  if old then v.count .dup 1
  else if 512 ≤ v.rx.hold.length then
    ({ v with rx := { v.rx with lost := insertNat psn v.rx.lost, psnTop := max v.rx.psnTop (psn + 1) } } : Port).count .holdFull 1
  else
    let hi := max v.rx.psnHi (psn + 1)
    { v with rx := { v.rx with
        got := (v.rx.got.filter fun g => decide (hi ≤ g + 4097)) ++ [psn], psnHi := hi, psnTop := max v.rx.psnTop (psn + 1),
        hold := SMap.set v.rx.hold psn f, arrT := SMap.set v.rx.arrT psn t, lost := v.rx.lost.filter fun p => decide (p ≠ psn),
        lateP := if late then v.rx.lateP ++ [psn] else v.rx.lateP } }

/-- The positions of a group that passes its check and whose position 0 reached the pins at `st`; `li`, `ra`, `rb` count the link flits and
the two replay ranges. -/
def State.takeFlits (s : State) (n : Nat) (g : Group) (st : Nat) : Nat → Nat → Nat → Nat → Nat → Nat → Nat → State
  | 0, _, _, _, _, _, _ => s
  | k + 1, pos, ssn, psn, li, ra, rb =>
    let v := g.trailer.toNat
    let f := ((g.flits.find? fun x => x.1 = pos).map (·.2)).getD 0
    let t := st + pos * 219
    match bits v (2 * pos) 2 with
    | 0 => State.takeFlits s n g st k (pos + 1) ssn psn li ra rb
    | 1 => State.takeFlits (s.takeService n ssn t f) n g st k (pos + 1) (ssn + 1) psn li ra rb
    | 2 => State.takeFlits (s.modPort n fun u => u.takePlan psn t false f) n g st k (pos + 1) ssn (psn + 1) li ra rb
    | _ =>
      match bits v (64 + 2 * li) 2 with
      | 0 => State.takeFlits (s.modPort n fun u => { u with rx := { u.rx with ctl := u.rx.ctl ++ [f] } }) n g st k (pos + 1) ssn psn (li + 1) ra rb
      | 1 => State.takeFlits (s.modPort n fun u => u.takePlan psn t true f) n g st k (pos + 1) ssn (psn + 1) (li + 1) ra rb
      | 2 => State.takeFlits (s.modPort n fun u => u.takePlan ra t true f) n g st k (pos + 1) ssn psn (li + 1) (ra + 1) rb
      | _ => State.takeFlits (s.modPort n fun u => u.takePlan rb t true f) n g st k (pos + 1) ssn psn (li + 1) ra (rb + 1)

/-- The PSN that a 16-bit field names, at or below the next one expected, or ahead of it. -/
def psnAhead (top r : Nat) : Nat := top + (r + 65536 - top % 65536) % 65536
def psnBelow (top r : Nat) : Nat := top + 65536 - (if (top + 65536 - r % 65536) % 65536 = 0 then 65536 else (top + 65536 - r % 65536) % 65536) - 65536

/-- Packets with a held header, by the chain of headers (R306): the PSN of each header, its LEN, and whether all its flits are held. Where
the flits before it are lost, a flit that passes the header check begins a packet. -/
def findPackets (hold : SMap Flit) (head : Nat) : Nat → List Nat → Option Nat → List (Nat × Nat × Bool)
  | 0, _, _ => []
  | _, [], _ => []
  | fuel + 1, k :: r, exp =>
    let f := SMap.get 0 hold k
    if k = head ∨ exp = some k ∨ hcrcOk f = true then
      let n := (Hdr.dec f).len
      let full := (List.range (n + 1)).all fun i => (SMap.find hold (k + i)).isSome
      (k, n, full) :: findPackets hold head fuel (r.filter fun j => decide (k + n < j)) (some (k + n + 1))
    else findPackets hold head fuel r none

/-- The chain's next header, past the flits that have been passed on. -/
def skipHead (got : List Nat) (hold : SMap Flit) : Nat → Nat → Nat
  | 0, h => h
  | n + 1, h => if got.contains h && (SMap.find hold h).isNone then skipHead got hold n (h + 1) else h

/-- A plan packet complete at ingress: dropped by a fence or its header check, or ready to land or to go on. -/
def State.planComplete (s : State) (n : Nat) (kn : Nat × Nat × Bool) : State :=
  let v := s.port n
  let seqs := (List.range (kn.2.1 + 1)).map fun i => kn.1 + i
  let fl := seqs.map fun q => SMap.get 0 v.rx.hold q
  let ts := seqs.map fun q => SMap.get 0 v.rx.arrT q
  let late := (seqs.any fun q => v.rx.lateP.contains q) || (ts.head?.any fun t => decide (t + tk 180 < tk s.now))
  let s1 := s.modPort n fun u => { u with rx := { u.rx with
    hold := seqs.foldl (fun m q => SMap.erase m q) u.rx.hold, arrT := seqs.foldl (fun m q => SMap.erase m q) u.rx.arrT,
    lateP := u.rx.lateP.filter (fun q => !seqs.contains q), rsvd := u.rx.rsvd.filter fun q => decide (q ≠ kn.1) } }
  match fl with
  | [] => s1
  | h :: d =>
    if v.lfence then s1.portCount n .fenceDrop 1
    else if !hcrcOk h then s1.fabCount .hcrcDrop 1
    else s1.modPort n fun u => { u with rx := { u.rx with planIn := u.rx.planIn ++
      [{ pkt := { hdr := h, data := d, ready := 0, ing := some n }, arr := ts, done := s.now, late := late, hold := 0, joined := 0 }] } }

/-- The egress port of a plan packet: the plan route table of its PART (R278). -/
def State.planRoute (s : State) (h : Hdr) : Option Nat :=
  ((s.part h.part).plan).bind fun pl => ((pl.routes.find? fun r => decide (r.1 = h.dst)).map (·.2))

/-- Times of the flits of a packet at the pins: of those received their own; one that is lost follows the flit before it. DESIGN CHOICE (log entry 58). -/
def RxSide.times (x : RxSide) : Nat → Nat → Nat → List Nat
  | 0, _, _ => []
  | n + 1, q, t =>
    let u := if x.lateP.contains q then t else (SMap.find x.arrT q).getD t
    u :: RxSide.times x n (q + 1) (u + 219)

/-- A forwarded packet whose header has been received in time has its positions on the egress port kept, while the rest of it arrives
(R261, R308). -/
def State.keepPlace (s : State) (n : Nat) (k : Nat × Nat × Bool) : State :=
  let v := s.port n
  let f := SMap.get 0 v.rx.hold k.1
  let h := Hdr.dec f
  let t := SMap.get 0 v.rx.arrT k.1
  if k.2.2 || v.rx.rsvd.contains k.1 || v.rx.lateP.contains k.1 || v.lfence || decide (t + tk 180 < tk s.now) || !hcrcOk f || decide (h.dst = s.me ∨ h.hops = 0) then s
  else match s.planRoute h with
    | none => s
    | some m =>
      let q := s.port m
      if q.st ≠ .up || q.efence || s.quiet m || (s.part h.part).run.hzd then s
      else
        let ts := (v.rx.times (k.2.1 + 1) k.1 t).map fun x => (x + tk 180, f)
        (s.modPort n fun u => { u with rx := { u.rx with rsvd := k.1 :: u.rx.rsvd } }).reserve m ts
          (planSlot h.part (withHops f (h.hops - 1)) (t + tk 180) false)

/-- Pass on every packet that is complete, keep the places of those that are not, and move the head of the chain. -/
def State.assemble (s : State) (n : Nat) : State :=
  let v := s.port n
  let ks := findPackets v.rx.hold v.rx.head v.rx.hold.length (v.rx.hold.map (·.1)) none
  let s1 := (ks.filter fun k => k.2.2).foldl (fun u kn => u.planComplete n kn) s
  let s2 := ks.foldl (fun u k => u.keepPlace n k) s1
  s2.modPort n fun u => { u with rx := { u.rx with head := skipHead u.rx.got u.rx.hold 5000 u.rx.head } }

/-- The time at which position 0 of a group that has been received reached the pins: a group length before its end, or the end of the
group before where a course start has cut the group short (R256). DESIGN CHOICE (log entry 58). -/
def State.groupStart (s : State) (n : Nat) : Nat :=
  let g := (s.port n).rx.grid
  if g ≤ tk s.now ∧ tk s.now + 640 < g + 7008 then g else tk s.now - 7008

/-- LINK_GROUP_RECEIVE: the group's check, and what its flits do (R297). DESIGN CHOICE (log entry 58). -/
def execLinkGroupReceive (port : Nat) (g : Group) (fecOk : Bool) (s : State) : Host.Outcome State Fault Refusal :=
  .next (let v := s.port port
    let t := g.trailer.toNat
    let ok := fecOk && decide ((crc32c (((List.range 32).flatMap fun i => flitBytes (((g.flits.find? fun f => f.1 = i).map (·.2)).getD 0)) ++ toLE 17 (t % 2 ^ 136))).toNat = t / 2 ^ 136)
    let st := s.groupStart port
    let s0 := s.modPort port fun u => { u with rx := { u.rx with grid := tk s.now } }
    if v.st ≠ .up then s
    else if !ok then s0.portCount port .grpBad 1
    else
      let p0 := psnAhead v.rx.psnTop (bits t 88 16)
      let gap := if v.rx.psnTop + 32768 < p0 then [] else (List.range (p0 - v.rx.psnTop)).map fun i => v.rx.psnTop + i
      let p0' := if v.rx.psnTop + 32768 < p0 then v.rx.psnTop else p0
      let s1 := s0.modPort port fun u => { u with rx := { u.rx with lost := gap.foldl (fun l q => insertNat q l) u.rx.lost, psnTop := p0' } }
      let s2 := s1.takeFlits port g st 32 0 (bits t 72 16) p0' 0 (psnBelow p0' (bits t 104 16)) (psnBelow p0' (bits t 120 16))
      s2.assemble port)

/-! ## Control flits (R299, R304, R311) -/

/-- Service flits that a SACK covers leave the replay buffer. -/
def Port.applySack (v : Port) (sack : Nat) : Port :=
  let d0 := (v.tx.ssnNew + 65536 - sack % 65536) % 65536
  let d := if d0 = 0 then 65536 else d0
  if 32768 < d then v
  else { v with tx := { v.tx with replay := v.tx.replay.filter fun f => f.plan || decide (v.tx.ssnNew < f.seq + d) } }

/-- Plan flits up to PACK that no range lists leave the replay buffer. -/
def Port.applyPack (v : Port) (pack : Nat) (listed : Nat → Bool) : Port :=
  let d0 := (v.tx.psnNew + 65536 - pack % 65536) % 65536
  let d := if d0 = 0 then 65536 else d0
  if 32768 < d then v
  else { v with tx := { v.tx with replay := v.tx.replay.filter fun f => !f.plan || decide (v.tx.psnNew < f.seq + d) || listed f.seq,
                                  lq := v.tx.lq.filter fun q => q.late || decide (v.tx.psnNew < q.seq + d) || listed q.seq } }

/-- A channel's returned count advances: the credits come back and its timer restarts (R305). -/
def Port.applyCredit (v : Port) (up vc c : Nat) : Port :=
  let old := SMap.get 0 v.tx.crRet vc
  let d := (c + 65536 - old % 65536) % 65536
  if d = 0 then v
  else
    let new := old + d
    { v with tx := { v.tx with crRet := SMap.put 0 v.tx.crRet vc new,
                               crTmr := SMap.put 0 v.tx.crTmr vc (if SMap.get 0 v.tx.crUsed vc ≤ new then 0 else up + 1) } }

/-- CONTROL_FLIT_RECEIVE: acknowledgements, loss ranges, credits, and any message. -/
def execControlFlitReceive (port : Nat) (s : State) : Host.Outcome State Fault Refusal :=
  .next (match (s.port port).rx.ctl with
    | [] => s
    | f :: r =>
      let w := flitWord f
      let nl := min 6 (fld (w 3) 4 3)
      let inRange := fun q : Nat => (List.range nl).any fun i => decide ((q + 65536 - fld (w (4 + i)) 0 16) % 65536 ≤ fld (w (4 + i)) 16 5)
      let up := s.mnt.up
      let s1 := s.modPort port fun v =>
        let a := (({ v with rx := { v.rx with ctl := r } } : Port).applySack (fld (w 0) 0 16)).applyPack (fld (w 0) 16 16) inRange
        let b := (((a.applyCredit up 0 (fld (w 1) 0 16)).applyCredit up 1 (fld (w 1) 16 16)).applyCredit up 2 (fld (w 2) 0 16)).applyCredit up 3 (fld (w 2) 16 16)
        ({ b with tx := { b.tx with msgs := b.tx.msgs.filter fun m => !(decide (m.mtype = 3 ∨ m.mtype = 4) && decide (m.mseq = fld (w 3) 16 8)) } } : Port).serveLq
          (b.tx.lqWait.length + 1)
      let c2 := (s1.port port).delay
      let due := (s1.port port).tx.replay.filter fun x => x.plan && inRange x.seq &&
        (x.ended.any fun e => decide (10 * e + 640 * (2 * c2 + 640) < 6400 * up))
      let s2 := due.foldl (fun u x => u.queueReplay port x) s1
      let mt := fld (w 3) 0 4
      let mq := fld (w 3) 8 8
      let body := BitVec.ofNat 192 (bits f.toNat 320 192)
      let hear := fun u : State => u.modPort port fun v => { v with rx := { v.rx with msgs := v.rx.msgs ++ [{ mtype := mt, mseq := mq, body := body }] } }
      if mt = 1 ∨ mt = 2 then hear s2
      else if mt = 3 ∨ mt = 4 then
        if (s2.port port).rx.mack = mq then s2
        else hear (s2.modPort port fun v => { v with rx := { v.rx with mack := mq } })
      else s2)

/-! ## Timers (R303, R305, R311) -/

/-- The start of the next group. -/
def State.nextGroup (s : State) (n : Nat) : Nat :=
  let e := (s.port n).tx.grp + 32 * 219
  match s.bound n (s.port n).tx.grp with
  | some b => min b e
  | none => e

/-- From a group boundary on every unacknowledged service flit is sent again, in order; what stands in positions before it still leaves
there (R303). -/
def State.resendService (s : State) (n x : Nat) : State :=
  let fl := (s.port n).tx.replay.filter fun f => !f.plan
  let s1 := s.modPort n fun u => { u with tx := { u.tx with
      slots := u.tx.slots.filter fun k => !decide (k.2.kind = .service ∧ x ≤ k.1),
      replay := u.tx.replay.map fun f => if f.plan then f else { f with ended := none } } }
  if s.quiet n then s1 else s1.layService n (fl.length + 4096) x (fl.map svcSlot)

/-- One more replay of the service packet whose header has a sequence number. -/
def Port.countReplay (v : Port) (first : Nat) : Port :=
  let again := v.tx.replay.map fun g => if !g.plan && decide (g.first = first) then { g with reps := g.reps + 1 } else g
  { v with tx := { v.tx with replay := again } }

/-- The flit's latest transmission ended 1,500 t ago (R303, R311). -/
def TxFlit.expired (f : TxFlit) (up : Nat) : Bool := f.ended.any fun e => decide (e + tk 1500 ≤ tk up)

/-- SERVICE_REPLAY_TIMEOUT: 1,500 t after the oldest unacknowledged service flit every one of them is sent again; a fourth expiry for a
packet asks for a retrain instead, once (R303, R316). DESIGN CHOICE (log entry 57). -/
def execServiceReplayTimeout (port : Nat) (s : State) : Host.Outcome State Fault Refusal :=
  .next (let v := s.port port
    match v.tx.replay.find? fun f => !f.plan with
    | none => s
    | some f =>
      if v.st ≠ .up || s.quiet port || !f.expired s.mnt.up || decide (4 ≤ f.reps) then s
      else
        let s1 := (s.portCount port .svcReplay 1).modPort port fun u => u.countReplay f.first
        if f.reps = 3 then s1.wantRetrain port else s1.resendService port (s1.nextGroup port))

/-- PLAN_REPLAY_TIMEOUT: a plan flit unacknowledged 1,500 t after its latest transmission is replayed (R311). DESIGN CHOICE (log entry 57). -/
def execPlanReplayTimeout (port : Nat) (s : State) : Host.Outcome State Fault Refusal :=
  .next (let v := s.port port
    match v.tx.replay.find? fun f => f.plan && f.expired s.mnt.up && decide (f.reps < 4) && !v.replaying f.seq with
    | none => s
    | some f => if v.st ≠ .up || s.quiet port then s else (s.portCount port .planRtmo 1).queueReplay port f)

/-- CREDIT_TIMEOUT: credits outstanding for 100 us with no return take the link DOWN (R305). -/
def execCreditTimeout (port vc : Nat) (s : State) : Host.Outcome State Fault Refusal :=
  .next (let v := s.port port
    let t := SMap.get 0 v.tx.crTmr vc
    if decide (v.st = .up) && decide (0 < t) && decide (t - 1 + 100000 ≤ s.mnt.up) && decide (vc < 4) then (s.portCount port .credTmo 1).enterDown port 6 else s)

/-! ## States of a port (Table 10.4) -/

/-- FEC_LOCK_LOST: UP to RETRAIN, cause 0x2. -/
def execFecLockLost (port : Nat) (s : State) : Host.Outcome State Fault Refusal := .next (s.enterRetrain port 2)

/-- RETRAIN_REQUEST_RECEIVE: UP to RETRAIN, cause 0x4. -/
def execRetrainRequestReceive (port : Nat) (s : State) : Host.Outcome State Fault Refusal :=
  .next (match (s.port port).hear 4 with
    | none => s
    | some (_, v) => (s.setPort port v).enterRetrain port 4)

/-- TRAINING_COMPLETE: the cable delay is at most 600 t and the port is UP, with sequence numbers and credits at 0 (R314, R315).
DESIGN CHOICE (log entry 61). -/
def execTrainingComplete (port delay peer : Nat) (s : State) : Host.Outcome State Fault Refusal :=
  .next (let v := s.port port
    if v.st ≠ .train then s
    else if 6000 < delay then s.enterDown port 10
    else s.idWrite.setPort port { v with
      st := .up, since := s.mnt.up, delay := delay, peer := peer % 65536, exAt := s.mnt.up, exRep := s.mnt.up,
      tx := { TxSide.reset with grp := s.groupFrom port (tk s.now), dbuf := v.tx.dbuf },
      rx := { RxSide.reset with ingress := v.rx.ingress, planIn := v.rx.planIn } })

/-- TRAINING_TIMEOUT: TRAIN to DOWN at 100 ms, cause 0x9. -/
def execTrainingTimeout (port : Nat) (s : State) : Host.Outcome State Fault Refusal :=
  .next (let v := s.port port
    if decide (v.st = .train) && decide (v.since + 100000000 ≤ s.mnt.up) then s.enterDown port 9 else s)

/-- RETRAIN_COMPLETE: back to UP with the delay measured again; unacknowledged service flits are sent again (R316). -/
def execRetrainComplete (port delay : Nat) (s : State) : Host.Outcome State Fault Refusal :=
  .next (let v := s.port port
    if v.st ≠ .retrain then s
    else
      let away := s.mnt.up - v.since
      let g := s.groupFrom port (tk s.now)
      let s1 := s.idWrite.setPort port { v with
        st := .up, since := s.mnt.up, delay := delay, exAt := s.mnt.up, exRep := s.mnt.up,
        tx := { v.tx with grp := g, repl := decide (g + 15 * 219 < tk s.now), crTmr := SMap.mapVals (fun t => t + away) v.tx.crTmr,
                          replay := v.tx.replay.map fun f => { f with reps := 0 } } }
      (s1.resendService port (if tk s.now ≤ g then g else s1.nextGroup port)).checkDelay port delay)

/-- RETRAIN_ATTEMPT_TIMEOUT: 50 us without completion start the second attempt, or take the port DOWN after it (R315). -/
def execRetrainAttemptTimeout (port : Nat) (s : State) : Host.Outcome State Fault Refusal :=
  .next (let v := s.port port
    if v.st ≠ .retrain || s.mnt.up < v.since + 50000 then s
    else
      let s1 := s.portCount port .retrainFail 1
      if v.attempt = 1 then s1.modPort port fun u =>
        let away := s.mnt.up - v.since
        { u with attempt := 2, since := s.mnt.up, tx := { u.tx with crTmr := SMap.mapVals (fun t => t + away) u.tx.crTmr } }
      else s1.enterDown port 5)

/-- AUTO_TRAIN_TICK: each second a DOWN port with EN and AUTO starts training. -/
def execAutoTrainTick (port : Nat) (s : State) : Host.Outcome State Fault Refusal :=
  .next (let v := s.port port
    if v.auto && decide (v.autoAt + 1000000000 ≤ s.mnt.up) then (s.modPort port fun u => { u with autoAt := s.mnt.up }).enterTrain port else s)

/-- PEER_TRAINING_DETECT: a DOWN port with EN = 1 enters TRAIN. -/
def execPeerTrainingDetect (port : Nat) (s : State) : Host.Outcome State Fault Refusal := .next (s.enterTrain port)

/-! ## Port registers -/

/-- A write to a register of a port: the device owner, or the partition to which the port is bound (R470). -/
def State.portWrite (s : State) (a : Accessor) (n : Nat) (f : State → State) : State :=
  if s.nPorts ≤ n then s
  else match s.owner 3 n with
    | some p => s.partWrite a p f
    | none => s.devWrite a f

/-- LNK_CTL (Table 10.5): EN and AUTO are stored, then FORCEDN, RETRAIN and TRAIN act. -/
def State.lnkCtl (s : State) (n : Nat) (v : Word) : State :=
  let s1 := s.modPort n fun u => { u with en := flag v 0, auto := flag v 1, autoAt := if flag v 1 && !u.auto then s.mnt.up else u.autoAt }
  let s2 := if !flag v 0 || flag v 4 then s1.enterDown n 7 else s1
  let s3 := if flag v 3 then s2.enterRetrain n 3 else s2
  if flag v 2 then s3.enterTrain n else s3

/-- A write to LNK_CTL with TRAIN = 1. -/
def execLnkCtlTrain (acc : Accessor) (port : Nat) (v : BitVec 32) (s : State) : Host.Outcome State Fault Refusal :=
  .next (if flag v 2 then s.portWrite acc port fun u => u.lnkCtl port v else s)

/-- A write to LNK_CTL with RETRAIN = 1. -/
def execLnkCtlRetrain (acc : Accessor) (port : Nat) (v : BitVec 32) (s : State) : Host.Outcome State Fault Refusal :=
  .next (if flag v 3 then s.portWrite acc port fun u => u.lnkCtl port v else s)

/-- A write to LNK_CTL with FORCEDN = 1. -/
def execLnkCtlForcedn (acc : Accessor) (port : Nat) (v : BitVec 32) (s : State) : Host.Outcome State Fault Refusal :=
  .next (if flag v 4 then s.portWrite acc port fun u => u.lnkCtl port v else s)

/-- A write to LNK_CTL of EN and AUTO alone. -/
def execLnkCtlEnWrite (acc : Accessor) (port : Nat) (v : BitVec 32) (s : State) : Host.Outcome State Fault Refusal :=
  .next (s.portWrite acc port fun u => u.lnkCtl port (v &&& 3))

/-- FAB_FENCE (Table 9.11). -/
def State.fence (s : State) (n : Nat) (v : Word) : State :=
  let s1 := (s.modPort n fun u => { u with efence := flag v 0, lfence := flag v 1 }).settle n (s.quiet n)
  if flag v 0 then s1.enterDown n 8 else s1

/-- A write to FAB_FENCE that changes EFENCE: the transmitter is squelched and the link goes DOWN (R291). -/
def execFabFenceEfence (acc : Accessor) (port : Nat) (v : BitVec 32) (s : State) : Host.Outcome State Fault Refusal :=
  .next (if s.nPorts ≤ port then s else s.devWrite acc fun u => if flag v 0 ≠ (u.port port).efence then u.fence port v else u)

/-- A write to FAB_FENCE that changes LFENCE: every packet is dropped at ingress and none is sent (R291). -/
def execFabFenceLfence (acc : Accessor) (port : Nat) (v : BitVec 32) (s : State) : Host.Outcome State Fault Refusal :=
  .next (if s.nPorts ≤ port then s else s.devWrite acc fun u => if flag v 1 ≠ (u.port port).lfence then u.fence port v else u)

end Sys2Proof.Machine
end

