-- ==== Sys2Proof/Machine/Deliver.lean ====
section
/-! DEFINITION. A service packet at its destination: the access outcomes of Table 6.2, the operations of Table 9.5 (R266,
R270), the units that take a MSG by the area in which it lands, and the ordering of R284 to R289. -/

namespace Sys2Proof.Machine

/-! ## Service accesses (R166, Table 6.2) -/

/-- What a service access to an address meets. -/
inductive SvcAt where
  | mem | loft (t off : Nat) | blocked | regs | hole
  deriving DecidableEq, Repr

def State.svcAt (s : State) (p a : Nat) : SvcAt :=
  match s.region a with
  | .marl .. => if s.ownerAt a = some p then .mem else .blocked
  | .cellar _ => if s.ownerAt a = some p then .mem else .blocked
  | .loft t off => if s.owner 0 t = some p then .loft t off else .blocked
  | .regs _ => .regs
  | .hole => .hole

/-- Count an access that is not performed. -/
def State.svcMiss (s : State) : SvcAt → State
  | .blocked => s.devCount .xpartMem 1
  | .regs => s.devCount .regFabdrop 1
  | .hole => s.devCount .mapHole 1
  | _ => s

/-- The pieces of a range, cut at the 1 MiB boundary that it may cross: no region is smaller. -/
def mibPieces (a n : Nat) : List (Nat × Nat) :=
  let k := 2 ^ 20 - a % 2 ^ 20
  if n ≤ k then [(a, n)] else [(a, k), (a + k, n - k)]

/-- Bytes that wait in a tile's service buffer (R78). -/
def Tile.svcBytes (v : Tile) : Nat := v.svc.foldl (fun n e => n + e.data.length) 0

/-- A write of `n` bytes finds room in the service buffer of every Loft that it reaches. DESIGN CHOICE (log entry 97). -/
def State.svcRoom (s : State) (p a n : Nat) : Bool :=
  (mibPieces a n).all fun x => match s.svcAt p x.1 with
    | .loft t _ => decide ((s.tile t).svcBytes + x.2 ≤ 8192)
    | _ => true

/-- A service write of `n` bytes waits in a service buffer. -/
def State.svcWaits (s : State) (p a n : Nat) : Bool :=
  (mibPieces a n).any fun x => match s.svcAt p x.1 with
    | .loft .. => true
    | _ => false

/-- A write to Marl or Cellar memory, block by block: one whose block is lost is not performed (R178 to R180). False where one was lost. -/
def State.svcPut (s : State) (a : Nat) (bs : List Byte) : Bool × State :=
  if bs.isEmpty then (true, s) else
  (blocksOf a bs.length).foldl (fun r b =>
    let lo := max a b
    let q := r.2.svcCross true (true, r.2) b
    (r.1 && q.1, if q.1 then q.2.wr lo ((bs.drop (lo - a)).take (b + 256 - lo)) else q.2)) (true, s)

/-- A service write joins a tile's service buffer. -/
def Tile.svcPush (v : Tile) (e : SvcEnt) : Tile := { v with svc := v.svc ++ [e] }

/-- One piece of a service write; a Loft piece waits in the tile's service buffer, with the header of its packet. -/
def State.svcWritePiece (s : State) (p a : Nat) (bs : List Byte) (hdr : Option Flit) : Bool × State :=
  match s.svcAt p a with
  | .mem => s.svcPut a bs
  | .loft t off => (true, s.modTile t fun v => v.svcPush { off := off, data := bs, hdr := hdr, counts := true })
  | x => (true, s.svcMiss x)

/-- A service write: false where a block was lost. DESIGN CHOICE (log entry 97). -/
def State.svcWrite (s : State) (p a : Nat) (bs : List Byte) (hdr : Option Flit) : Bool × State :=
  (mibPieces a bs.length).foldl (fun r x =>
    let q := r.2.svcWritePiece p x.1 ((bs.drop (x.1 - a)).take x.2) hdr
    (r.1 && q.1, q.2)) (true, s)

/-- The unit of its check code in which an address lies: its address and length (R182, R184, R188). -/
def State.checkUnit (s : State) (a : Nat) : Nat × Nat :=
  match s.region a with
  | .loft .. => (a / 8 * 8, 8)
  | .cellar _ => (a / 64 * 64, 64)
  | _ => (a / 32 * 32, 32)

/-- An error that cannot be corrected in the units that a read of a range touches. -/
def State.badRead (s : State) (a n : Nat) : Option Nat :=
  let lo := (s.checkUnit a).1
  let hi := s.checkUnit (a + n - 1)
  s.badIn lo (hi.1 + hi.2 - lo)

/-- The fault of an uncorrectable word that a service read meets, against the owner of its place (R182, R185, R188). -/
def State.svcBad (s : State) (a : Nat) : State :=
  let (cause, kind, idx, fs) : Nat × Nat × Nat × List Word := match s.region a with
    | .loft t off => (1, 0, loftRow t off, [0xFFFFFFFF, word off, 0])
    | .cellar off => (4, 3, off / 2 ^ 34, [word (s.cellarChan off), 0] ++ lohi off ++ [word (Config.freeWord s.free).toNat])
    | _ => (2, 1, a / 16384, marlFields a)
  let s1 := ({ s with free := s.free + 1 }).askTest kind idx
  match s1.ownerAt a with
  | some p => s1.raise p { FInfo.dev 0x0B cause fs with tile := match s.region a with
      | .loft t _ => some t
      | _ => none }
  | none => s1

/-- A service read of one piece of memory: its blocks cross, what can be corrected is corrected and counted, and the bytes come back, or
none after a block that was lost or a word that cannot be corrected (R178 to R180, R182, R184, R185, R188). -/
def State.svcGet (s : State) (a n : Nat) : Option (List Byte) × State :=
  let s0 := match s.region a with
    | .loft t _ => s.landView t
    | _ => s
  let r := s0.svcPass false a n
  if !r.1 then (none, r.2)
  else match r.2.badRead a n with
    | some b => (none, r.2.svcBad b)
    | none =>
      let u := match r.2.region a with
        | .loft t off => r.2.loftSoft t off n
        | _ => r.2.memSoft a n
      (some (u.rd a n), u)

/-- Bytes of no stated value. DESIGN CHOICE (log entry 73). -/
def freeBytes (k n : Nat) : List Byte := ((List.range (ceilDiv n 8)).flatMap fun i => toLE 8 (Config.freeWord (k + i)).toNat).take n

/-- Bytes that an engine of the device reads in service blocks; where one is lost or cannot be corrected, which is recorded as for any
service access, the spec gives it no other bytes: they are free. DESIGN CHOICE (log entry 73). -/
def State.blockRead (s : State) (a n : Nat) : List Byte × State :=
  match s.svcGet a n with
  | (some bs, s1) => (bs, s1)
  | (none, s1) => (freeBytes s1.free n, { s1 with free := s1.free + ceilDiv n 8 })

/-- A service read of `n` bytes: the bytes, or none after an error. -/
def State.svcRead (s : State) (p a n : Nat) : Option (List Byte) × State :=
  (mibPieces a n).foldl (fun (r : Option (List Byte) × State) x =>
    match r.1 with
    | none => r
    | some bs =>
      let here := r.2.svcAt p x.1
      match here with
      | .mem | .loft .. =>
        let q := r.2.svcGet x.1 x.2
        (q.1.map fun b => bs ++ b, q.2)
      | y => (some (bs ++ zeros x.2), r.2.svcMiss y)) (some [], s)

/-! ## Sync operations of packets (R324, R334, R338) -/

/-- The configured Rafter barrier whose up word an address is. DEDUCED (log entry 46). -/
def State.rafterUp (s : State) (p a : Nat) : Option (Nat × RafterEnt) :=
  match s.rafterWord p a with
  | some (b, e, false) => some (b, e)
  | _ => none

/-- ARRW of a distribution is moved, and the bytes it newly covers are counted. The first SSET of a stream covers at most 1 MiB: a later one
of a distribution that is no longer held begins none. DESIGN CHOICE (log entry 73). -/
def State.setArrw (s : State) (p ring x : Nat) : State :=
  let v := s.part p
  match v.wts.dists.find? fun d => decide (d.ring = ring) with
  | none =>
    if 2 ^ 20 < x then s
    else s.modPart p fun u => { u with wts := { u.wts with ringIn := (u.wts.ringIn.filter fun r => decide (r ≠ ring)) ++ [ring] } }
  | some d =>
    let f := fun e : Dist => if e.ring = ring then { e with arrw := max e.arrw x, arrAt := s.mnt.up } else e
    s.modPart p fun u => { u with wts := { u.wts with dists := u.wts.dists.map f },
                                  serv := { u.serv with ctr := bump 48 (x - d.arrw) u.serv.ctr ServCtr.wdBytes.idx } }

/-- ACKW of a distribution is moved. -/
def Dist.acked (ring x t : Nat) (d : Dist) : Dist := if d.ring = ring ∧ d.ackw ≠ x then { d with ackw := x, ackAt := t } else d
/-- DESIGN CHOICE (log entry 73). -/
def State.setAckw (s : State) (p ring x : Nat) : State :=
  s.modPart p fun u => { u with wts := { u.wts with dists := u.wts.dists.map (Dist.acked ring x s.mnt.up) } }

/-- A packet's operation on a Marl or Loft word: it reads the word's check unit, unless it is a SSET of a Loft word, which covers the
whole of one (R182, R184, R185). False after an error, with the fault of R180, R182 or R185. -/
def State.syncGate (s : State) (a : Nat) (sset : Bool) : Bool × State :=
  match s.region a with
  | .loft .. => if sset then (true, s) else (let r := s.svcGet a 8
                                             (r.1.isSome, r.2))
  | _ => let r := s.svcGet a 8
         (r.1.isSome, r.2)

/-- A sync operation of a packet at its word; false after an error. A flagged SADD of 1 to an up word is a child's arrival; one that may not
arrive is discarded with a barrier fault (R339). A flagged SSET to the ARRW of a ring area shows a distribution (R410). DEDUCED (log entry 46). -/
def State.svcSync (s : State) (h : Hdr) : Bool × State :=
  let p := h.part
  let u : SyncUpd := { kind := h.opc - 6, addr := h.addr, x := dword h.opa, y := dword h.opb }
  match s.svcAt p h.addr with
  | .loft t off =>
    if inLanding off 8 then (true, s.tileCount t .lndWdrop 1)
    else
      let g := s.syncGate h.addr (decide (h.opc = 7))
      if g.1 then (true, g.2.syncDo (some p) u) else g
  | .mem =>
    let g := s.syncGate h.addr false
    if !g.1 then g else
    let s0 := g.2
    match (if h.ord ∧ h.opc = 6 ∧ h.opa = 1 then s0.rafterUp p h.addr else none) with
    | some (b, e) =>
      (true, match s0.rafterBad p b e (some h.src) with
        | some c => s0.raise p (FInfo.dev 0x15 c (s0.rafterFields b (some e) h.src))
        | none => s0.rafterArrive p b e (some h.src))
    | none =>
      let s1 := s0.syncDo (some p) u
      (true, if h.ord && decide (h.opc = 7 ∧ h.addr % 2 ^ 20 = 8) then s1.setArrw p (h.addr - 8) h.opa
        else if decide (h.opc = 7 ∧ h.addr % 2 ^ 20 = 0) then s1.setAckw p h.addr h.opa
        else s1)
  | .regs => (true, s.svcMiss .regs)
  | _ => (true, s.devCount .xpartMem 1)

/-! ## Messages -/

/-- The Pantry order of a data flit (Table 12.9); none where the code or a reserved field is bad. -/
def orderOf (ws : List Word) : Option Order :=
  let op := fld (wd ws 0) 0 4
  let ok := decide (op = 1 ∨ op = 2 ∨ op = 3 ∨ op = 4 ∨ op = 8) && decide (fld (wd ws 0) 4 4 = 0) && decide (fld (wd ws 0) 22 10 = 0) &&
    decide (fld (wd ws 3) 4 28 = 0) && ((List.range 10).all fun i => wd ws (6 + i) = 0) && (decide (op = 1) || decide (wd ws 1 = 0))
  if ok then some { op := op, rcd := fld (wd ws 0) 8 14, arg := (wd ws 1).toNat, oseq := (wd ws 2).toNat, stat := fld (wd ws 3) 0 4, e0 := dword (wd64 ws 4) }
  else none

/-- The digest record of a data flit (Table 15.5). -/
def digRecOf (ws : List Word) : DigRec :=
  { step := wd64 ws 0, layer := fld (wd ws 2) 0 12, kind := fld (wd ws 2) 12 2, tile := fld (wd ws 2) 14 8, wev := flag (wd ws 2) 22,
    count := (wd ws 3).toNat, dig := BitVec.ofNat 128 (wd64 ws 4 + 2 ^ 64 * wd64 ws 6) }

/-- TAG of the comparison and promotion messages of shadowing. DESIGN CHOICE (log entry 76). -/
def shadowTag (p : Nat) : Nat := 0xC000 + p * 2 ^ 8

/-- TAG of the pager's packets to a peer window, and of a distribution's packets to its successor. -/
def pagerTag (p : Nat) : Nat := 0x100 + p
def wdTag (p : Nat) : Nat := 0x200 + p

/-- A completion for the pager. -/
def State.pagTake (s : State) (h : Hdr) : State :=
  if h.tag = pagerTag h.part then
    s.modPart h.part fun v => { v with serv := { v.serv with pagIn := v.serv.pagIn ++ [(h.opc, h.status)] } }
  else s

/-! ### Shadowing (R512 to R515)

A message between W and S has the TAG `shadowTag`; word 0 is its type (0 to 7 below), word 1 a course, layer or status. -/

def State.modSh (s : State) (p : Nat) (f : Shadow → Shadow) : State := s.modPart p fun v => { v with sh := f v.sh }

/-- Send a message to the partner of a shadowed partition. DESIGN CHOICE (log entry 76). -/
def State.shadowSend (s : State) (p dst : Nat) (ord : Bool) (ws : List Word) : State :=
  let fl := flitsOf (padTo16 ws)
  s.sendAny { Hdr.zero with dst := dst, vc := 3, opc := 9, ord := ord, part := p, len := 1, tag := shadowTag p } fl

/-- The layers of the weight map with the generation and digest of each (R515). -/
def State.shadowLayers (s : State) (p dst : Nat) : State :=
  let v := s.part p
  let n := match v.plan.bind (·.wmap) with
    | some m => m.nlayers
    | none => 0
  (List.range n).foldl (fun u l =>
    let w := SMap.get WState.reset v.wts.tab l
    u.shadowSend p dst false ([6, word l, word w.lgen, 0] ++ bytesToWords (toLE 32 w.ldig.toNat) 8)) s

/-- W takes a request to be shadowed, if its plan names the pair. -/
def State.shadowAsked (s : State) (p src : Nat) : State :=
  let v := s.part p
  let ok := match v.plan with
    | some pl => pl.shadow && decide (pl.shw = s.me) && decide (pl.shs = src) && !v.running
    | none => false
  if ok then
    let s1 := s.modSh p fun h => { h with role := 4, peer := src, mat := 0, verified := false, promote := none, acked := false }
    (s1.shadowLayers p src).shadowSend p src false [5, 0]
  else s.shadowSend p src false [5, 1]

/-- S takes W's answer. -/
def State.shadowAnswer (s : State) (p st : Nat) : State :=
  match (s.part p).sh.start with
  | none => s
  | some r =>
    let s1 := s.modSh p fun h => { h with start := none, role := if st = 0 then 1 else h.role }
    s1.reply r (if st = 0 then 0 else 0x63) []

/-- A message of shadowing. DESIGN CHOICE (log entry 76). -/
def State.shadowMsg (s : State) (p src : Nat) (ws : List Word) : State :=
  let k := (wd ws 1).toNat
  match (wd ws 0).toNat with
  | 1 => s.modSh p fun h => { h with otherIn := h.otherIn ++ [(k, BitVec.ofNat 128 (wd64 ws 2 + 2 ^ 64 * wd64 ws 4))] }
  | 2 => s.modSh p fun h => { h with reqIn := h.reqIn ++ [k] }
  | 3 => s.modSh p fun h => { h with ackIn := h.ackIn ++ [k] }
  | 4 => s.shadowAsked p src
  | 5 => s.shadowAnswer p k
  | 6 => s.modSh p fun h =>
    { h with wlayers := SMap.put (0, 0) h.wlayers k ((wd ws 2).toNat, BitVec.ofNat 256 (leNat (wordsToBytes ((ws.drop 4).take 8)))) }
  | 7 => s.modSh p fun h => if h.role ≤ 2 ∨ h.role = 4 then { h with role := 0 } else h
  | _ => s

/-- The unit that takes a MSG by where it lands: the fault engine, the collector, the Pantry, the swap, the head of a
distribution, the comparison engine (R377, R419, R421, R443, R502, R504). -/
def State.msgTaken (s : State) (h : Hdr) (ws : List Word) : State :=
  let p := h.part
  let a := h.addr
  let v := s.part p
  let in_ := fun b n : Nat => decide (b ≤ a ∧ a < b + n)
  let s1 := match v.plan with
    | none => s
    | some pl =>
      if decide (1 < pl.ndev) && v.running && in_ pl.notebase 4096 then
        s.modPart p fun u => { u with flt := { u.flt with notes := u.flt.notes ++
          [{ lid := fld (wd ws 0) 0 16, cls := fld (wd ws 0) 16 8, origin := fld (wd ws 1) 0 16, tick := wd64 ws 2, src := h.src }] } }
      else if decide (1 < pl.ndev) && v.ltRoot && in_ pl.collbase 0x40000 then s.modPart p fun u => { u with flt := { u.flt with repIn := u.flt.repIn ++ [ws] } }
      else match pl.serv, pl.wmap with
        | some d, m? =>
          if in_ d.ordq 0x20000 then
            match orderOf ws with
            | none => s.modPart p fun u => { u with serv := { u.serv with ctr := bump 32 1 u.serv.ctr ServCtr.ordBad.idx } }
            | some o => s.modPart p fun u => { u with serv := { u.serv with inbox := u.serv.inbox ++ [(h.src, o)] } }
          else match m? with
            | some m =>
              if in_ m.wctl 0x10000 then s.modPart p fun u => { u with wts := { u.wts with ordIn := u.wts.ordIn ++ [ws] } }
              else if in_ (m.wctl + 0x10000) 0x70000 then
                s.modPart p fun u => { u with wts := { u.wts with confIn := u.wts.confIn ++ [((a - m.wctl - 0x10000) / 64, ws)] } }
              else s
            | none => s
        | none, _ => s
  let s2 := if v.wts.dists.any fun d => d.head && in_ (d.ring + 0x10000) 0x40000 then
      s1.modPart p fun u => { u with wts := { u.wts with repIn := u.wts.repIn ++ [ws] } }
    else s1
  if v.aud.twen && decide (v.aud.twin ≠ 0xFFFF) && in_ v.aud.twBase.toNat 0x100000 then
    s2.modPart p fun u => { u with aud := { u.aud with peerIn := u.aud.peerIn ++ [digRecOf ws] } }
  else s2

/-! ## Effects (R266, R270, R335, R339) -/

/-! ### Distributions: fields of the descriptor's header, and reports (Table 14.4, R419) -/

def Dist.word (d : Dist) (i : Nat) : Word := wordAt d.desc i
def Dist.did (d : Dist) : Nat := fld (d.word 0) 0 16
def Dist.mode (d : Dist) : Nat := fld (d.word 0) 16 2
def Dist.npos (d : Dist) : Nat := fld (d.word 1) 0 12 + 1
def Dist.npiece (d : Dist) : Nat := fld (d.word 2) 0 24
def Dist.gen (d : Dist) : Nat := fld (d.word 3) 0 16
def Dist.slot (d : Dist) : Nat := fld (d.word 3) 16 10
def Dist.dtmo (d : Dist) : Nat := fld (d.word 6) 0 16 * 1000000
def Dist.dev (d : Dist) (i : Nat) : Nat := fld (d.word (16 + i)) 0 16
def Dist.shard (d : Dist) : Nat := fld (d.word (16 + d.pos)) 16 12
def Dist.last (d : Dist) : Bool := decide (d.npos ≤ d.pos + 1)
def Dist.succ (d : Dist) : Nat := d.dev (d.pos + 1)

def State.setDist (s : State) (p : Nat) (d : Dist) : State :=
  s.modPart p fun v => { v with wts := { v.wts with dists := v.wts.dists.map fun e => if e.ring = d.ring then d else e } }

/-- Send the one report of a member. -/
def State.distReport (s : State) (p : Nat) (d : Dist) (status dev : Nat) : State :=
  if d.reported then s
  else
    let bad := d.failed
    let ws := [word (d.did + d.pos * 2 ^ 16), word status, word (d.done.length + d.skipped.length), word bad.length,
               word ((bad.head?.getD 0) % 4096), word dev] ++ List.replicate 10 0
    (s.setDist p { d with reported := true }).sendMsg p (d.dev 0) (d.ring + 0x10000 + 64 * d.pos) false ws

/-- A forwarded WRITE met an error: the successor is unreachable (R419). -/
def State.distLost (s : State) (h : Hdr) : State :=
  if decide (h.opa % 32 = 1) && decide (h.tag = wdTag h.part) then
    match (s.part h.part).wts.dists.find? fun d => decide (h.addr < d.ring + 0x4100000) && decide (d.ring ≤ h.addr) && !d.lost with
    | none => s
    | some d =>
      let d1 := { d with lost := true, lastAt := if d.head then some s.mnt.up else d.lastAt }
      (s.setDist h.part d1).distReport h.part d1 3 d1.succ
  else s

/-- A completion with an error reaches the source (R272): a remote signal or a Rafter packet that was lost is a fault. -/
def State.errCplTaken (s : State) (h : Hdr) : State :=
  let k := h.tag / 2 ^ 14
  let p := bits h.tag 8 6
  if k = 1 then
    (s.devCount .sigErr 1).raise p { FInfo.dev 0x14 h.status ([word h.src, 0] ++ lohi h.addr ++ [word (h.opa % 32), word h.status]) with tile := some (h.tag % 256) }
  else if k = 2 then
    let b := h.tag % 16
    (s.devCount .sigErr 1).raise p (FInfo.dev 0x15 4 (s.rafterFields b (s.rafterEnt p b) h.src))
  else
    (s.distLost h).pagTake h

/-- The header keeps Tables 9.4 and 9.5, and the packet has the length that it names (R268). -/
def Packet.formed (k : Packet) : Bool := hdrOk k.hdr && decide (k.data.length = (Hdr.dec k.hdr).len)

/-- A packet's write takes effect only when it leaves a tile's service buffer (R78, R286). -/
def State.defers (s : State) (h : Hdr) (k : Packet) : Bool :=
  k.formed && decide (h.opc = 1 ∨ h.opc = 3 ∨ (h.opc = 9 ∧ h.tag ≠ shadowTag h.part)) && s.svcWaits h.part h.addr (64 * h.len)

/-- The error completion of a service access that met an error at this device (R180, R185, R188). -/
def State.badCpl (s : State) (h : Hdr) : State :=
  s.send { Hdr.zero with dst := h.src, vc := 1, opc := 5, part := h.part, tag := h.tag, addr := h.addr, status := 5, opa := h.opc } []

/-- What follows a packet's write (R270): the completion of a WRITE. -/
def State.writeCpl (s : State) (h : Hdr) : State :=
  if h.opc = 1 then s.send { Hdr.zero with dst := h.src, vc := 1, opc := 4, part := h.part, tag := h.tag, addr := h.addr } [] else s

/-- The operation of a packet takes effect, or, for a write to a Loft, joins the tile's service buffer. -/
def State.doPacket (s : State) (h : Hdr) (k : Packet) : State :=
  if !k.formed then (s.fabCount .badHdr 1).answerDrop h 7
  else match h.opc with
  | 1 =>
    let r := s.svcWrite h.part h.addr k.payload (some k.hdr)
    if s.defers h k then r.2 else if r.1 then r.2.writeCpl h else r.2.badCpl h
  | 2 =>
    match s.svcRead h.part h.addr (64 * h.rlen) with
    | (some bs, s1) =>
      s1.send { Hdr.zero with dst := h.src, vc := 1, opc := 3, part := h.part, tag := h.tag, len := h.rlen, addr := h.opa } (flitsOf bs)
    | (none, s1) => s1.badCpl h
  | 3 =>
    let r := s.svcWrite h.part h.addr k.payload (some k.hdr)
    r.2.pagTake (if r.1 then h else { h with opc := 5, status := 5 })
  | 4 => (s.modFab fun b => { b with cpl := some k.hdr }).pagTake h
  | 5 => (s.modFab fun b => { b with cpl := some k.hdr }).errCplTaken h
  | 6 | 7 | 8 =>
    let r := s.svcSync h
    if r.1 then r.2 else r.2.badCpl h
  | 9 =>
    let ws := bytesToWords k.payload 16
    if h.tag = shadowTag h.part then s.shadowMsg h.part h.src ws
    else
      let r := s.svcWrite h.part h.addr k.payload (some k.hdr)
      if !r.1 then r.2.badCpl h
      else if k.data.isEmpty || decide (s.svcAt h.part h.addr ≠ .mem) then r.2 else r.2.msgTaken h ws
  | _ => s

/-! ## Ordering at the destination (R285 to R289, Table 9.9) -/

def State.ordOf (s : State) (src : Nat) : OrdSrc := SMap.get OrdSrc.reset s.fab.src src
def State.setOrd (s : State) (src : Nat) (o : OrdSrc) : State := s.modFab fun f => { f with src := SMap.put OrdSrc.reset f.src src o }

/-- The interval CUR closes: CUR moves on, CNT takes the tally, and while the flagged packet of the new interval is covered
it takes effect and closes that one too (R286); one whose write waits in a service buffer closes it when that is performed. -/
def State.closeInterval (s : State) (src : Nat) : Nat → State
  | 0 => s
  | fuel + 1 =>
    let o := s.ordOf src
    let cur := (o.cur + 1) % 65536
    let cnt := ((o.tally.find? fun t => decide (t.fi = cur)).map (·.n)).getD 0
    let o1 : OrdSrc := { o with cur := cur, cnt := cnt, tally := o.tally.filter fun t => decide (t.fi ≠ cur) }
    match o1.vest.find? fun e => decide (e.fi = cur ∧ e.npre ≤ cnt) with
    | some e =>
      let s1 := s.setOrd src { o1 with vest := o1.vest.filter fun x => decide (x.fi ≠ cur) }
      let h := Hdr.dec e.pkt.hdr
      if s1.defers h e.pkt then s1.doPacket h e.pkt else State.closeInterval (s1.doPacket h e.pkt) src fuel
    | none => s.setOrd src o1

/-- A packet discarded by ordering is answered with status 0x6. -/
def State.ordDrop (s : State) (h : Hdr) : State := s.answerDrop h 6

/-- The interval of a packet, relative to CUR of its source. -/
def OrdSrc.delta (o : OrdSrc) (fi : Nat) : Nat := (fi + 65536 - o.cur) % 65536

/-- A flagged packet of CUR that waits takes effect once CNT covers it (R286). -/
def State.ordCovered (s : State) (src : Nat) : State :=
  let o := s.ordOf src
  match o.vest.find? fun e => decide (e.fi = o.cur ∧ e.npre ≤ o.cnt) with
  | some e =>
    let s1 := s.setOrd src { o with vest := o.vest.filter fun x => decide (x.fi ≠ o.cur) }
    let h := Hdr.dec e.pkt.hdr
    if s1.defers h e.pkt then s1.doPacket h e.pkt else (s1.doPacket h e.pkt).closeInterval src 65536
  | none => s

/-- The tally of an interval, with `n` more packets; it is held from now on if it is new. -/
def OrdSrc.addTally (o : OrdSrc) (fi n up : Nat) : OrdSrc :=
  if o.tally.any (fun t => decide (t.fi = fi)) then { o with tally := o.tally.map fun (t : Tally) => if t.fi = fi then { t with n := t.n + n } else t }
  else { o with tally := o.tally ++ [{ fi := fi, n := n, since := up }] }

/-- A packet has taken effect: it is counted in its interval, or closes it (Table 9.9). -/
def State.ordDone (s : State) (h : Hdr) : State :=
  let o := s.ordOf h.src
  let d := o.delta h.fi
  if h.ord then (if d = 0 then s.closeInterval h.src 65536 else s)
  else if d = 0 then (s.setOrd h.src { o with cnt := o.cnt + 1 }).ordCovered h.src
  else if d < 32768 then s.setOrd h.src (o.addTally h.fi 1 s.mnt.up)
  else s.fabCount .ordLate 1

/-- The source starts over: writes of its that still wait no longer count in its ordering. -/
def State.ordForget (s : State) (src : Nat) : State :=
  (List.range s.nTiles).foldl (fun u t =>
    if (u.tile t).svc.any (fun e => e.hdr.any fun f => decide ((Hdr.dec f).src = src)) then
      u.modTile t fun v => { v with svc := v.svc.map fun e => if e.hdr.any fun f => decide ((Hdr.dec f).src = src) then { e with counts := false } else e }
    else u) s

/-- A packet with SYNC = 1 resets what the destination keeps of its source (R289). -/
def State.ordSync (s : State) (h : Hdr) : State :=
  let o := s.ordOf h.src
  let s1 := (s.setOrd h.src { OrdSrc.reset with cur := h.fi }).ordForget h.src
  o.vest.foldl (fun u e => u.ordDrop (Hdr.dec e.pkt.hdr)) s1

/-- A flagged packet of a source's interval is held: in the Vestibule, or in a service buffer. -/
def State.ordHeld (s : State) (src fi : Nat) : Bool :=
  (s.ordOf src).vest.any (fun e => decide (e.fi = fi)) ||
    (List.range s.nTiles).any fun t => (s.tile t).svc.any fun e => e.counts && e.hdr.any fun f =>
      let h := Hdr.dec f
      h.ord && decide (h.src = src ∧ h.fi = fi)

/-- Ordering lets the packet at the head of an ingress queue through: false while it must stay there (R287). -/
def State.ordRoom (s : State) (h : Hdr) : Bool :=
  let o := if h.sync then { OrdSrc.reset with cur := h.fi } else s.ordOf h.src
  let occ := s.fab.occ - (if h.sync then (s.ordOf h.src).vest.length else 0)
  let tal := s.fab.tallies - (if h.sync then (s.ordOf h.src).tally.length else 0)
  let d := o.delta h.fi
  if h.ord then
    let waits := decide (d < 32768) && !decide (d = 0 ∧ h.npre ≤ o.cnt) && (h.sync || !s.ordHeld h.src h.fi)
    !waits || decide (occ < 256)
  else decide (d = 0) || decide (32768 ≤ d) || (o.tally.any fun t => decide (t.fi = h.fi)) || decide (tal < 1024)

/-- FAB_VEST_PEAK takes the occupancy. -/
def State.vestPeak (s : State) : State :=
  s.modFab fun f => { f with ctr := SMap.put 0 f.ctr FabCtr.vestPeak.idx (max (SMap.get 0 f.ctr FabCtr.vestPeak.idx) f.occ) }

/-- A packet arrives: Table 9.9. A packet of a later interval takes its tally at once, for which it needs a place (R287). -/
def State.arrive (s0 : State) (h : Hdr) (k : Packet) : State :=
  let s := if h.sync then s0.ordSync h else s0
  let o := s.ordOf h.src
  let d := o.delta h.fi
  let act := fun u : State => if u.defers h k then u.doPacket h k else (u.doPacket h k).ordDone h
  if !h.ord then act (if 0 < d ∧ d < 32768 then s.setOrd h.src (o.addTally h.fi 0 s.mnt.up) else s)
  else if 32768 ≤ d then (s.fabCount .ordLate 1).ordDrop h
  else if s.ordHeld h.src h.fi then (s.fabCount .ordDup 1).ordDrop h
  else if d = 0 ∧ h.npre ≤ o.cnt then act s
  else (s.setOrd h.src { o with vest := o.vest ++ [{ fi := h.fi, npre := h.npre, since := s.mnt.up, pkt := k }] }).vestPeak

/-! ## The service buffer (R78) -/

/-- No piece of a packet's write waits any more: the pieces of the packet in the buffers of other Lofts are as few as in this one. -/
def State.svcLast (s : State) (t off : Nat) (f : Flit) : Bool :=
  let h := Hdr.dec f
  let left := fun (k o : Nat) => ((s.tile k).svc.filter fun e => decide (e.off = o ∧ e.hdr = some f)).length
  (mibPieces h.addr (64 * h.len)).all fun x => match s.region x.1 with
    | .loft k o => decide ((k = t ∧ o = off) ∨ left k o ≤ left t off)
    | _ => true

/-- The first write of a tile's service buffer enters the Loft; a part of it in the Landing is dropped (R77). With its last piece a packet has
taken effect: it is answered (R270), and counts in the ordering of its source (R286). -/
def State.svcNext (s : State) (t : Nat) : State :=
  match (s.tile t).svc with
  | [] => s
  | x :: r =>
    let s1 := (s.modTile t fun v => { v with svc := r }).countLanding t x.off x.data.length
    let s2 := (loftParts t x.off x.data).foldl (fun u e => u.effect t e) s1
    match x.hdr with
    | none => s2
    | some f =>
      if !s2.svcLast t x.off f then s2
      else
        let h := Hdr.dec f
        let s3 := s2.writeCpl h
        if x.counts then s3.ordDone h else s3

/-- A write of the host or of the device itself joins a service buffer; where it finds no room it waits until writes before it have entered
the Loft. DESIGN CHOICE (log entry 97). -/
def State.svcJoin (s : State) (t off : Nat) (bs : List Byte) : Nat → State
  | 0 => s.modTile t fun v => v.svcPush { off := off, data := bs, hdr := none, counts := false }
  | fuel + 1 =>
    if (s.tile t).svcBytes + bs.length ≤ 8192 ∨ (s.tile t).svc.isEmpty then
      s.modTile t fun v => v.svcPush { off := off, data := bs, hdr := none, counts := false }
    else State.svcJoin (s.svcNext t) t off bs fuel

/-- LOFT_SERVICE_WRITE: a buffered service write enters the Loft in a beat in which the fill port carries no response to an LD operation
(R78). DESIGN CHOICE (log entry 97). -/
def execLoftServiceWrite (t : Nat) (s : State) : Host.Outcome State Fault Refusal :=
  .next (let c := (s.room (s.roomOf t)).clk
    if (s.tile t).fillAt = c ∧ c ≠ 0 then s else s.svcNext t)

/-- VESTIBULE_TIMEOUT: a flagged packet or tally held for 60,000 t closes every interval of its source up to its own (R288). -/
def execVestibuleTimeout (src : Nat) (s : State) : Host.Outcome State Fault Refusal :=
  .next (let o := s.ordOf src
    let old := (o.vest.filterMap fun e => if e.since + 60000 ≤ s.mnt.up then some e.fi else none) ++
               (o.tally.filterMap fun t => if t.since + 60000 ≤ s.mnt.up then some t.fi else none)
    match old with
    | [] => s
    | fi :: _ =>
      let d := (fi + 65536 - o.cur) % 65536
      let in_ := fun x : Nat => decide ((x + 65536 - o.cur) % 65536 ≤ d)
      let gone := o.vest.filter fun e => in_ e.fi
      let o1 : OrdSrc := { o with cur := fi, cnt := 0, vest := o.vest.filter (fun e => !in_ e.fi), tally := o.tally.filter fun t => !in_ t.fi }
      let s1 := gone.foldl (fun u e => u.ordDrop (Hdr.dec e.pkt.hdr)) ((s.setOrd src o1).fabCount .vestTmo 1)
      s1.closeInterval src 65536)

/-! ## The packet rows: `ing` 0 to 15 is a port, 16 the device's own packets -/

def State.queueOf (s : State) (ing vc : Nat) : List Packet :=
  if ing < 16 then SMap.get [] (s.port ing).rx.ingress vc else SMap.get [] s.fab.loc vc
def State.popQueue (s : State) (ing vc : Nat) : State :=
  if ing < 16 then
    s.modPort ing fun v => { v with rx := { v.rx with ingress := SMap.put [] v.rx.ingress vc ((SMap.get [] v.rx.ingress vc).drop 1) } }
  else s.modFab fun f => { f with loc := SMap.put [] f.loc vc ((SMap.get [] f.loc vc).drop 1) }

/-- The LD queue of a tile reads the Loft in the beat in progress (R167). -/
def State.loftReading (s : State) (t : Nat) : Bool := decide ((s.room (s.roomOf t)).clk - 1 < (s.tile t).loftRd)

/-- A READ waits for a beat in which the LD queue of no Loft that it reads makes a read (R167). -/
def State.readFree (s : State) (p a n : Nat) : Bool :=
  (mibPieces a n).all fun x => match s.svcAt p x.1 with
    | .loft t _ => !s.loftReading t
    | _ => true

/-- The head of a queue is for this device and can take effect now. DESIGN CHOICE (log entry 59). -/
def State.canTake (s : State) (h : Hdr) (k : Packet) : Bool :=
  decide (h.dst = s.me) && s.ordRoom h &&
  (!decide (h.opc = 1 ∨ h.opc = 3 ∨ h.opc = 9) || s.svcRoom h.part h.addr (64 * k.data.length)) &&
  (!decide (h.opc = 2) || s.readFree h.part h.addr (64 * h.rlen)) &&
  !(decide (6 ≤ h.opc ∧ h.opc ≤ 8) && s.syncBehind h.addr)

/-- While this device is W of a shadowed partition its Porch dies copy every service packet for the partition to S, unchanged
except for DST (R512, R514). A copy that is dropped is answered as any other packet (R272). -/
def State.mirror (s : State) (ing : Nat) (h : Hdr) (k : Packet) : State :=
  let sh := (s.part h.part).sh
  if decide (16 ≤ ing) || !decide (sh.role = 4 ∨ sh.role = 5) || decide (h.tag = shadowTag h.part) || decide (s.me = 0xFFFF) then s
  else
    let h' := { h with dst := sh.peer }
    match s.way h' with
    | (.egress n, s1) => s1.pushEgress n h.vc { k with hdr := withDst k.hdr sh.peer, ready := s.now, ing := none }
    | (.drop st, s1) => s1.answerDrop h' st
    | (.loc, s1) => s1

/-- Take the packet at the head of a queue, if its operation is `opc`; a packet with a code that no service operation has is
taken, and dropped under R268, by any of the rows. DESIGN CHOICE (log entry 59). -/
def State.takePacket (s : State) (ing vc opc : Nat) : State :=
  match s.queueOf ing vc with
  | [] => s
  | k :: _ =>
    let h := Hdr.dec k.hdr
    if (h.opc = opc ∨ h.opc = 0 ∨ 11 ≤ h.opc) ∧ s.canTake h k = true then
      (((s.popQueue ing vc).returnCredit k.ing vc (k.data.length + 1)).mirror ing h k).arrive h k
    else s

def execWritePacket (ing vc : Nat) (s : State) : Host.Outcome State Fault Refusal := .next (s.takePacket ing vc 1)
def execReadPacket (ing vc : Nat) (s : State) : Host.Outcome State Fault Refusal := .next (s.takePacket ing vc 2)
def execReadRspPacket (ing vc : Nat) (s : State) : Host.Outcome State Fault Refusal := .next (s.takePacket ing vc 3)
def execWriteCplPacket (ing vc : Nat) (s : State) : Host.Outcome State Fault Refusal := .next (s.takePacket ing vc 4)
def execErrCplPacket (ing vc : Nat) (s : State) : Host.Outcome State Fault Refusal := .next (s.takePacket ing vc 5)
def execSaddPacket (ing vc : Nat) (s : State) : Host.Outcome State Fault Refusal := .next (s.takePacket ing vc 6)
def execSsetPacket (ing vc : Nat) (s : State) : Host.Outcome State Fault Refusal := .next (s.takePacket ing vc 7)
def execScasPacket (ing vc : Nat) (s : State) : Host.Outcome State Fault Refusal := .next (s.takePacket ing vc 8)
def execMsgPacket (ing vc : Nat) (s : State) : Host.Outcome State Fault Refusal := .next (s.takePacket ing vc 9)
def execNullPacket (ing vc : Nat) (s : State) : Host.Outcome State Fault Refusal := .next (s.takePacket ing vc 10)

end Sys2Proof.Machine
end

