-- ==== Sys2Proof/Machine/Fabric.lean ====
section
/-! DEFINITION. Departures, landings and the forwarding of plan and service packets (R55, R63, R64, R259 to R278), service
routes and their generations (R279 to R283). -/

namespace Sys2Proof.Machine

/-! ## Departures -/

/-- The departure entry of a staged packet. -/
def State.entryOf (s : State) (d : Staged) : Option Dep := ((s.part d.part).plan).bind fun pl => pl.deps[d.dep]?

/-- Put a departure on the pins: in its own positions (R258), or under the hazard detector in the first open ones from its
scaled tick on (R63). A port that is fenced or not UP drops it (R291, R316), and without a device ID none leaves (R283). -/
def State.depart (s : State) (n : Nat) (d : Staged) (e : Dep) : State :=
  let v := s.port n
  if s.me = 0xFFFF then s
  else if v.efence || v.lfence then s.portCount n .fenceDrop 1
  else if v.st ≠ .up then s.portCount n .planDrop 1
  else
    let fl := d.pkt.hdr :: d.pkt.data
    let start := ((s.part d.part).startOf d.course).getD s.now
    if (s.part d.part).run.hzd then
      let x0 := s.posOf n (tk d.due)
      let x := if x0 < tk d.due then s.nextPos n x0 else x0
      let ts := s.openTimes n 4096 x fl
      s.placePlan n ts (planSlot d.part d.pkt.hdr ((ts.head?.map (·.1)).getD x) true) 64
    else
      let x := tk start + 219 * (1024 * e.frame + e.pos)
      s.placePlan n (s.depTimes n 4096 x fl) (planSlot d.part d.pkt.hdr x true) 64

/-- Take a staged packet off a departure buffer. -/
def Port.unstage (v : Port) (d : Staged) : Port := { v with tx := { v.tx with dbuf := v.tx.dbuf.erase d } }

/-- DEPARTURE_SEND: at its departure tick a staged packet leaves. Nothing is sent and a departure-miss fault raised if its
data are not in the buffer (R55); a voided departure, one of a halted partition (R501), one after its plan's completion (R45)
or one of a paused course (R462) sends nothing. -/
def execDepartureSend (port : Nat) (s : State) : Host.Outcome State Fault Refusal :=
  .next (match (s.port port).tx.dbuf.find? fun d => decide (d.due ≤ s.now) with
    | none => s
    | some d =>
      let v := s.part d.part
      let s1 := s.modPort port fun u => u.unstage d
      let off := d.void || !v.running || v.run.halted || (v.run.paused.any fun k => decide (k ≤ d.course))
      match s.entryOf d with
      | none => s1
      | some e =>
        if off then s1
        else if d.due < d.rdy then
          s1.raise d.part { FInfo.dev 0x02 0 [word port, word e.frame, word e.pos, word d.tile] with course := some d.course, tile := some d.tile }
        else s1.depart port d e)

/-! ## Landings (R56, R57, R269) -/

/-- Take a plan packet off a port's list. -/
def Port.takeIn (v : Port) (k : PlanIn) : Port := { v with rx := { v.rx with planIn := v.rx.planIn.erase k } }

/-- The tile and first slot that a LANDING packet addresses, if it addresses Landing slots. -/
def State.landAt (s : State) (h : Hdr) : Option (Nat × Nat) :=
  match s.region h.addr with
  | .loft t off => if 0xF0000 ≤ off ∧ off % 256 = 0 ∧ (off - 0xF0000) / 256 + h.len / 4 ≤ 256 then some (t, (off - 0xF0000) / 256) else none
  | _ => none

/-- The slots of a packet, written with their tags in the beat in progress of the tile's Room (R57). -/
def State.landSlots (s : State) (p t slot epoch : Nat) : List (List Byte) → State
  | [] => s
  | b :: r => State.landSlots (s.landSlot p t slot epoch ((s.room (s.roomOf t)).clk - 1) b) p t (slot + 1) epoch r

/-- Write a plan packet that has passed every check. -/
def State.landPacket (s : State) (h : Hdr) (k : Packet) (t slot : Nat) : State :=
  s.landSlots h.part t slot h.epoch (chunks 256 (h.len / 4) k.payload)

/-- A plan packet for this device: the drops of R268, R269, R278 and R501, or its landing. -/
def State.landing (s : State) (h : Hdr) (f : Flit) (k : Packet) (go : State → Nat → Nat → State) : State :=
  let v := s.part h.part
  if !hdrOk f || decide (k.data.length ≠ h.len) then s.fabCount .badHdr 1
  else if v.plan.isNone then s.fabCount .planNoRoute 1
  else match s.landAt h with
    | none => s.fabCount .planBadAddr 1
    | some (t, slot) =>
      if s.owner 0 t ≠ some h.part then s.devCount .xpartMem 1
      else if v.run.halted then s.modPart h.part fun u => { u with flt := { u.flt with haltDrop := satAdd 48 u.flt.haltDrop 1 } }
      else go s t slot

/-- The tick until which the hazard detector holds an off-die landing: T + 4 x (A_late - T), A_late being that of the packet's unscaled
departure tick, which the time of the header at the pins gives (R50, R64). The sum of the assumed cable delays of the path is the model's
open figure. DESIGN CHOICE (log entry 60). -/
def holdTick (t0 arr hops n port t src : Nat) : Nat :=
  let path := Config.pathDelay src port + 180 * (31 - hops)
  let td := (arr / 640 - path - t0) / 4
  t0 + 4 * (td + path + ceilDiv (3422 * n) 10000 + Config.dMax port t + 3200)

/-- The time from which a packet's last slot may be written: D_min after the end of its flits at the pins (R51), counted from its header, or
from the last of its flits to arrive if it is late. -/
def PlanIn.landFrom (k : PlanIn) (dmin : Nat) : Nat :=
  (if k.late then k.arr.foldl max 0 + 219 else k.arr.headD 0 + 219 * k.arr.length) + tk dmin

/-- D_min of a packet's port and tile; 0 for one that addresses no Landing. -/
def State.dminOf (s : State) (port : Nat) (h : Hdr) : Nat :=
  match s.landAt h with
  | some (t, _) => Config.dMin port t
  | none => 0

/-- LANDING_PACKET: a plan packet for this device that has passed its link check writes its slots and tags, D_min at the
earliest after its last flit (R51, R57); under the hazard detector it is held (R64). -/
def execLandingPacket (port : Nat) (s : State) : Host.Outcome State Fault Refusal :=
  .next (match (s.port port).rx.planIn.find? fun k =>
      let h := Hdr.dec k.pkt.hdr
      decide (h.dst = s.me ∧ k.hold = 0 ∧ k.landFrom (s.dminOf port h) ≤ tk s.now) with
    | none => s
    | some k =>
      let h := Hdr.dec k.pkt.hdr
      let s1 := s.modPort port fun v => v.takeIn k
      s1.landing h k.pkt.hdr k.pkt fun u t slot =>
        if (u.part h.part).run.hzd then
          let held := holdTick (u.part h.part).run.t0 (k.arr.headD 0) h.hops k.arr.length port t h.src
          u.modPort port fun v => { v with rx := { v.rx with planIn := v.rx.planIn ++ [{ k with hold := max 1 held }] } }
        else u.landPacket h k.pkt t slot)

/-- HAZARD_LANDING_RELEASE: a held landing is written at its scaled A_late and recorded (R64). -/
def execHazardLandingRelease (port : Nat) (s : State) : Host.Outcome State Fault Refusal :=
  .next (match (s.port port).rx.planIn.find? fun k => decide (0 < k.hold ∧ k.hold ≤ s.now) with
    | none => s
    | some k =>
      let h := Hdr.dec k.pkt.hdr
      (s.modPort port fun v => v.takeIn k).landing h k.pkt.hdr k.pkt fun u t slot => u.landPacket h k.pkt t slot)

/-! ## Forwarding plan packets (R274, R277, R278, R308) -/

/-- A late flit joins the link-position queue; one that finds it full is dropped (R308, R311). -/
def Port.queueLate (v : Port) (part : Nat) (f hdr : Flit) (t0 : Nat) : Port :=
  if 1024 ≤ v.tx.lq.length then v.count .lqDrop 1
  else
    let q := v.tx.lq ++ [{ late := true, seq := 0, part := part, flit := f, hdr := hdr, t0 := t0 }]
    ({ v with tx := { v.tx with lq := q } } : Port).peak .lqPeak q.length

/-- Flits of a late packet that may have joined by a time: each 180 t after it reached the pins, and after every earlier one (R308). -/
def PlanIn.joinable (k : PlanIn) (now : Nat) : Nat := (k.arr.takeWhile fun a => decide (a + tk 180 ≤ tk now)).length

/-- Whether a packet goes on in link positions (R308). -/
def PlanIn.isLate (k : PlanIn) (now : Nat) : Bool := k.late || decide (k.arr.headD 0 + tk 180 < tk now)

/-- A late packet goes on: the flits that may join do, and it leaves the list with its last. -/
def State.joinLate (s : State) (port n : Nat) (k : PlanIn) (part : Nat) (hdr : Flit) : State :=
  let m := k.joinable s.now
  let fl := ((hdr :: k.pkt.data).take m).drop k.joined
  let s1 := s.modPort port fun v =>
    let u := v.takeIn k
    if k.arr.length ≤ m then u else { u with rx := { u.rx with planIn := u.rx.planIn ++ [{ k with late := true, joined := m }] } }
  s1.modPort n fun v => fl.foldl (fun (u : Port) f => u.queueLate part f hdr (k.arr.headD 0 + tk 180)) v

/-- PLAN_PACKET_FORWARD: each flit leaves exactly 180 t after it reached the pins; a late packet goes on in link positions. Only HOPS of its
header changes (R273, R274). -/
def execPlanPacketForward (port : Nat) (s : State) : Host.Outcome State Fault Refusal :=
  .next (match (s.port port).rx.planIn.find? fun k =>
      decide ((Hdr.dec k.pkt.hdr).dst ≠ s.me) && (!k.isLate s.now || decide (k.joined < k.joinable s.now)) with
    | none => s
    | some k =>
      let h := Hdr.dec k.pkt.hdr
      let a0 := k.arr.headD 0
      let s1 := s.modPort port fun v => v.takeIn k
      match s1.planRoute h with
      | none => s1.fabCount .planNoRoute 1
      | some n =>
        let q := s1.port n
        if h.hops = 0 then s1.fabCount .hopDrop 1
        else if s.me = 0xFFFF then s1
        else if q.efence || q.lfence then s1.portCount n .fenceDrop 1
        else if q.st ≠ .up then s1.portCount n .planDrop 1
        else
          let hdr := withHops k.pkt.hdr (h.hops - 1)
          let fl := hdr :: k.pkt.data
          let me := planSlot h.part hdr (a0 + tk 180) false
          if k.isLate s.now then s.joinLate port n k h.part hdr
          else if (s1.part h.part).run.hzd then
            let x0 := s1.posOf n (a0 + tk 180)
            let x := if x0 < a0 + tk 180 then s1.nextPos n x0 else x0
            let ts := s1.openTimes n 4096 x fl
            s1.placePlan n ts (planSlot h.part hdr ((ts.head?.map (·.1)).getD x) false) 64
          else (s1.modPort n fun v => v.dropPlan me).placePlan n ((k.arr.map fun a => a + tk 180).zip fl) me 64)

/-! ## Service packets on an egress port (R260, R261, R273, R302) -/

/-- A channel has a packet ready whose flits find credits and replay places; transit SIG traffic waits while the Vestibule is
full (R287). -/
def State.vcReady (s : State) (n vc : Nat) : Option Packet :=
  let v := s.port n
  match SMap.get [] v.tx.egress vc with
  | [] => none
  | k :: _ =>
    let need := k.data.length + 1
    let held := (v.tx.replay.filter fun f => !f.plan).length
    if k.ready ≤ s.now ∧ need ≤ v.credits vc ∧ held + need ≤ 2048 ∧ v.tx.replay.length + need ≤ 4096 ∧ !(vc = 3 && k.ing.isSome && s.vestFull) then some k else none

/-- The channel that starts next: RSP, SIG, CMD, BULK; BULK after being passed over three times in a row (R261). -/
def State.nextVc (s : State) (n : Nat) : Option (Nat × Packet) :=
  let r := fun vc => (s.vcReady n vc).map fun k => (vc, k)
  if 3 ≤ (s.port n).tx.bulkPass ∧ (r 2).isSome then r 2 else ((((r 1) <|> (r 3)) <|> (r 0)) <|> (r 2))

/-- The position from which the next service packet may start, if it may be chosen now: none while flits of an earlier packet have still to
be sent after the present tick (R261). -/
def State.startPos (s : State) (n : Nat) : Option Nat :=
  let v := s.port n
  let last := v.tx.slots.foldl (fun a k => if k.2.kind = .service then max a (k.1 + 1) else a) 0
  let x := s.pos0 n
  if last ≤ x then some x else if last ≤ tk (s.now + 1) then some (s.nextPos n (last - 1)) else none

/-- SERVICE_PACKET_EGRESS: a service packet starts in the free open positions that follow, and debits its credits. -/
def execServicePacketEgress (port : Nat) (s : State) : Host.Outcome State Fault Refusal :=
  .next (let v := s.port port
    if v.st ≠ .up || s.quiet port then s
    else match s.startPos port, s.nextVc port with
      | some x, some (vc, k) =>
        let fl := k.hdr :: k.data
        let n := fl.length
        let bulk := (s.vcReady port 2).isSome
        let ssn := v.tx.ssnNew
        let held := fl.zipIdx.map fun f => ({ seq := ssn + f.2, plan := false, part := 0, flit := f.1, hdr := k.hdr, first := ssn, ended := none,
                                              sent := false, reps := 0, ing := k.ing } : TxFlit)
        let used := SMap.get 0 v.tx.crUsed vc
        let tmr := SMap.get 0 v.tx.crTmr vc
        let w : Port := { v with tx := { v.tx with
          egress := SMap.put [] v.tx.egress vc ((SMap.get [] v.tx.egress vc).drop 1), ssnNew := ssn + n, replay := v.tx.replay ++ held,
          crUsed := SMap.put 0 v.tx.crUsed vc (used + n), crTmr := SMap.put 0 v.tx.crTmr vc (if tmr = 0 then s.mnt.up + 1 else tmr),
          bulkPass := if vc = 2 then 0 else if bulk then v.tx.bulkPass + 1 else 0 } }
        (s.setPort port (w.peak .rbPeak w.tx.replay.length)).layService port (n + 4096) x (held.map svcSlot)
      | _, _ => s)

/-- SERVICE_PACKET_FORWARD: a transit packet is routed by the table of its generation, with HOPS decremented, or dropped with
an error completion (R273, R279, R280). Its places in the ingress buffer are freed as its flits are transmitted, or as it is dropped (R304). -/
def execServicePacketForward (port vc : Nat) (s : State) : Host.Outcome State Fault Refusal :=
  .next (match SMap.get [] (s.port port).rx.ingress vc with
    | [] => s
    | k :: _ =>
      let h := Hdr.dec k.hdr
      if h.dst = s.me ∨ (vc = 3 ∧ s.vestFull = true) then s
      else
        let s1 := s.popQueue port vc
        let drop := fun u : State => u.returnCredit k.ing vc (k.data.length + 1)
        match s1.way h with
        | (.egress n, s2) =>
          if h.hops = 0 then (drop (s2.fabCount .hopDrop 1)).answerDrop h 3
          else s2.pushEgress n vc { k with hdr := withHops k.hdr (h.hops - 1) }
        | (.drop st, s2) => (drop s2).answerDrop h st
        | (.loc, _) => s)

/-! ## Service routes (R281, R283) -/

/-- ROUTE_ACTIVATE: at FAB_ACT_AT the staging bank becomes active with generation NEXT. -/
def execRouteActivate (s : State) : Host.Outcome State Fault Refusal :=
  .next (let f := s.fab
    if f.armed && decide (f.actAt.toNat ≤ s.now) then
      s.modFab fun x => { x with sel := !x.sel, prev := x.active, active := x.next, pvalid := true, armed := false, retireAt := x.actAt.toNat + 50000 }
    else s)

/-- ROUTE_RETIRE: 50,000 t later the previous generation is retired. -/
def execRouteRetire (s : State) : Host.Outcome State Fault Refusal :=
  .next (if s.fab.pvalid && decide (s.fab.retireAt ≤ s.now) then s.modFab fun x => { x with pvalid := false } else s)

/-- FAB_GEN (Table 9.8): NEXT is stored, REJ cleared by writing 1, and ARM arms the activation or is
refused with REJ (R281). -/
def execFabGenArm (acc : Accessor) (v : BitVec 32) (s : State) : Host.Outcome State Fault Refusal :=
  .next (s.devWrite acc fun u =>
    let f0 := u.fab
    let f1 : Fab := { f0 with rej := f0.rej && !flag v 10, next := fld v 12 4 }
    if !flag v 16 then { u with fab := f1 }
    else
      let bad := f0.armed || decide (f1.next = f1.active) || f1.pvalid || decide (f1.actAt.toNat < u.now + 10000)
      { u with fab := if bad then { f0 with rej := true } else { f1 with armed := true } })

/-- FAB_DEVID: ignored while any plan is loaded; without an ID the ports send link-control positions alone (R283). -/
def execFabDevidWrite (acc : Accessor) (v : BitVec 32) (s : State) : Host.Outcome State Fault Refusal :=
  .next (s.devWrite acc fun u => if u.anyPlan then u else
    (List.range u.nPorts).foldl (fun w n => w.settle n (u.quiet n)) (u.modFab fun f => { f with devid := fld v 0 16 }))

end Sys2Proof.Machine
end

