-- ==== Sys2Proof/Machine/Courses.lean ====
section
/-! DEFINITION. The course table of a run (R38, R351 to R353): steps and their courses, the pinned start of a course with
what is decided there (R71, R425, R462, R513), the first plan beat of a course on a tile (COURSE_START, R42 to R44, R332),
and the end of a plan without step shapes (PLAN_COMPLETION, R45). -/

namespace Sys2Proof.Machine

/-! ## Steps and templates (R351, R352) -/

/-- The tick of a time that the plan counts from T (R63). -/
def Part.at_ (v : Part) (x : Nat) : Nat := v.run.t0 + v.scale * x

/-- The shape of the step in progress. DESIGN CHOICE (log entry 50). -/
def Part.shapeNow (v : Part) : Option Shape := v.plan.bind fun pl => pl.shapes[v.run.shape]?

/-- The shape of least DUR, the lower index of two alike (R352, R365). DESIGN CHOICE (log entry 50). -/
def leastShape (shs : List Shape) : Nat :=
  let m := shs.foldl (fun a h => match a with
    | none => some h.dur
    | some d => some (min d h.dur)) none
  (shs.findIdx? fun h => decide (some h.dur = m)).getD 0

/-- The course index of a template in the step in progress; a course of a plan without templates is its own. -/
def Part.instOf (v : Part) (c : Nat) : Option Nat :=
  match v.plan with
  | none => none
  | some pl =>
    if pl.serv.isNone then some c
    else if c = 0 then some v.run.head
    else match pl.shapes[v.run.shape]? with
      | some h => if v.run.manRead && decide (h.firstc ≤ c ∧ c < h.firstc + h.nc) then some (v.run.head + 1 + (c - h.firstc)) else none
      | none => none

/-- The template of a course of the step in progress. -/
def Part.templateOf (v : Part) (k : Nat) : Nat :=
  match v.plan with
  | none => k
  | some pl =>
    if pl.serv.isNone then k
    else if k ≤ v.run.head then 0
    else match pl.shapes[v.run.shape]? with
      | some h => h.firstc + (k - v.run.head - 1)
      | none => 0

/-- An instantiated course: the template with START counted from T (R351). -/
def instCourse (base : Nat) (c : Course) : Course := { c with start := base + c.start }

/-- The head course of a step. -/
def Plan.headCourse (pl : Plan) (k base : Nat) : List (Nat × Course) := ((pl.courses[0]?).map fun c => (k, instCourse base c)).toList

/-- The courses of a shape, numbered from `k` on. -/
def Plan.shapeCourses (pl : Plan) (h : Shape) (k base : Nat) : List (Nat × Course) :=
  (List.range h.nc).filterMap fun i => (pl.courses[h.firstc + i]?).map fun c => (k + i, instCourse base c)

/-- The number of courses of a step. -/
def stepLen (h : Shape) : Nat := h.nc + 1

/-- B_{k+1} and C_k of the step in progress (R352, R354); none before its shape is known. -/
def Part.nextBase (v : Part) : Option Nat :=
  if v.run.manRead then v.shapeNow.map fun h => v.at_ (v.run.base + h.dur) else none
def Part.commitAt (v : Part) : Option Nat :=
  match v.plan.bind (·.serv), v.nextBase, v.shapeNow with
  | some d, some _, some h => some (v.at_ (v.run.base + h.dur - d.cwin))
  | _, _, _ => none

/-- Step k + 1 begins at B_{k+1}: its head course is instantiated, and its manifest becomes the one in progress. -/
def Part.nextStep (v : Part) (pl : Plan) (h : Shape) : Part :=
  let base := v.run.base + h.dur
  let hd := v.run.head + stepLen h
  { v with run := { v.run with step := v.run.step + 1, base := base, head := hd, manRead := false, held := false,
                               inst := v.run.inst.filter (fun c => decide (v.run.head ≤ c.1)) ++ pl.headCourse hd base },
           serv := { v.serv with cur := v.serv.next, next := none } }

def State.stepAdvance (s : State) (p : Nat) : State :=
  let v := s.part p
  match v.plan, v.nextBase, v.shapeNow with
  | some pl, some b, some h =>
    if v.live && pl.serv.isSome && decide (b ≤ s.now) then
      let s1 := s.setPart p (v.nextStep pl h)
      let s2 := (s.tilesOf p).foldl (fun u t => u.modTile t fun x => { x with digI := 0 }) s1
      (List.range 8).foldl (fun u k => u.modStack k fun x =>
        { x with started := x.started.filter fun e => decide (s.owner 1 (48 * k) ≠ some p) || decide (v.run.head ≤ e.1) }) s2
    else s
  | _, _, _ => s

/-! ## Pinned starts -/

/-- Metered tokens of the course that ends, against AVG_TOK x LEN (R71). -/
def State.powerClose (s : State) (p k : Nat) : State :=
  let v := s.part p
  let s1 := s.modPart p fun x => { x with run := { x.run with tok := 0 } }
  match v.courseAt k with
  | none => s1
  | some c => if c.avg * c.len < v.run.tok then s1.raisePower p { FInfo.dev 0x04 0 [] with course := some k } else s1

/-- The comparison of one course (R513). -/
def State.shadowPair (s : State) (p : Nat) (a b : BitVec 128) : State :=
  let h := (s.part p).sh
  if a = 0 ∧ b = 0 then s
  else if a = b then
    let m := satAdd 16 h.mat 1
    s.modSh p fun x => { x with mat := m, verified := x.verified || decide (64 ≤ m),
                                role := if x.role = 1 ∧ (x.verified ∨ 64 ≤ m) then 2 else x.role }
  else
    (s.modSh p fun x => { x with mat := 0, verified := false, role := if x.role = 2 then 1 else x.role }).writeEvent p 3 []

/-- Compare the course digests that are present on both sides. -/
def State.shadowCompare (s : State) (p : Nat) : State :=
  let h := (s.part p).sh
  let other := fun k : Nat => (h.other.find? fun x => decide (x.1 = k)).map (·.2)
  let both := h.own.filterMap fun x => (other x.1).map fun d => (x.1, x.2, d)
  let done := fun k : Nat => both.any fun x => decide (x.1 = k)
  let s1 := s.modSh p fun x => { x with own := x.own.filter (fun y => !done y.1), other := x.other.filter fun y => !done y.1 }
  both.foldl (fun u x => u.shadowPair p x.2.1 x.2.2) s1

/-- The course digest of a shadowing pair: formed over the tiles, kept, and sent to the partner; the two are compared (R513). -/
def State.shadowClose (s : State) (p k : Nat) : State :=
  let d := (s.tilesOf p).foldl (fun (a : BitVec 128) t => a + (s.tile t).digCourse) 0
  let s1 := (s.tilesOf p).foldl (fun u t => u.modTile t fun x => { x with digCourse := 0 }) s
  let sh := (s.part p).sh
  if sh.role = 0 then s1
  else
    let s2 := s1.modSh p fun x => { x with own := x.own ++ [(k, d)] }
    (s2.shadowSend p sh.peer false ([1, word k] ++ lohi d.toNat ++ lohi (d.toNat / 2 ^ 64))).shadowCompare p

/-- SWG(k): the generation of a step (R423). -/
def Weights.swg (w : Weights) (k : Nat) : Nat := if w.mgen ≠ 0 ∧ w.mstep ≤ k then w.mgen else w.cur

/-- The layers that a template of the shape reads (R406). -/
def Plan.readBy (pl : Plan) (shape c : Nat) : List Nat :=
  match pl.wmap with
  | none => []
  | some m => (List.range m.nlayers).filter fun l =>
      match pl.reads[shape * m.nlayers + l]? with
      | some (a, b) => decide (a ≠ 0xFFFF ∧ a ≤ c ∧ c ≤ b)
      | none => false

/-- The weight check of a course of a step (R425): a layer of the wrong generation holds the step, and its sweeps stop. DEDUCED (log entry 49). -/
def State.weightCheck (s : State) (p k : Nat) : State :=
  let v := s.part p
  match v.plan with
  | none => s
  | some pl =>
    if pl.serv.isNone || decide (k ≤ v.run.head) || v.run.held then s else
    let swg := v.wts.swg v.run.step
    let w := fun l => SMap.get WState.reset v.wts.tab l
    match (pl.readBy v.run.shape (v.templateOf k)).find? fun l => decide ((w l).lstate ≠ 1 ∨ (w l).lgen ≠ swg) with
    | none => s
    | some l =>
      let s1 := s.modPart p fun x => { x with run := { x.run with held := true },
                                              serv := { x.serv with ctr := bump 32 1 x.serv.ctr ServCtr.whold.idx } }
      s1.raise p { FInfo.dev 0x18 0 (lohi v.run.step ++ [word k, word l, word (w l).lgen, word (w l).lstate, word swg]) with course := some k }

/-- Course `k` begins. DEDUCED (log entry 48). -/
def State.startCourse (s : State) (p k : Nat) : State :=
  let s1 := if k = 0 then s else (s.powerClose p (k - 1)).shadowClose p (k - 1)
  (s1.modPart p fun x => { x with run := { x.run with course := k + 1 } }).weightCheck p k

/-- What happens at the pinned start of the next course: a pause that is due (R462), or the start, with the close of the
course before it. DEDUCED (log entry 48). -/
def State.pinnedStart (s0 : State) (p : Nat) : State :=
  let s := s0.stepAdvance p
  let v := s.part p
  let k := v.run.course
  match v.startOf k with
  | none => s
  | some b =>
    if !v.live || decide (s.now < b) then s
    else match v.run.pause with
      | some (t, r) =>
        if t ≤ b then
          (s.modPart p fun x => { x with run := { x.run with pause := none, paused := some k } }).reply r 0 [word k]
        else s.startCourse p k
      | none => s.startCourse p k

/-! ## COURSE_START -/

/-- Fields of a sync-wait fault (Table 11.10). -/
def Wait.fields (w : Wait) : List Word := [word w.kind.code, 0] ++ lohi w.addr ++ lohi w.last.toNat ++ lohi w.val.toNat

/-- A wait at the head of SY spans a boundary; past LIM of them it is a fault (R332). -/
def State.waitBoundary (s : State) (t p : Nat) : State :=
  match (s.tile t).wait with
  | none => s
  | some w =>
    let lim := (s.part p).sywLim
    if lim ≠ 0 ∧ lim ≤ w.wcrs then s.opFault t .sy 0x13 0 w.iaddr w.fields
    else s.modTile t fun v => { v with wait := some { w with wcrs := w.wcrs + 1 } }

/-- The tile has not completed plan beat LEN - 1 of its course (R43). -/
def State.notDone (s : State) (t : Nat) : Bool :=
  match s.courseOf t with
  | none => false
  | some c => decide ((s.tile t).tim.beat < c.len)

/-- The time of a tile at plan beat 0 of course `k`, before any charge. -/
def TileTime.start (m : TileTime) (k : Nat) : TileTime :=
  { m with course := k + 1, beat := 0, plan := false, maint := false, s := 0, sIlk := 0, sRamp := 0, sStr := 0, sStep := 0, tok := 0 }

/-- The Room numbers the beats of the course from the beat in which the first tile of the partition begins it (R224). -/
def Room.number (x : Room) (p k : Nat) : Room :=
  if SMap.get 0 x.crs p = k + 1 then x else { x with crs := SMap.put 0 x.crs p (k + 1), bn0 := SMap.put 0 x.bn0 p (x.clk - 1) }

/-- The beat in progress at T + START + 2 t is stepped down: the beat before plan beat 0, or plan beat 0 itself where its
edge is that very tick (R41). -/
def State.startStepped (s : State) (t b : Nat) : Bool :=
  let x := s.room (s.roomOf t)
  if s.begTicks (s.roomOf t) = 10 * ((b : Int) + 2) then x.stepCur else x.stepPrev

/-- Plan beat 0 of course `k` on a tile. -/
def State.beginCourse (s : State) (t p k b : Nat) : State :=
  let s1 := s.modTile t fun v => { (if k = 0 then v else v.icUnlock (k - 1)) with tim := v.tim.start k }
  let s2 := s1.modRoom (s.roomOf t) fun x => x.number p k
  let s3 := if s.startStepped t b then s2.charge t .stepdn 1 else s2
  let e8 := (s.room (s.roomOf t)).curEv
  if e8 = 0 then s3 else s3.charge t .stretch e8

/-- COURSE_START. DEDUCED (log entry 48). -/
def execCourseStart (t : Nat) (s0 : State) : Host.Outcome State Fault Refusal :=
  .next (match s0.partOf t with
    | none => s0
    | some p =>
      let s := if s0.startDue t then s0.pinnedStart p else s0
      let k := (s.tile t).tim.course
      if !s.startDue t || !s.beatReady t || decide ((s.part p).run.course ≤ k) then s
      else if s.notDone t then
        let m := (s.tile t).tim
        s.tileFault t 0x01 0 0 [word m.s, word m.sIlk, word m.sRamp, word m.sStr, word m.sStep]
      else
        let s1 := s.waitBoundary t p
        if (s1.part p).live then s1.beginCourse t p k (((s.part p).startOf k).getD 0) else s1)

/-! ## PLAN_COMPLETION -/

/-- The completion tick of a plan without step shapes. DEDUCED (log entries 27, 48). -/
def Part.doneAt (v : Part) : Option Nat :=
  match v.plan with
  | none => none
  | some pl =>
    if pl.serv.isSome then none
    else (pl.courses.getLast?).map fun c => v.at_ (c.start + ceilDiv (pl.beat10 * (c.len + c.rsv)) 10 + 4)

/-- A partition at the completion of its plan; shadowing lasts for the job (R512). -/
def Part.finished (v : Part) : Part :=
  { v with launch := { v.launch with st := .complete }, run := { v.run with spent := true }, sh := { v.sh with role := 0 } }

/-- The plan of a partition becomes complete, and spent; what its tiles have queued drains. -/
def State.finishPlan (s : State) (p : Nat) : State :=
  let k := (s.part p).run.course - 1
  let s1 := (s.powerClose p k).shadowClose p k
  if !(s1.part p).live then s1 else
  let s2 := s1.modPart p Part.finished
  (s.tilesOf p).foldl (fun u t => u.modTile t fun x => { x with drained := false }) s2

/-- PLAN_COMPLETION (R45). DESIGN CHOICE (log entry 2). -/
def execPlanCompletion (p : Nat) (s : State) : Host.Outcome State Fault Refusal :=
  .next (let v := s.part p
    match v.doneAt with
    | none => s
    | some d => if v.live && decide (d ≤ s.now) then s.finishPlan p else s)

end Sys2Proof.Machine
end

