-- ==== Sys2Proof/Machine/Sweep.lean ====
section
/-! DEFINITION. Attention in the Marl stacks (R197 to R222): the manifest entries that a sweep serves, the page pairs it
reads, the partials and their merge (R208, R209), and the start, the end and the deadline of a sweep. -/

namespace Sys2Proof.Machine

/-! ## The manifest (R367, Table 12.7) -/

/-- A manifest entry of 16 bytes. -/
def manEntOf (bs : List Byte) : ManEnt :=
  let w0 := wordAt bs 0
  let w1 := wordAt bs 1
  { rcd := fld w0 0 14, kind := fld w0 14 2, lane := fld w0 16 5, adpen := flag w0 21, adp := fld w0 22 10, n := fld w1 0 16 + 1,
    off := fld w1 16 16, p0 := (wordAt bs 2).toNat, endp := flag (wordAt bs 3) 0 }

def ManEnt.words (e : ManEnt) : List Word :=
  [word (e.rcd % 2 ^ 14 + (e.kind % 4) * 2 ^ 14 + (e.lane % 32) * 2 ^ 16 + put1 e.adpen 21 + (e.adp % 2 ^ 10) * 2 ^ 22),
   word ((e.n - 1) % 2 ^ 16 + (e.off % 2 ^ 16) * 2 ^ 16), word e.p0, word (put1 e.endp 0)]

def Manifest.ntokOf (es : List ManEnt) : Nat := es.foldl (fun n e => n + e.n) 0

/-- The header of 256 bytes. -/
def Manifest.header (m : Manifest) : List Word :=
  lohi m.step ++ [word (m.shape % 16 + (m.ents.length % 2 ^ 12) * 2 ^ 4 + put1 m.miss 16), word (m.ntok % 2 ^ 17)] ++ List.replicate 60 0

/-- The 64 KiB of a manifest. -/
def Manifest.bytes (m : Manifest) : List Byte := fit 65536 (wordsToBytes (m.header ++ m.ents.flatMap ManEnt.words))

/-! ## Reads inside the stack (R205, R219) -/

/-- An address lies in the stack and in a region of the partition. -/
def State.inSweep (s : State) (p stk a n : Nat) : Bool := decide (a / stackSize = stk) && s.ownedMarl p a n

/-- A read inside the stack; anything else reads as zeros. -/
def State.swpRd (s : State) (p stk a n : Nat) : List Byte := if s.inSweep p stk a n then s.rd a n else zeros n

/-- The K and V pages of page pair `j`, from the request's page list (Tables 12.8, R370); none where the list does not
describe a pair in Marl. -/
def State.pagePair (s : State) (p stk lst cap j : Nat) : Option (Nat × Nat) :=
  if lst = 0 ∨ cap ≤ j then none
  else
    let e := s.swpRd p stk (lst + 16 * j) 16
    if fld (wordAt e 0) 0 2 ≠ 0 then none
    else some (fld (wordAt e 1) 0 27 * 16384, fld (wordAt e 2) 0 27 * 16384)

/-- The engine of a stack address: 16 x die + channel (R198). -/
def engineOf (a : Nat) : Nat := 16 * dieOf (a % stackSize) + chanOf (a % stackSize)

/-- Elements of a page, and the cost of a page pair in engine beats (R211). -/
def SweepEnt.elems (w : SweepEnt) : Nat := if w.kfmt = 2 then 8192 else 16384
def pairCost (elems ratio n : Nat) : Nat := 2 * max 1024 (ceilDiv (elems * ratio * n) 80) + 16

/-! ## Arithmetic (R207 to R209) -/

/-- Rounded once to FP32. -/
def rnd32 (v : FV) : FV := fp32.decode (fp32.encode v)

def FV.isNegInf : FV → Bool
  | .inf n => n
  | _ => false

/-- Ancestors of a node with itself; a parent that is not less than the node is taken as 0. -/
def ancestors (par : List Nat) : Nat → Nat → List Nat
  | 0, i => [i]
  | n + 1, i => if i = 0 then [0] else
      let q := par.getD i 0
      i :: ancestors par n (if q < i then q else 0)

/-- A row at position `p0 + i` sees a position. -/
def seesPos (p0 : Nat) (anc : List Nat) (x : Nat) : Bool := decide (x < p0) || (decide (p0 ≤ x) && anc.contains (x - p0))

/-- A partial: m, l and o; a field for which the manual gives no value is none. -/
structure Partial where
  m : Option FV
  l : Option FV
  o : List (Option FV)
  deriving DecidableEq, Repr

def FV.sum (xs : List FV) : FV := xs.foldl FV.add (.fin false 0 0)
def FV.dot (a b : List FV) : FV := FV.sum (List.zipWith FV.mul a b)
/-- rnd32(2^x). -/
def exp2r (x : FV) : FV := fp32.decode (vfnEval 0 fp32 x)

/-- The partial of a page pair over the keys and values of the tokens that the row sees (R208). A maximum that is infinite leaves the
weights without a value, and a score that is no number leaves the maximum without one. DESIGN CHOICE (log entry 44). -/
def partialOf (q : List FV) (sc : FV) (dim : Nat) (kv : List (List FV × List FV)) : Partial :=
  if kv.isEmpty then { m := some (.inf true), l := some (.fin false 0 0), o := List.replicate dim (some (.fin false 0 0)) }
  else
    let ss := kv.map fun t => rnd32 (FV.mul (rnd32 (FV.dot q t.1)) sc)
    if ss.contains .nan then { m := none, l := none, o := List.replicate dim none }
    else
      let m := ss.foldl FV.max (.inf true)
      match m with
      | .fin .. =>
        let ps := ss.map fun x => exp2r (FV.add x m.neg)
        { m := some m, l := some (rnd32 (FV.sum ps)),
          o := (List.range dim).map fun d => some (rnd32 (FV.sum (List.zipWith (fun a t => FV.mul a (t.2.getD d (.fin false 0 0))) ps kv))) }
      | _ => { m := some m, l := none, o := List.replicate dim none }

/-- The weight of a partial in a merge: 0 for a maximum of -Inf, none where both maxima are +Inf (Table 7.4). -/
def mergeWeight (x m : FV) : Option FV :=
  if x.isNegInf then some (.fin false 0 0)
  else match FV.add x m.neg with
    | .nan => none
    | d => some (exp2r d)

/-- A sum of two weighted fields, rounded once; none where the manual gives it no value. -/
def mergeField (x y a b : Option FV) : Option FV :=
  match x, y, a, b with
  | some x, some y, some a, some b => match rnd32 (FV.add (FV.mul x a) (FV.mul y b)) with
    | .nan => none
    | v => some v
  | _, _, _, _ => none

/-- The merge of two partials (R209, Table 7.4). DESIGN CHOICE (log entry 44). -/
def mergePartial (a b : Partial) : Partial :=
  match a.m, b.m with
  | some x, some y =>
    let m := FV.max x y
    let f := fun u v : Option FV => mergeField u v (mergeWeight x m) (mergeWeight y m)
    { m := some m, l := f a.l b.l, o := List.zipWith f a.o b.o }
  | _, _ => { m := none, l := none, o := List.replicate (min a.o.length b.o.length) none }

/-- The record of a row, 4D + 16 bytes (Table 7.3): o, m and l as FP32 codes, and 8 zero bytes. A field of no stated value is a free
value, the `k`-th and those after it. DESIGN CHOICE (log entry 44). -/
def recordBytes (k : Nat) (fs : List (Option Nat)) : List Byte :=
  ((fs.zipIdx.map fun f => toLE 4 (f.1.getD (Config.freeWord (k + f.2)).toNat)).flatten) ++ zeros 8
def Partial.fields (r : Partial) : List (Option Nat) := (r.o ++ [r.m, r.l]).map fun v => v.map fp32.encode
def nanFields (dim : Nat) : List (Option Nat) := List.replicate (dim + 2) (some 0x7FC00000)

/-- Elements of a head's row of a page. -/
def SweepEnt.rowOf (w : SweepEnt) (page : List Byte) (t h : Nat) : List FV :=
  let dim := 32 * 2 ^ w.dc
  let b := if w.kfmt = 2 then 2 else 1
  let f := match w.kfmt with
    | 0 => e4m3
    | 1 => e5m2
    | _ => bf16
  (List.range dim).map fun d => f.decode (natAt page (256 * t + (h * dim + d) * b) b)

/-- The fields of the record of a query row over its page pairs (R208, R209); none of them has a value where a page is missing. -/
def SweepEnt.rowRecord (w : SweepEnt) (q : List FV) (p0 : Nat) (anc : List Nat) (h : Nat) (pages : Option (List (List Byte × List Byte))) :
    List (Option Nat) :=
  let dim := 32 * 2 ^ w.dc
  let kvs := ((pages.getD []).zipIdx).map fun pj =>
    ((List.range 64).filter fun t => seesPos p0 anc (64 * pj.2 + t)).map fun t => (w.rowOf pj.1.1 t h, w.rowOf pj.1.2 t h)
  if (q.any FV.special) || kvs.any fun kv => kv.any fun t => t.1.any FV.special || t.2.any FV.special then nanFields dim
  else
    match kvs.map fun kv => partialOf q (fp32.decode w.sc.toNat) dim kv with
    | [] => List.replicate (dim + 2) none
    | f :: r => (r.foldl mergePartial f).fields

/-! ## A sweep's work -/

/-- What the sequencer gathers: records, page pairs, load of each engine, reads outside the partition's regions, sectors corrected, the first
uncorrectable sector and the first of the reads now made, and free values drawn. -/
structure SwpAcc where
  recs  : List (Nat × List Byte)
  pairs : Nat
  loads : SMap Nat
  miss  : Nat
  soft  : List Nat
  bad   : Option Nat
  hit   : Option Nat
  free  : Nat
  deriving DecidableEq, Repr

/-- A read inside the stack: one outside the partition's regions reads zeros and is counted; any other is corrected, and may meet an
uncorrectable sector (R166, R182, R219). -/
def SwpAcc.meet (acc : SwpAcc) (s : State) (p stk a n : Nat) : SwpAcc :=
  if n = 0 then acc
  else if s.inSweep p stk a n then
    { acc with soft := acc.soft ++ s.softIn a n, hit := acc.hit.or (s.badIn (a / 32 * 32) (a + n - a / 32 * 32)) }
  else { acc with miss := acc.miss + 1 }

/-- The records of one request and head group, or none of them where a read has met an uncorrectable sector (R219). -/
def SwpAcc.close (acc : SwpAcc) (base size : Nat) (rows : List (Nat × List (Option Nat))) : SwpAcc :=
  let a : SwpAcc := match acc.hit with
    | some _ => { acc with bad := acc.bad.or acc.hit }
    | none => rows.foldl (fun (b : SwpAcc) r => { b with recs := b.recs ++ [(base + r.1 * size, recordBytes b.free r.2)], free := b.free + r.2.length }) acc
  { a with hit := none }

/-- One head group of an entry. DESIGN CHOICE (log entry 44). -/
def State.sweepGroup (s : State) (p : Nat) (w : SweepEnt) (d : ServDesc) (k : ServStack) (e : ManEnt) (par : List Nat) (parAt parN : Nat) (acc : SwpAcc)
    (i : Nat) : SwpAcc :=
  let dim := 32 * 2 ^ w.dc
  let g := 256 / (dim * (if w.kfmt = 2 then 2 else 1))
  let ratio := w.rm1 + 1
  let dir := k.dirbase + 8 * ((e.rcd * d.layers + w.layer) * k.hgs + i)
  let de := leNat (s.swpRd p w.stack dir 8)
  let lst := bits de 0 48
  let nq := ceilDiv (e.p0 + e.n) 64
  let cap := bits de 48 16 * 256
  let prs := (List.range nq).map fun j => s.pagePair p w.stack lst cap j
  let cost := pairCost w.elems ratio e.n
  let loads := prs.foldl (fun m o => match o with
    | some (ka, _) => if ka / stackSize = w.stack then SMap.put 0 m (engineOf ka) (SMap.get 0 m (engineOf ka) + cost) else m
    | none => m) acc.loads
  let addrs := (prs.filterMap id).flatMap fun x => [x.1, x.2]
  let row := fun r : Nat => ((e.off + r / (g * ratio)) * w.hgn + i) * (g * ratio) + r % (g * ratio)
  let nrow := e.n * g * ratio
  let qAt := fun r : Nat => w.qbase + row r * (2 * dim)
  let reads := [(dir, 8), (lst, if lst = 0 then 0 else 16 * min nq cap), (parAt, parN)] ++ addrs.map (fun a => (a, 16384)) ++
    (List.range nrow).map fun r => (qAt r, 2 * dim)
  let acc1 := reads.foldl (fun b x => b.meet s p w.stack x.1 x.2) { acc with loads := loads, pairs := acc.pairs + nq }
  let pages? : Option (List (List Byte × List Byte)) :=
    if prs.any Option.isNone then none
    else some ((prs.filterMap id).map fun x => (s.swpRd p w.stack x.1 16384, s.swpRd p w.stack x.2 16384))
  acc1.close w.rbase (4 * dim + 16) ((List.range nrow).map fun r =>
    let q := (List.range dim).map fun n => bf16.decode (leNat (s.swpRd p w.stack (qAt r + 2 * n) 2))
    (row r, w.rowRecord q e.p0 (ancestors par 64 (r / (g * ratio))) (r % (g * ratio) / ratio) pages?))

/-- The parent array of an entry (R394): read for a tree, the chain otherwise. -/
def State.parents (s : State) (p : Nat) (w : SweepEnt) (k : ServStack) (e : ManEnt) : List Nat :=
  if e.kind = 2 then (s.swpRd p w.stack (k.manbase + 0x10000 + e.off) e.n).map BitVec.toNat else (List.range e.n).map fun i => i - 1

/-- Bytes of the parent array that an entry reads. -/
def ManEnt.parN (e : ManEnt) : Nat := if e.kind = 2 then e.n else 0

/-- The whole sweep: every entry of 1 to 64 tokens, every head group (R203). DESIGN CHOICE (log entry 45). -/
def State.sweepWork (s : State) (p : Nat) (w : SweepEnt) : SwpAcc :=
  let z : SwpAcc := { recs := [], pairs := 0, loads := [], miss := 0, soft := [], bad := none, hit := none, free := s.free }
  match (s.part p).plan.bind (·.serv) with
  | none => z
  | some d =>
    match d.stks[w.stack]? with
    | none => z
    | some k =>
      let nent := fld (wordAt (s.swpRd p w.stack k.manbase 16) 2) 4 12
      let z1 := z.meet s p w.stack k.manbase (256 + 16 * nent)
      match z1.hit with
      | some _ => { z1 with bad := z1.hit, hit := none }
      | none =>
        let es := (List.range nent).map fun m => manEntOf (s.swpRd p w.stack (k.manbase + 256 + 16 * m) 16)
        (es.filter fun e => decide (e.n ≤ 64)).foldl (fun a e =>
          (List.range w.hgn).foldl (fun a i => s.sweepGroup p w d k e (s.parents p w k e) (k.manbase + 0x10000 + e.off) e.parN a i) a) z1

/-! ## SWEEP_START, SWEEP_COMPLETE, SWEEP_DEADLINE -/

/-- The sweeps of a stack that are due and have not started: partition, entry, course index, T_s (R202). -/
def State.sweepsDue (s : State) (stk : Nat) : List (Nat × SweepEnt × Nat × Nat) :=
  (List.range 64).flatMap fun p =>
    let v := s.part p
    match v.plan with
    | none => []
    | some pl =>
      if !v.live then [] else
      pl.sweeps.filterMap fun w =>
        match v.instOf w.course with
        | none => none
        | some c => match v.startOf c with
          | none => none
          | some b =>
            let ts := b + v.scale * w.tstart
            if w.stack = stk ∧ ts ≤ s.now ∧ c < v.run.course ∧ !((s.stack stk).started.contains (c, w.sid)) then some (p, w, c, ts) else none

/-- The sweep of a stack takes place in its record. -/
def State.putSweep (s : State) (stk : Nat) (w : Sweep) (c : Nat) : State :=
  s.modStack stk fun k => { k with sweep := some w, sid := w.ent.sid, started := k.started ++ [(c, w.ent.sid)] }

/-- SWEEP_START (R205, R213, R219): a sweep over its budget, or one of a step that is held, writes no record. DESIGN CHOICE (log entry 45). -/
def execSweepStart (stk : Nat) (s : State) : Host.Outcome State Fault Refusal :=
  .next (let busy := (s.stack stk).sweep.any fun w => !w.fin && !w.stopped
    match s.sweepsDue stk with
    | [] => s
    | (p, w, c, ts) :: _ =>
      if busy then s else
      let r := s.sweepWork p w
      let held := (s.part p).run.held
      let early := r.loads.find? fun e => decide (w.win < e.2)
      let off := held || early.isSome
      let sw : Sweep := { ent := w, part := p, ts := ts, recs := if off then [] else r.recs, pairs := r.pairs,
                          ebusy := r.loads.foldl (fun n e => n + e.2) 0, blks := [], loads := r.loads, lost := [], refr := [],
                          fin := false, stopped := off }
      let s1 := ({ s with free := r.free }).putSweep stk sw c
      let s2 := r.soft.foldl (fun u a => u.countCe a 1) (if r.miss = 0 then s1 else s1.devCount .xpartMem r.miss)
      match early with
      | some (eng, le) => s2.raise p (FInfo.dev 0x0C 0 [word stk, word w.sid, word eng, word le, word w.win])
      | none =>
        match r.bad with
        | some a => (s2.askTest 1 (a / 16384)).raise p (FInfo.dev 0x0B 2 (marlFields a ++ [word w.sid]))
        | none => s2)

/-- The deadline of a sweep. -/
def State.sweepEnd (s : State) (w : Sweep) : Nat := w.ts + (s.part w.part).scale * w.ent.deadline

/-- Engines that cannot have finished by a tick: their load and the beats that interface blocks took, 1.024 t each, do not fit between T_s and
that tick without the channel's refresh windows (R197, R211, R214). -/
def Sweep.busyEngines (w : Sweep) (t : Nat) : Nat :=
  (w.loads.filter fun e =>
    decide (125 * (t - w.ts - SMap.get 0 w.refr (e.1 % 16)) < 128 * (e.2 + SMap.get 0 w.lost e.1))).length

/-- The most plan blocks that one die and channel has carried during a sweep. -/
def Sweep.mostBlks (w : Sweep) : Nat := w.blks.foldl (fun n e => max n e.2) 0

/-- A sweep ends with every record written (R206), and is counted (R221). -/
def State.finishSweep (s : State) (stk : Nat) (w : Sweep) : State :=
  let s1 := w.recs.foldl (fun u e => u.wr e.1 e.2) s
  let slack := s.sweepEnd w - s.now
  s1.modStack stk fun k =>
    let k1 := ((k.count .swpDone 1).count .swpPairs w.pairs).count .swpEbusy w.ebusy
    { k1 with sweep := some { w with fin := true, recs := [] },
              ctr := SMap.put 0 k1.ctr StackCtr.swpSlack.idx (min slack (SMap.get 0 k1.ctr StackCtr.swpSlack.idx)) }

/-- SWEEP_COMPLETE: the engines have finished, and every record is written (R206). DESIGN CHOICE (log entry 45). -/
def execSweepComplete (stk : Nat) (s : State) : Host.Outcome State Fault Refusal :=
  .next (match (s.stack stk).sweep with
    | none => s
    | some w => if w.fin || w.stopped || decide (s.sweepEnd w < s.now) || decide (0 < w.busyEngines s.now) then s else s.finishSweep stk w)

/-- SWEEP_DEADLINE, at T_s + DEADLINE: a sweep whose plan blocks keep to BPMAX is complete by then (R215); another is complete if its engines
have finished, and a fault otherwise (R217, Table 7.8). DESIGN CHOICE (log entry 45). -/
def execSweepDeadline (stk : Nat) (s : State) : Host.Outcome State Fault Refusal :=
  .next (match (s.stack stk).sweep with
    | none => s
    | some w =>
      if s.now < s.sweepEnd w then s else
      let close := fun u : State => u.modStack stk fun k => { k with sweep := none }
      if w.fin || w.stopped then close s
      else if w.mostBlks ≤ w.ent.bpmax ∨ w.busyEngines (s.sweepEnd w) = 0 then close (s.finishSweep stk w)
      else (close s).raise w.part
          (FInfo.dev 0x0D 0 [word stk, word w.ent.sid, word (w.busyEngines (s.sweepEnd w)), word w.mostBlks]))

end Sys2Proof.Machine
end

