-- ==== Sys2Proof/Machine/Launch.lean ====
section
/-! DEFINITION. Launch (R247 to R252, R461): the arm down the launch tree, the acknowledgements, the confirm and its flood,
the cut-off, and the firing of a plan. -/

namespace Sys2Proof.Machine

/-! ## Messages (Table 8.12) -/

/-- The fields of a launch message. -/
structure LMsg where
  typ : Nat
  part : Nat
  status : Nat
  lid : Nat
  root : Nat
  orig : Nat
  t : Nat
  pdig : Nat
  deriving DecidableEq, Repr

def LMsg.body (m : LMsg) : BitVec 192 :=
  BitVec.ofNat 192 (m.typ % 4 + (m.part % 64) * 2 ^ 2 + (m.status % 16) * 2 ^ 8 + (m.lid % 2 ^ 16) * 2 ^ 16 + (m.root % 2 ^ 16) * 2 ^ 32
    + (m.orig % 2 ^ 16) * 2 ^ 48 + (m.t % 2 ^ 64) * 2 ^ 64 + (m.pdig % 2 ^ 64) * 2 ^ 128)
def LMsg.of (b : BitVec 192) : LMsg :=
  let v := b.toNat
  { typ := bits v 0 2, part := bits v 2 6, status := bits v 8 4, lid := bits v 16 16, root := bits v 32 16, orig := bits v 48 16,
    t := bits v 64 64, pdig := bits v 128 64 }

/-- Put a launch message on a link. -/
def State.sendLaunch (s : State) (n : Nat) (m : LMsg) : State :=
  if n < s.nPorts then s.modPort n fun v => v.sayNumbered 3 m.body else s

/-- The launch message at the head of a port's, if it is of a type; one of type 0b11 or with a reserved field that is not 0 is
discarded by whichever row finds it (R248). -/
def State.hearLaunch (s : State) (n typ : Nat) : Option LMsg × State :=
  match (s.port n).hear 3 with
  | none => (none, s)
  | some (m, v) =>
    let x := LMsg.of m.body
    if x.typ = 3 ∨ bits m.body.toNat 12 4 ≠ 0 then (none, s.setPort n v)
    else if x.typ = typ then (some x, s.setPort n v)
    else (none, s)

/-! ## The check of an arm (Table 8.13; R238: with both references bad a launch is refused as out of TRACK) -/

/-- Child ports of the launch tree. -/
def Part.children (v : Part) : List Nat := (List.range 16).filter fun n => v.ltChild.getLsbD n

/-- A port is a trained plan link of the partition that passes the cable-delay check (R52, R291, R314). -/
def State.planLinkOk (s : State) (p n : Nat) : Bool :=
  match (s.part p).plan.bind fun pl => pl.links[n]? with
  | some (c, true) =>
    let v := s.port n
    decide (n < s.nPorts) && decide (v.st = .up) && decide (c ≤ 300) && decide (10 * c < v.delay + 10) && decide (v.delay ≤ 10 * c) &&
      !v.efence && !v.lfence
  | _ => false

/-- Low 64 bits of a plan's digest. -/
def Plan.pdigLow (pl : Plan) : Nat := pl.pdig.toNat % 2 ^ 64

def State.armCheck (s : State) (p : Nat) (m : LMsg) : Nat :=
  let v := s.part p
  match v.plan with
  | none => 1
  | some pl =>
    if v.run.spent || decide (pl.pdigLow ≠ m.pdig) then 1
    else if s.mnt.td ≠ .track ∨ s.mnt.hold = true then 2
    else if m.t < s.now + 20000 + pl.f then 3
    else if v.running then 4
    else
      let named := v.children ++ (if v.ltRoot then [] else [v.ltParent])
      if (pl.linkPorts ++ named).all fun n => s.planLinkOk p n then 0 else 5

/-! ## Acknowledgement and confirm -/

def Launch.msg (l : Launch) (p typ status orig : Nat) : LMsg :=
  { typ := typ, part := p, status := status, lid := l.lid, root := l.root, orig := orig, t := l.t, pdig := l.pdig }

/-- The one ack that a device sends to its parent (R249). -/
def State.ackUp (s : State) (p status orig : Nat) : State :=
  let l := (s.part p).launch
  if l.acked then s
  else
    let s1 := s.modPart p fun v => { v with launch := { v.launch with acked := true } }
    match l.parent with
    | some n => s1.sendLaunch n (l.msg p 1 status orig)
    | none => s1

/-- Send a confirm on every plan link of the loaded plan, except the one on which it came. -/
def State.flood (s : State) (p : Nat) (except? : Option Nat) (m : LMsg) : State :=
  match (s.part p).plan with
  | none => s
  | some pl => (pl.linkPorts.filter fun n => decide (some n ≠ except?)).foldl (fun u n => u.sendLaunch n m) s

/-- The bound of the confirm: T - 20,000 - F. -/
def Part.confirmBy (v : Part) : Nat := v.launch.t - 20000 - (v.plan.map (·.f)).getD 0

/-- Every child has acked 0x0 and the device is ready: it acks its parent, or the root sends the confirm (R249). -/
def State.allReady (s : State) (p : Nat) : State :=
  let v := s.part p
  let l := v.launch
  if !l.ready || !(v.children.all fun n => l.acksOk.contains n) then s
  else if l.parent.isSome then s.ackUp p 0 0xFFFF
  else if l.cancelled || l.late || l.fail.isSome || l.confSent || decide (v.confirmBy < s.now) then s
  else
    let s1 := s.modPart p fun x => { x with launch := { x.launch with confSent := true, conf := true, st := .confirmed, seenConf := some l.lid } }
    s1.flood p none (l.msg p 2 0 0)

/-- A failing status: the relay acks it at once, the root keeps the first. -/
def State.ackFail (s : State) (p status orig : Nat) : State :=
  let l := (s.part p).launch
  if l.parent.isSome then s.ackUp p status orig
  else if l.fail.isSome then s
  else s.modPart p fun v => { v with launch := { v.launch with fail := some (status, orig) } }

/-! ## Arming -/

/-- The launch record of an arm; a confirm that came before it counts if both are held by T - 20,000 (R249). -/
def Launch.armed (old : Launch) (m : LMsg) (parent : Option Nat) (reply : Option CmdRef) (now : Nat) : Launch :=
  let conf := decide (old.seenConf = some m.lid ∧ now + 20000 ≤ m.t)
  { Launch.reset with st := if conf then .confirmed else .armed, lid := m.lid, t := m.t, root := m.root, pdig := m.pdig, parent := parent,
                      seenArm := some m.lid, seenConf := old.seenConf, conf := conf, reply := reply }

/-- An arm that the device cannot hold. DESIGN CHOICE (log entry 51). -/
def Launch.refused (l : Launch) (m : LMsg) (st : Nat) (reply : Option CmdRef) : Launch :=
  let u := reply.map fun r => ({ lid := m.lid, t := m.t, status := st, cancelled := false, reply := r } : Unarmed)
  { l with seenArm := some m.lid, unarmed := u.or l.unarmed }

/-- The device takes an arm: it forwards it to its children, and acks a failing check at once. -/
def State.takeArm (s : State) (p : Nat) (m : LMsg) (parent : Option Nat) (reply : Option CmdRef) : State :=
  let v := s.part p
  let st := s.armCheck p m
  let holds := v.plan.isSome && !v.run.spent && !v.running
  let s1 := if holds then s.modPart p fun x =>
      { x with launch := { x.launch.armed m parent reply s.now with ready := decide (st = 0), unarmed := x.launch.unarmed },
               flt := { x.flt with sum := { JobSum.reset with lid := m.lid } } }
    else s.modPart p fun x => { x with launch := x.launch.refused m st reply }
  let s2 := (v.children).foldl (fun u n => u.sendLaunch n m) s1
  if holds then
    if st = 0 then s2.allReady p else s2.ackFail p st s.me
  else
    match parent with
    | some n => s2.sendLaunch n { m with typ := 1, status := st, orig := s.me }
    | none => s2

/-- LAUNCH_ARM_RECEIVE (R248, R249, R252). -/
def execLaunchArmReceive (port : Nat) (s : State) : Host.Outcome State Fault Refusal :=
  .next (match s.hearLaunch port 0 with
    | (none, s1) => s1
    | (some m, s1) =>
      let v := s1.part m.part
      if v.ltRoot || decide (port ≠ v.ltParent) || decide (v.launch.seenArm = some m.lid) then s1
      else s1.takeArm m.part { m with typ := 0, status := 0, orig := 0 } (some port) none)

/-- LAUNCH_ACK_RECEIVE (R248, R249). -/
def execLaunchAckReceive (port : Nat) (s : State) : Host.Outcome State Fault Refusal :=
  .next (match s.hearLaunch port 1 with
    | (none, s1) => s1
    | (some m, s1) =>
      let p := m.part
      let l := (s1.part p).launch
      if l.lid ≠ m.lid || l.acked || !((s1.part p).children.contains port) || l.acksIn.contains (port, m.lid) ||
         !decide (l.st = .armed ∨ l.st = .confirmed) then s1
      else
        let ok := if m.status = 0 then l.acksOk ++ [port] else l.acksOk
        let s2 := s1.modPart p fun v => { v with launch := { v.launch with acksIn := l.acksIn ++ [(port, m.lid)], acksOk := ok } }
        if m.status = 0 then s2.allReady p else s2.ackFail p m.status m.orig)

/-- LAUNCH_CONFIRM_RECEIVE: held, and forwarded once on every other plan link (R249). -/
def execLaunchConfirmReceive (port : Nat) (s : State) : Host.Outcome State Fault Refusal :=
  .next (match s.hearLaunch port 2 with
    | (none, s1) => s1
    | (some m, s1) =>
      let p := m.part
      let l := (s1.part p).launch
      if l.seenConf = some m.lid then s1
      else
        let mine := decide (l.st = .armed) && decide (l.lid = m.lid) && decide (s1.now + 20000 ≤ l.t)
        let st := if mine then LaunchSt.confirmed else l.st
        let s2 := s1.modPart p fun v => { v with launch := { v.launch with seenConf := some m.lid, conf := l.conf || mine, st := st } }
        s2.flood p (some port) m)

/-! ## Deadlines -/

/-- LAUNCH_CONFIRM_DEADLINE: at T - 20,000 - F a root without all its acks sends no confirm (R249). -/
def execLaunchConfirmDeadline (p : Nat) (s : State) : Host.Outcome State Fault Refusal :=
  .next (let v := s.part p
    if v.launch.st = .armed ∧ v.launch.parent = none ∧ v.launch.confSent = false ∧ v.confirmBy ≤ s.now then
      s.modPart p fun x => { x with launch := { x.launch with late := true } }
    else s)

/-- The reply to a LAUNCH that does not fire (R461). -/
def notConfirmed (cancelled : Bool) (fail : Option (Nat × Nat)) : List Word :=
  if cancelled then [3]
  else match fail with
    | some (st, orig) => [word (1 + st * 2 ^ 8), word orig]
    | none => [2]

/-- The cut-off of a LAUNCH that the root could not arm. DESIGN CHOICE (log entry 51). -/
def State.unarmedCut (s : State) (p : Nat) : State :=
  match (s.part p).launch.unarmed with
  | some u =>
    if u.t ≤ s.now + 20000 then
      (s.modPart p fun v => { v with launch := { v.launch with unarmed := none } }).reply u.reply 0x0B (notConfirmed u.cancelled (some (u.status, s.me)))
    else s
  | none => s

/-- LAUNCH_CUTOFF: at T - 20,000 a device without arm and confirm discards the arm; the root replies (R249, R461). -/
def execLaunchCutoff (p : Nat) (s0 : State) : Host.Outcome State Fault Refusal :=
  .next (let s := s0.unarmedCut p
    let l := (s.part p).launch
    if l.st = .armed ∧ l.t ≤ s.now + 20000 then
      let s1 := s.modPart p fun v => { v with launch := { v.launch with st := .abandoned, reply := none, seenArm := none, seenConf := none } }
      match l.reply with
      | some r => s1.reply r 0x0B (notConfirmed l.cancelled l.fail)
      | none => s1
    else s)

/-! ## Fire -/

/-- The run of a plan from its launch count on (R351, R352). -/
def Part.firedRun (v : Part) (hzd stop : Bool) : Run :=
  let r : Run := { Run.reset with t0 := v.launch.t, hzd := hzd, hzdStop := hzd && stop }
  match v.plan with
  | none => r
  | some pl => if pl.serv.isSome then { r with shape := leastShape pl.shapes, inst := pl.headCourse 0 0 } else r

/-- The audit of a partition at a launch: the writes that waited, and the counts since launch (R441, R442). -/
def Audit.launched (a : Audit) : Audit :=
  let c := a.pendCtl.getD 0
  let b := if a.pendCtl.isSome then { a with en := flag c 0, trec := flag c 1, lsz := fld c 2 5, twen := flag c 7 } else a
  { b with base := a.pendBase.getD a.base, pendCtl := none, pendBase := none, wp := 0, wev := [], closed := 0, sent := 0, own := [], peer := [],
           lostOwn := [], lostPeer := [],           peerIn := [], rcvd := 0, mans := [] }

/-- The empty manifest with which step 0 runs (R352). -/
def emptyManifest (shape : Nat) : Manifest := { step := 0, shape := shape, miss := false, ntok := 0, ents := [] }

/-- A partition at its firing. -/
def Part.fired (v : Part) (hzd stop : Bool) : Part :=
  { v with
    run := v.firedRun hzd stop, launch := { v.launch with st := .running, reply := none }, aud := v.aud.launched,
    serv := { v.serv with next := none, cur := (v.plan.filter (·.serv.isSome)).map fun pl => emptyManifest (leastShape pl.shapes), compose := none, committed := 0, outs := SMap.mapVals (fun o => { o with opened := true }) v.serv.outs },
    flt := { v.flt with first := none, held := none, secondary := false, noteSent := false, reported := false, notes := [] },
    sh := { v.sh with own := [], other := [], otherIn := [] } }

/-- A tile at the firing of its plan. -/
def Tile.fired (v : Tile) : Tile :=
  { v with tim := { v.tim with course := 0, beat := 0, s := 0 }, digI := 0, digSum := [], digCnt := [], digCourse := 0, drained := false }

/-- The lead's composer places the empty manifest of step 0 where the head course takes it from (R352, R368). DESIGN CHOICE (log entry 72). -/
def State.placeEmpty (s : State) (p : Nat) : State :=
  match (s.part p).plan with
  | none => s
  | some pl => match pl.serv with
    | none => s
    | some d => if d.lead = s.me then s.wr (loftAddr d.mtile 0xE0000) (emptyManifest (leastShape pl.shapes)).bytes else s

/-- LAUNCH_FIRE: at T the plan runs; the root writes the reply (R461). DESIGN CHOICE (log entry 2). -/
def execLaunchFire (p : Nat) (s : State) : Host.Outcome State Fault Refusal :=
  .next (let v := s.part p
    if v.launch.st ≠ .confirmed ∨ s.now < v.launch.t then s
    else
      let hzd := s.dev.hzdEn && (s.hrt.dbgDev || v.dbg)
      let s1 := s.setPart p (v.fired hzd s.dev.hzdHalt)
      let s2 := (s.tilesOf p).foldl (fun u t => u.modTile t Tile.fired) s1
      let s3 := (List.range 16).foldl (fun u n => u.modPort n fun x => { x with faulted := x.faulted.filter fun q => decide (q ≠ p) }) s2
      let s4 := (List.range 16).foldl (fun u r => u.modRoom r fun x => { x with crs := SMap.erase x.crs p, bn0 := SMap.erase x.bn0 p }) s3
      let s6 := (List.range 8).foldl (fun u k => if s.owner 1 (48 * k) = some p then u.modStack k fun x => { x with started := [] } else u) s4
      let s5 := s6.placeEmpty p
      match v.launch.reply with
      | some r => s5.reply r 0 [0]
      | none => s5)

/-- MNT_LT_CFG: ignored while a launch of the partition is armed, confirmed or running (R252, Table 8.15). -/
def execMntLtCfgWrite (acc : Accessor) (p : Nat) (v : BitVec 32) (s : State) : Host.Outcome State Fault Refusal :=
  .next (s.partWrite acc p fun u =>
    let st := (u.part p).launch.st
    if st = .armed ∨ st = .confirmed ∨ st = .running then u
    else u.modPart p fun x => { x with ltParent := fld v 0 4, ltRoot := flag v 4, ltChild := BitVec.ofNat 16 (fld v 16 16) })

end Sys2Proof.Machine
end

