-- ==== Sys2Proof/Machine/Pantry.lean ====
section
/-! DEFINITION. The Pantry (R370 to R377): page lists and units of a member, the orders it carries out and confirms, the
pager's moves to the Cellar and to peer windows with their shares, and what the lead's Pantry orders. -/

namespace Sys2Proof.Machine

def State.servDesc (s : State) (p : Nat) : Option ServDesc := (s.part p).plan.bind (·.serv)
def State.modServ (s : State) (p : Nat) (f : Serv → Serv) : State := s.modPart p fun v => { v with serv := f v.serv }
/-- Widths of Tables 12.14, 13.9, 14.11 and 15.7. -/
def ServCtr.width : ServCtr → Nat
  | .steps | .heldPages | .outHold | .allocWait | .demote | .promote | .peerSpill | .satMarl | .satClr | .satPeer
  | .specNodes | .specAcc | .wdBytes | .wdFwd | .twMatch => 48
  | _ => 32
def Serv.count (v : Serv) (c : ServCtr) (n : Nat) : Serv := { v with ctr := bump c.width n v.ctr c.idx }
/-- DESIGN CHOICE (log entry 67). -/
def State.servCount (s : State) (p : Nat) (c : ServCtr) (n : Nat) : State := s.modServ p fun v => v.count c n

/-- The devices of a serving group: the plan's device directory, or with fewer members NMEM of its entries from LEAD's on.
DESIGN CHOICE (log entry 63). -/
def Plan.members (pl : Plan) (d : ServDesc) : List Nat :=
  if d.nmem = pl.devs.length then pl.devs else (pl.devs.dropWhile fun x => decide (x ≠ d.lead)).take d.nmem
/-- DESIGN CHOICE (log entry 63). -/
def State.members (s : State) (p : Nat) : List Nat :=
  match (s.part p).plan with
  | some pl => (pl.serv.map fun d => pl.members d).getD []
  | none => []
/-- DESIGN CHOICE (log entry 63). -/
def State.isLead (s : State) (p : Nat) : Bool := (s.servDesc p).any fun d => decide (d.lead = s.me)

/-! ## Directories, lists and units (R169, R370, R371) -/

/-- The directory entry of a request, layer and head group. -/
def ServDesc.dirAt (d : ServDesc) (k : ServStack) (rcd l i : Nat) : Nat := k.dirbase + 8 * ((rcd * d.layers + l) * k.hgs + i)

/-- Page list address and capacity in page pairs. DESIGN CHOICE (log entry 64). -/
def State.listAt (s : State) (dir : Nat) : Nat × Nat := let e := (s.rdW dir).toNat; (bits e 0 48, bits e 48 16 * 256)
def dirEntry (lst cap : Nat) : DWord := dword (lst % 2 ^ 48 + (cap / 256 % 2 ^ 16) * 2 ^ 48)

/-- A page-pair entry (Table 12.8). -/
def pairEntry (loc peer ku vu : Nat) : List Byte := toLE 4 (loc + peer * 2 ^ 16) ++ toLE 4 ku ++ toLE 4 vu ++ toLE 4 0

/-- E0 of a head group (R371). -/
def ServStack.e0 (k : ServStack) (e i : Nat) : Nat := (e + i * ceilDiv 256 k.hgs) % 256
/-- Byte s of an E0 word. -/
def e0Byte (w : DWord) (stk : Nat) : Nat := bits w.toNat (8 * stk) 8

/-- Unit `x` of an engine in a region of a stack, by 16 KiB of its address; there are 256 of them. -/
def unitOf (stk r e x : Nat) : Nat :=
  (stk * stackSize + r * 2 ^ 30 + (x / 16) * 2 ^ 26 + (e / 16) * 2 ^ 22 + (x % 16) * 2 ^ 18 + (e % 16) * 2 ^ 14) / 16384

def ServStack.regions (k : ServStack) : List Nat := (List.range 48).filter fun r => bit k.pool r

/-- The lowest free unit of an engine in the pool of a stack. DESIGN CHOICE (log entry 64). -/
def freeUnit (used : SMap Nat) (stk : Nat) (k : ServStack) (e : Nat) : Option Nat :=
  k.regions.findSome? fun r => (List.range 256).findSome? fun x =>
    let u := unitOf stk r e x
    if (SMap.find used u).isNone then some u else none

/-- The lowest run of `n` free units of a pool that lie one after the other in a region. DESIGN CHOICE (log entry 64). -/
def freeRun (used : SMap Nat) (stk : Nat) (k : ServStack) (n : Nat) : Option Nat :=
  k.regions.findSome? fun r =>
    let b := (stk * stackSize + r * 2 ^ 30) / 16384
    (List.range (65536 - (n - 1))).findSome? fun x =>
      if (List.range n).all fun i => (SMap.find used (b + x + i)).isNone then some (b + x) else none

def State.claimUnits (s : State) (p rcd u n : Nat) : State :=
  s.modServ p fun v => { v with used := (List.range n).foldl (fun m i => SMap.set m (u + i) (rcd + 1)) v.used }
def State.freeUnits (s : State) (p u n : Nat) : State := s.modServ p fun v => { v with used := SMap.clear v.used u n }
def State.usedOf (s : State) (p : Nat) : SMap Nat := (s.part p).serv.used

/-- Take a unit of an engine. -/
def State.takeUnit (s : State) (p rcd stk : Nat) (k : ServStack) (e : Nat) : Option (Nat × State) :=
  (freeUnit (s.usedOf p) stk k e).map fun u => (u, s.claimUnits p rcd u 1)

/-- Stack, layer and head group of every list of a request, and of every page pair from `a` to `b` - 1. -/
def ServDesc.groups (d : ServDesc) : List (Nat × Nat × Nat) :=
  (d.stks.zipIdx).flatMap fun k => (List.range d.layers).flatMap fun l => (List.range k.1.hgs).map fun i => (k.2, l, i)
def ServDesc.pairs (d : ServDesc) (a b : Nat) : List (Nat × Nat × Nat × Nat) :=
  d.groups.flatMap fun g => (List.range (b - a)).map fun j => (g.1, g.2.1, g.2.2, a + j)

def ServDesc.stk (d : ServDesc) (k : Nat) : ServStack := d.stks.getD k { pool := 0, hgs := 0, dirbase := 0, manbase := 0 }

/-- Address of the entry of a page pair. -/
def State.entryAt (s : State) (d : ServDesc) (rcd : Nat) (x : Nat × Nat × Nat × Nat) : Nat :=
  (s.listAt (d.dirAt (d.stk x.1) rcd x.2.1 x.2.2.1)).1 + 16 * x.2.2.2

/-- The capacity of a list of `q` page pairs: the least 256 x 2^m. -/
def listCap (q : Nat) : Nat → Nat
  | 0 => 256
  | m + 1 => let c := listCap q m; if c < q then 2 * c else c
/-- Units of a list of a capacity. -/
def listUnits (cap : Nat) : Nat := ceilDiv (16 * cap) 16384

/-- Make room in a list for `q` page pairs of which `q0` are held: a new one where none is held, whatever the entry says, or a copy of
twice the capacity and more. -/
def State.growList (s : State) (p rcd : Nat) (d : ServDesc) (g : Nat × Nat × Nat) (q0 q : Nat) : Option State :=
  let k := d.stk g.1
  let dir := d.dirAt k rcd g.2.1 g.2.2
  let (lst, cap) := if q0 = 0 then (0, 0) else s.listAt dir
  if lst ≠ 0 ∧ q ≤ cap then some s
  else
    let c := listCap q 16
    (freeRun (s.usedOf p) g.1 k (listUnits c)).map fun u =>
      let s1 := s.claimUnits p rcd u (listUnits c)
      let s2 := if lst = 0 then s1 else (s1.wr (16384 * u) (s1.rd lst (16 * q0))).freeUnits p (lst / 16384) (listUnits cap)
      s2.wrW dir (dirEntry (16384 * u) c)

/-- The units of a page pair on its engine. -/
def State.allocPair (s : State) (p rcd : Nat) (d : ServDesc) (e0 : DWord) (x : Nat × Nat × Nat × Nat) : Option State :=
  let k := d.stk x.1
  let e := (k.e0 (e0Byte e0 x.1) x.2.2.1 + x.2.2.2) % 256
  (s.takeUnit p rcd x.1 k e).bind fun a => (a.2.takeUnit p rcd x.1 k e).map fun b =>
    b.2.wr (b.2.entryAt d rcd x) (pairEntry 0 0 a.1 b.1)

/-- Extend a request to `q` page pairs per list, all or nothing. DESIGN CHOICE (log entry 64). -/
def State.allocTo (s : State) (p rcd : Nat) (d : ServDesc) (e0 : DWord) (q : Nat) : Option State :=
  let q0 := SMap.get 0 (s.part p).serv.npairs rcd
  if q ≤ q0 then some s
  else
    let s1 := d.groups.foldl (fun (o : Option State) g => o.bind fun u => u.growList p rcd d g q0 q) (some s)
    let s2 := (d.pairs q0 q).foldl (fun (o : Option State) x => o.bind fun u => u.allocPair p rcd d e0 x) s1
    s2.map fun u => u.modServ p fun v => { v with npairs := SMap.set v.npairs rcd q, engs := SMap.set v.engs rcd e0 }

/-! ## Orders and confirmations (R377, Table 12.9) -/

def Order.words (o : Order) : List Word :=
  [word (o.op % 16 + (o.rcd % 2 ^ 14) * 2 ^ 8), word o.arg, word o.oseq, word (o.stat % 16)] ++ lohi o.e0.toNat ++ List.replicate 10 0

/-- A member confirms an order. -/
def State.confirmOrder (s : State) (p : Nat) (d : ServDesc) (o : Order) (stat : Nat) : State :=
  s.sendMsg p d.lead (d.ordq + 0x10000 + 64 * (d.midx % 1024)) false { o with op := 8, arg := 0, stat := stat, e0 := 0 : Order }.words

/-- No member holds 1,023 unconfirmed orders. -/
def State.orderRoom (s : State) (p : Nat) : Bool :=
  (s.members p).all fun m => decide (((s.part p).serv.unconf.filter fun x => x.1 = m).length < 1023)

/-- The lead orders every member. -/
def State.sendOrder (s : State) (p op rcd arg : Nat) (e0 : DWord) : State :=
  match s.servDesc p with
  | none => s
  | some d =>
    let o : Order := { op := op, rcd := rcd, arg := arg, oseq := (s.part p).serv.oseq, stat := 0, e0 := e0 }
    let ms := s.members p
    let s1 := s.modServ p fun v => { v with oseq := (v.oseq + 1) % 2 ^ 32, unconf := v.unconf ++ ms.map fun m => (m, o) }
    ms.foldl (fun u m => u.sendMsg p m (d.ordq + 64 * (o.oseq % 1024)) true o.words) s1

/-- An order of a kind for a request is not confirmed by every member. -/
def Serv.waits (v : Serv) (op rcd : Nat) : Bool := v.unconf.any fun x => decide (x.2.op = op ∧ x.2.rcd = rcd)

/-! ## Freeing -/

/-- Free everything of a request: its units, its lists and its directory entries. -/
def State.freeRequest (s : State) (p rcd : Nat) (d : ServDesc) : State :=
  let s1 := d.groups.foldl (fun u g =>
    let a := d.dirAt (d.stk g.1) rcd g.2.1 g.2.2
    if u.rdW a = 0 then u else u.wrW a 0) s
  let other := fun m : SMap Nat => m.filter fun kv => decide (kv.2 ≠ rcd + 1)
  s1.modServ p fun v => { v with used := other v.used, usedC := other v.usedC, usedP := other v.usedP,
                                 npairs := SMap.erase v.npairs rcd, engs := SMap.erase v.engs rcd }

/-! ## The pager (R373 to R376) -/

/-- The local address of a Cellar offset (Table 6.1). -/
def cellarAddr (off : Nat) : Nat := if off < 2 ^ 40 then 0x010000000000 + off else 0x040000000000 + (off - 2 ^ 40)

/-- Two free units of the partition's own Cellar regions, by 16 KiB of the offset. DESIGN CHOICE (log entry 65). -/
def State.freeCellar (s : State) (p : Nat) : Option (Nat × Nat) :=
  let us := fun (m : SMap Nat) => ((List.range (s.unitCount 2)).filter fun r => s.owner 2 r = some p).findSome? fun r =>
    (List.range (2 ^ 20)).findSome? fun x => if (SMap.find m (r * 2 ^ 20 + x)).isNone then some (r * 2 ^ 20 + x) else none
  let m := (s.part p).serv.usedC
  (us m).bind fun a => (us (SMap.set m a 1)).map fun b => (a, b)

/-- Fields of PAN_PEERn (Table 12.13). -/
def peerDev (w : Word) : Nat := fld w 0 16
def peerBase (w : Word) : Nat := fld w 16 7
def peerReg (w : Word) : Nat := fld w 23 7
def Serv.peer (v : Serv) (n : Nat) : Word := SMap.get 0xFFFF v.peers n

/-- The first peer window from `n` on with two free units, and the units, by 16 KiB of the peer's Cellar offset. -/
def Serv.freeWindow (v : Serv) (n : Nat) : Option (Nat × Nat × Nat) :=
  ((List.range 8).filter fun i => decide (n ≤ i) && flag (v.peer i) 31).findSome? fun i =>
    let us := fun (m : SMap Nat) => (List.range (peerReg (v.peer i) * 2 ^ 20)).findSome? fun x =>
      let u := peerBase (v.peer i) * 2 ^ 20 + x
      if (SMap.find m (2 ^ 32 * i + u)).isNone then some u else none
    (us v.usedP).bind fun a => (us (SMap.set v.usedP (2 ^ 32 * i + a) 1)).map fun b => (i, a, b)

/-- LOC and the two units of an entry. -/
def State.pairAt (s : State) (e : Nat) : Nat × Nat × Nat × Nat :=
  let b := s.rd e 16
  (fld (wordAt b 0) 0 2, fld (wordAt b 0) 16 16, fld (wordAt b 1) 0 27, fld (wordAt b 2) 0 27)

/-- KiB `x` of 32 of a page pair: 16 of the K page, then 16 of the V page. -/
def kibOf (ku vu x : Nat) : Nat := if x < 16 then 16384 * ku + 1024 * x else 16384 * vu + 1024 * (x - 16)

/-! ### The pager's shares (R376): a KiB moves once its four blocks have had their place in the Marl share -/

/-- PGBLK of the running step's shape. -/
def State.pgblk (s : State) (p : Nat) : Nat :=
  let v := s.part p
  ((((v.plan.map (·.shapes)).getD [])[v.run.shape]?).map (·.pgblk)).getD 0

/-- Number of the Marl channel of a unit. -/
def unitChan (u : Nat) : Nat := 16 * (16384 * u / stackSize) + chanOf (16384 * u % stackSize)

/-- Pager blocks of a Marl channel in the frame in progress. -/
def State.pgUsed (s : State) (p ch : Nat) : Nat :=
  match SMap.find (s.part p).serv.pgUsed ch with
  | some (f, n) => if f = s.frameNow then n else 0
  | none => 0

/-- Number of the window of 10 us in progress. DESIGN CHOICE (log entry 65). -/
def State.clrWindow (s : State) : Nat := s.now / 10000
/-- Pager bytes of a Cellar channel in the window in progress. -/
def State.clrUsed (s : State) (p ch : Nat) : Nat :=
  match SMap.find (s.part p).serv.clrUsed ch with
  | some (w, n) => if w = s.clrWindow then n else 0
  | none => 0

/-- CSHARE sixteenths of 64 GB/s for 10 us, in bytes. -/
def clrShare (cshare : Nat) : Nat := cshare * 40000

/-- The Marl share of the pair in progress is spent for this frame. -/
def State.pgSpent (s : State) (p : Nat) (j : PagJob) : Bool := decide (s.pgblk p ≤ s.pgUsed p (unitChan (if j.sent < 16 then j.kd else j.vd)))
/-- The Cellar share of the pair in progress is spent for this window. -/
def State.clrSpent (s : State) (p : Nat) (j : PagJob) : Bool :=
  decide (clrShare (s.part p).serv.cshare < s.clrUsed p (s.cellarChan (kibOf j.ku j.vu j.sent)) + 1024)

/-- The blocks of the next KiB have had their place. -/
def PagJob.ready (j : PagJob) : Bool := decide (4 * (j.sent + 1) ≤ j.blks)

/-- Blocks of the next KiB take their place while the share of the frame lasts. -/
def State.takeBlks (s : State) (p : Nat) (j : PagJob) : Nat → State × PagJob
  | 0 => (s, j)
  | fuel + 1 =>
    if j.ready || s.pgSpent p j then (s, j)
    else
      let ch := unitChan (if j.sent < 16 then j.kd else j.vd)
      State.takeBlks (s.modServ p fun v => { v with pgUsed := SMap.set v.pgUsed ch (s.frameNow, s.pgUsed p ch + 1) }) p
        { j with blks := j.blks + 1 } fuel

/-- A KiB takes its place in the share of its Cellar channel. -/
def State.takeClr (s : State) (p : Nat) (j : PagJob) : State :=
  let ch := s.cellarChan (kibOf j.ku j.vu j.sent)
  s.modServ p fun v => { v with clrUsed := SMap.set v.clrUsed ch (s.clrWindow, s.clrUsed p ch + 1024) }

/-- The share for which the pair in progress waits: 1 of the Marl, 2 of the Cellar, 3 of the peers; 0 where it waits for none. -/
def State.pagWait (s : State) (p : Nat) (j : PagJob) : Nat :=
  let spill := decide (j.ord.op = 3) && !j.clr
  if !j.busy || decide (32 ≤ j.sent) || j.fail || (!spill && !j.clr && decide (0 < j.outst)) then 0
  else if spill && decide ((s.part p).serv.peerout ≤ j.outst) then 3
  else if !j.ready then (if s.pgSpent p j then 1 else 0)
  else if j.clr && s.clrSpent p j then 2
  else 0

/-- A tick in which the pager's work waits for a share is counted (R376). -/
def State.pagTick (s : State) (p : Nat) : State :=
  match (s.part p).serv.job with
  | none => s
  | some j => match s.pagWait p j with
    | 1 => s.servCount p .satMarl 1
    | 2 => s.servCount p .satClr 1
    | 3 => s.servCount p .satPeer 1
    | _ => s

/-! ### Moves of a page pair -/

/-- The pair in progress is done with; the next begins. -/
def PagJob.next (j : PagJob) (status : Nat) : PagJob :=
  { j with todo := j.todo.drop 1, busy := false, clr := false, sent := 0, blks := 0, outst := 0, fail := false, tries := 0, status := max j.status status }

/-- A pair begins to move: the units away from the Marl, and those of the Marl. -/
def PagJob.start (j : PagJob) (clr : Bool) (win ku vu kd vd : Nat) : PagJob :=
  { j with busy := true, clr := clr, win := win, ku := ku, vu := vu, kd := kd, vd := vd, sent := 0, blks := 0, outst := 0, fail := false, tries := 0 }

def State.useCellar (s : State) (p rcd a b : Nat) : State :=
  s.modServ p fun v => { v with usedC := SMap.set (SMap.set v.usedC a (rcd + 1)) b (rcd + 1) }
def State.dropCellar (s : State) (p a b : Nat) : State := s.modServ p fun v => { v with usedC := SMap.erase (SMap.erase v.usedC a) b }
def State.usePeer (s : State) (p rcd i a b : Nat) : State :=
  s.modServ p fun v => { v with usedP := SMap.set (SMap.set v.usedP (2 ^ 32 * i + a) (rcd + 1)) (2 ^ 32 * i + b) (rcd + 1) }
def State.dropPeer (s : State) (p i a b : Nat) : State :=
  s.modServ p fun v => { v with usedP := SMap.erase (SMap.erase v.usedP (2 ^ 32 * i + a)) (2 ^ 32 * i + b) }
def State.dropMarl (s : State) (p a b : Nat) : State := (s.freeUnits p a 1).freeUnits p b 1

/-- Begin to move the pair at the head to a window from `n` on; without one it stays in the Marl. -/
def State.spill (s : State) (p : Nat) (d : ServDesc) (j : PagJob) (x : Nat × Nat × Nat × Nat) (ku vu n : Nat) : State × PagJob :=
  let e := s.entryAt d j.ord.rcd x
  match (s.part p).serv.freeWindow n with
  | none => (s.wr e (pairEntry 0 0 ku vu), j.next 2)
  | some (i, a, b) => ((s.usePeer p j.ord.rcd i a b).wr e (pairEntry 3 0 ku vu), j.start false i a b ku vu)

/-- Begin to demote the pair at the head of a job: to the own Cellar if it has room, and else to a peer (R374). DESIGN CHOICE (log entry 65). -/
def State.demotePair (s : State) (p : Nat) (d : ServDesc) (j : PagJob) (x : Nat × Nat × Nat × Nat) : State × PagJob :=
  let e := s.entryAt d j.ord.rcd x
  match s.pairAt e with
  | (0, _, ku, vu) =>
    match s.freeCellar p with
    | some (a, b) => ((s.useCellar p j.ord.rcd a b).wr e (pairEntry 3 0 ku vu), j.start true 0 a b ku vu)
    | none => s.spill p d j x ku vu 0
  | _ => (s, j.next 0)

/-- Begin to promote the pair at the head of a job, to units of its original engine. DESIGN CHOICE (log entry 65). -/
def State.promotePair (s : State) (p : Nat) (d : ServDesc) (j : PagJob) (x : Nat × Nat × Nat × Nat) : State × PagJob :=
  let rcd := j.ord.rcd
  let e := s.entryAt d rcd x
  let k := d.stk x.1
  let eng := (k.e0 (e0Byte (SMap.get 0 (s.part p).serv.engs rcd) x.1) x.2.2.1 + x.2.2.2) % 256
  let (loc, dev, a, b) := s.pairAt e
  if loc = 1 ∨ loc = 2 then
    match (s.takeUnit p rcd x.1 k eng).bind fun a => (a.2.takeUnit p rcd x.1 k eng).map fun b => (a.1, b.1, b.2) with
    | none => (s, { j.next 1 with todo := [] })
    | some (ku, vu, s1) => (s1.wr e (pairEntry 3 0 a b), j.start (decide (loc = 1)) dev a b ku vu)
  else (s, j.next 0)

/-- A pair that moves between the Marl and the own Cellar stays where it was, after an error. DESIGN CHOICE (log entry 65). -/
def State.clrFail (s : State) (p : Nat) (d : ServDesc) (j : PagJob) (x : Nat × Nat × Nat × Nat) : State × PagJob :=
  let e := s.entryAt d j.ord.rcd x
  if j.ord.op = 3 then ((s.wr e (pairEntry 0 0 j.kd j.vd)).dropCellar p j.ku j.vu, j.next 2)
  else ((s.wr e (pairEntry 1 0 j.ku j.vu)).dropMarl p j.kd j.vd, j.next 3)

/-- A pair has moved between the Marl and the own Cellar. -/
def State.clrEnd (s : State) (p : Nat) (d : ServDesc) (j : PagJob) (x : Nat × Nat × Nat × Nat) : State × PagJob :=
  let e := s.entryAt d j.ord.rcd x
  if j.ord.op = 3 then (((s.wr e (pairEntry 1 0 j.ku j.vu)).dropMarl p j.kd j.vd).servCount p .demote 1, j.next 0)
  else (((s.wr e (pairEntry 0 0 j.kd j.vd)).dropCellar p j.ku j.vu).servCount p .promote 1, j.next 0)

/-- Move KiB of a pair between the Marl and the own Cellar while both shares last: service blocks of the Marl, checked reads, and an end
at the first error (R178 to R180, R182, R188). -/
def State.clrStep (s : State) (p : Nat) (d : ServDesc) (j : PagJob) (x : Nat × Nat × Nat × Nat) : Nat → State × PagJob
  | 0 => (s, j)
  | fuel + 1 =>
    if 32 ≤ j.sent then s.clrEnd p d j x
    else
      let (s1, j1) := s.takeBlks p j 4
      if !j1.ready || s1.clrSpent p j1 then (s1, j1)
      else
        let m := kibOf j.kd j.vd j.sent
        let c := cellarAddr (kibOf j.ku j.vu j.sent)
        let out := decide (j.ord.op = 3)
        match (s1.takeClr p j1).svcGet (if out then m else c) 1024 with
        | (none, s2) => s2.clrFail p d j1 x
        | (some bs, s2) => match s2.svcPut (if out then c else m) bs with
          | (false, s3) => s3.clrFail p d j1 x
          | (true, s3) => State.clrStep s3 p d { j1 with sent := j1.sent + 1 } x fuel

/-- Send writes of the pair in progress while fewer than PEEROUT packets are outstanding and the Marl share lasts; one that cannot be
read fails like a write that is not done. -/
def State.pagSend (s : State) (p : Nat) (j : PagJob) : Nat → State × PagJob
  | 0 => (s, j)
  | fuel + 1 =>
    if decide (32 ≤ j.sent ∨ (s.part p).serv.peerout ≤ j.outst) || j.fail then (s, j)
    else
      let (s1, j1) := s.takeBlks p j 4
      if !j1.ready then (s1, j1)
      else match s1.svcGet (kibOf j.kd j.vd j.sent) 1024 with
        | (none, s2) => (s2, { j1 with fail := true })
        | (some bs, s2) =>
          let dev := peerDev ((s2.part p).serv.peer j.win)
          State.pagSend (s2.sendWrites p dev (cellarAddr (kibOf j.ku j.vu j.sent)) (pagerTag p) [bs]) p
            { j1 with sent := j1.sent + 1, outst := j1.outst + 1 } fuel

/-- Every write of a demoted pair has been answered: all done, or one not, and then the next window is tried (R375). -/
def State.spillEnd (s : State) (p : Nat) (d : ServDesc) (j : PagJob) (x : Nat × Nat × Nat × Nat) : State × PagJob :=
  if j.fail then (s.dropPeer p j.win j.ku j.vu).spill p d j x j.kd j.vd (j.win + 1)
  else
    let dev := peerDev ((s.part p).serv.peer j.win)
    let s1 := ((s.wr (s.entryAt d j.ord.rcd x) (pairEntry 2 dev j.ku j.vu)).servCount p .demote 1).servCount p .peerSpill 1
    (s1.dropMarl p j.kd j.vd, j.next 0)

/-- Ask for KiB `sent` of the pair that comes back from a peer. -/
def State.pagAsk (s : State) (p : Nat) (j : PagJob) : State :=
  s.send { Hdr.zero with dst := j.win, vc := 0, opc := 2, part := p, rlen := 16, addr := cellarAddr (kibOf j.ku j.vu j.sent),
                         opa := kibOf j.kd j.vd j.sent, tag := pagerTag p } []

/-- The window at a peer whose units these are. -/
def Serv.windowAt (v : Serv) (dev u : Nat) : Nat :=
  ((List.range 8).find? fun i => decide (peerDev (v.peer i) = dev) && decide (peerBase (v.peer i) * 2 ^ 20 ≤ u) &&
    decide (u < (peerBase (v.peer i) + peerReg (v.peer i)) * 2 ^ 20)).getD 0

/-- A pair that comes back from a peer: the next KiB is asked for, or all have come. -/
def State.recallStep (s : State) (p : Nat) (d : ServDesc) (j : PagJob) (x : Nat × Nat × Nat × Nat) : State × PagJob :=
  if 0 < j.outst then (s, j)
  else if 32 ≤ j.sent then
    let i := (s.part p).serv.windowAt j.win j.ku
    (((s.wr (s.entryAt d j.ord.rcd x) (pairEntry 0 0 j.kd j.vd)).dropPeer p i j.ku j.vu).servCount p .promote 1, j.next 0)
  else
    let (s1, j1) := s.takeBlks p j 4
    if !j1.ready then (s1, j1) else (s1.pagAsk p j1, { j1 with outst := 1 })

/-- The pair at the head of a job begins to move, or goes on moving. -/
def State.pagStep (s : State) (p : Nat) (d : ServDesc) (j : PagJob) (x : Nat × Nat × Nat × Nat) : State × PagJob :=
  if !j.busy then (if j.ord.op = 3 then s.demotePair p d j x else s.promotePair p d j x)
  else if j.clr then s.clrStep p d j x 33
  else if j.ord.op = 3 then
    let (s1, j1) := s.pagSend p j 32
    if j1.outst = 0 ∧ (j1.fail = true ∨ 32 ≤ j1.sent) then s1.spillEnd p d j1 x else (s1, j1)
  else s.recallStep p d j x

def State.setJob (s : State) (p : Nat) (j : Option PagJob) : State := s.modServ p fun v => { v with job := j }

/-- Carry a job on until the pair in progress waits, for a share or for a peer, or all are done; then confirm. DESIGN CHOICE (log entry 65). -/
def State.pagRun (s : State) (p : Nat) (d : ServDesc) (j : PagJob) : Nat → State
  | 0 => s.setJob p (some j)
  | fuel + 1 =>
    match j.todo with
    | [] => (s.setJob p none).confirmOrder p d j.ord j.status
    | x :: _ =>
      let (s1, j1) := s.pagStep p d j x
      if j.busy && j1.busy then s1.setJob p (some j1) else State.pagRun s1 p d j1 fuel

/-- Steps in which a job with so many pairs to move is carried as far as it goes. -/
def PagJob.steps (j : PagJob) : Nat := 2 * j.todo.length + 2

/-- A page pair is lost (R375): its job ends there. DESIGN CHOICE (log entry 66). -/
def State.pageLost (s : State) (p : Nat) (j : PagJob) : State × PagJob :=
  ((s.dropMarl p j.kd j.vd).servCount p .pageLost 1, { j.next 3 with todo := [] })

/-- One completion reaches the pager. DESIGN CHOICE (log entry 65). -/
def State.pagAnswer (s : State) (p : Nat) (j : PagJob) (opc status : Nat) : State × PagJob :=
  if !j.busy || j.clr then (s, j)
  else if j.ord.op = 3 then (s, { j with outst := j.outst - 1, fail := j.fail || !decide (opc = 4 ∧ status = 0) })
  else if opc = 3 then (s, { j with sent := j.sent + 1, tries := 0, outst := 0 })
  else if status = 5 ∨ 2 ≤ j.tries then s.pageLost p j
  else (s, { j with tries := j.tries + 1, outst := 0 })

/-- A new job. -/
def PagJob.of (o : Order) (todo : List (Nat × Nat × Nat × Nat)) : PagJob :=
  { ord := o, todo := todo, busy := false, clr := false, win := 0, ku := 0, vu := 0, kd := 0, vd := 0, sent := 0, blks := 0, outst := 0,
    fail := false, tries := 0, status := 0 }

/-! ### Orders -/

/-- The request has an entry in a composed manifest whose step has not committed, as the lead knows. -/
def Part.inManifest (v : Part) (r : Nat) : Bool :=
  let has := fun m : Option Manifest => m.any fun x => x.ents.any fun e => decide (e.rcd = r)
  has v.serv.next || (has v.serv.cur && decide (v.serv.committed ≤ v.run.step))

/-- The same as a member knows: by the manifest that has landed in slots 0 to 255 of its manifest tile (R368). DEDUCED (log entry 64). -/
def State.landedHas (s : State) (p : Nat) (d : ServDesc) (r : Nat) : Bool :=
  let v := s.part p
  let hd := s.rd (loftAddr d.mtile 0xF0000) 16
  v.live && decide (natAt hd 0 8 = v.run.step) && decide (v.serv.committed ≤ v.run.step) &&
    (List.range (bits (natAt hd 8 4) 4 12)).any fun m => decide (bits (leNat (s.rd (loftAddr d.mtile (0xF0000 + 256 + 16 * m)) 4)) 0 14 = r)

/-- An allocation that has to grow a list waits while its request is in a composed manifest (R370). -/
def State.growWaits (s : State) (p : Nat) (d : ServDesc) (o : Order) : Bool :=
  let q0 := SMap.get 0 (s.part p).serv.npairs o.rcd
  decide (o.op = 1) && decide (0 < q0) && decide (listCap q0 16 < ceilDiv o.arg 64) &&
    (if s.isLead p then (s.part p).inManifest o.rcd else s.landedHas p d o.rcd)

/-- Carry out an order. -/
def State.doOrder (s : State) (p : Nat) (d : ServDesc) (o : Order) : State :=
  let q := SMap.get 0 (s.part p).serv.npairs o.rcd
  match o.op with
  | 1 => match s.allocTo p o.rcd d o.e0 (ceilDiv o.arg 64) with
    | some u => u.confirmOrder p d o 0
    | none => s.confirmOrder p d o 1
  | 2 => (s.freeRequest p o.rcd d).confirmOrder p d o 0
  | _ => let j := PagJob.of o (d.pairs 0 q)
    s.pagRun p d j j.steps

/-- The first message that has landed is taken if it is an order (R377). -/
def State.takeOrder (s : State) (p : Nat) : State :=
  s.modServ p fun v => match v.inbox with
    | (m, o) :: r => if o.op = 8 then { v with inbox := (m, o) :: r } else { v with inbox := r, orders := v.orders ++ [o] }
    | [] => v

/-- The move in progress goes on, with the next completion that has come; without one the next order is carried out. -/
def State.pantryGo (s : State) (p : Nat) (d : ServDesc) : State :=
  let v := (s.part p).serv
  match v.job with
  | some j =>
    let (s1, j1) := match v.pagIn with
      | c :: r => (s.modServ p fun u => { u with pagIn := r }).pagAnswer p j c.1 c.2
      | [] => (s, j)
    s1.pagRun p d j1 j1.steps
  | none => match v.orders with
    | [] => s
    | o :: r => if s.growWaits p d o then s else (s.modServ p fun u => { u with orders := r, pagIn := [] }).doOrder p d o

/-- PANTRY_ORDER_RECEIVE: a message that has landed is taken, and the Pantry goes on. A halted partition carries out no order (R501). -/
def execPantryOrderReceive (p : Nat) (s : State) : Host.Outcome State Fault Refusal :=
  .next (match s.servDesc p with
    | none => s
    | some d => if (s.part p).run.halted then s else (s.takeOrder p).pantryGo p d)

/-! ## The lead (R361, R371 to R374) -/

/-- Insert by a key, after those of the same key. -/
def insertKey (x : Nat × Nat) : List (Nat × Nat) → List (Nat × Nat)
  | [] => [x]
  | y :: r => if x.1 < y.1 then x :: y :: r else y :: insertKey x r

/-- The group of R361: A queued or prefill, B decode, C paused. -/
def Record.group (r : Record) : Nat := if r.state = 1 ∨ r.state = 2 then 0 else if r.state = 3 then 1 else 2

/-- A request submitted after the commit whose composition is due: it waits for the next (R354). -/
def Serv.after (v : Serv) (r : Record) : Bool :=
  v.compose.isSome && decide (r.state = 1 ∧ (r.aseq + 2 ^ 32 - v.seqAt) % 2 ^ 32 < (v.aseq + 2 ^ 32 - v.seqAt) % 2 ^ 32)

/-- The records of a partition in the order of R361, of those in some states. -/
def State.ordered (s : State) (p : Nat) (ok : Record → Bool) : List Nat :=
  let rs := s.recs.filter fun kv => decide (s.owner 4 (kv.1 / 256) = some p) && ok kv.2 && !(s.part p).serv.after kv.2
  (rs.foldl (fun l kv => insertKey (kv.2.group * 2 ^ 35 + kv.2.cls * 2 ^ 32 + kv.2.aseq, kv.1) l) []).map (·.2)

/-- The target of an extension (R372). -/
def Record.target (r : Record) (shs : List Shape) : Nat :=
  let h := shs.foldl (fun m x => max m x.cmax) 0
  let hh := if h = 0 then 64 else h
  if r.state = 3 then 64 * ceilDiv (r.pos + 65) 64 else 64 * ceilDiv (min r.plen (r.pos + hh)) 64

/-- e_s of every stack: the engine with the most free pool units, the lower number of two alike (R371). Every engine has as
many units, so it is the one with the fewest in use. DESIGN CHOICE (log entry 67). -/
def State.chooseE0 (s : State) (p : Nat) (d : ServDesc) : DWord :=
  let us := s.usedOf p
  let inUse := fun (stk e : Nat) => (us.filter fun kv => decide (kv.1 * 16384 / stackSize = stk ∧ engineOf (kv.1 * 16384) = e)).length
  let best := fun stk : Nat => (List.range 256).foldl (fun b e => if inUse stk e < inUse stk b then e else b) 0
  dword ((d.stks.zipIdx).foldl (fun n k => if k.1.hgs = 0 then n else n + best k.2 * 2 ^ (8 * k.2)) 0)

/-- The extension of one request: none if it needs none or cannot have one now. -/
inductive Extend where
  | skip | wait | go (target : Nat) (e0 : DWord)
  deriving DecidableEq, Repr

def State.extendOf (s : State) (p rcd : Nat) (pl : Plan) (d : ServDesc) : Extend :=
  let r := s.record rcd
  let v := s.part p
  let tgt := r.target pl.shapes
  if tgt ≤ r.cap then .skip
  else if v.serv.waits 1 rcd then .wait
  else if v.inManifest rcd && decide (listCap (ceilDiv r.cap 64) 16 < ceilDiv tgt 64) then .skip
  else
    let e0 := r.e0.getD (s.chooseE0 p d)
    match s.allocTo p rcd d e0 (ceilDiv tgt 64) with
    | some _ => .go tgt e0
    | none => .wait

/-- The first request in order that needs an extension, with what is to be done. DESIGN CHOICE (log entry 64). -/
def State.firstExtend (s : State) (p : Nat) (pl : Plan) (d : ServDesc) : List Nat → Option (Nat × Extend)
  | [] => none
  | r :: l => match s.extendOf p r pl d with
    | .skip => State.firstExtend s p pl d l
    | x => some (r, x)

/-- PANTRY_ALLOC_EXTEND (R371, R372). -/
def execPantryAllocExtend (p : Nat) (s : State) : Host.Outcome State Fault Refusal :=
  .next (let v := s.part p
    match v.plan, s.servDesc p with
    | some pl, some d =>
      if !s.isLead p || !v.live || !s.orderRoom p then s
      else match s.firstExtend p pl d (s.ordered p fun r => decide (1 ≤ r.state ∧ r.state ≤ 3)) with
        | none => s.modServ p fun u => { u with allocWait := false }
        | some (_, .skip) => s
        | some (rcd, .wait) => if v.serv.waits 1 rcd then s else s.modServ p fun u => { u with allocWait := true }
        | some (rcd, .go tgt e0) =>
          let root := d.dirAt (d.stk 0) rcd 0 0
          let s1 := s.modRecord rcd fun r => { r with e0 := some e0, want := tgt, panroot := root }
          (s1.modServ p fun u => { u with allocWait := false }).sendOrder p 1 rcd tgt e0
    | _, _ => s)

/-- The lead's own units suffice for a promotion: every page pair that is not in Marl finds two on its engine. -/
def State.canPromote (s : State) (p rcd : Nat) (d : ServDesc) : Bool :=
  let e0 := SMap.get 0 (s.part p).serv.engs rcd
  ((d.pairs 0 (SMap.get 0 (s.part p).serv.npairs rcd)).foldl (fun (o : Option State) x => o.bind fun u =>
    if (u.pairAt (u.entryAt d rcd x)).1 = 0 then some u
    else
      let k := d.stk x.1
      let e := (k.e0 (e0Byte e0 x.1) x.2.2.1 + x.2.2.2) % 256
      (u.takeUnit p rcd x.1 k e).bind fun a => (a.2.takeUnit p rcd x.1 k e).map (·.2)) (some s)).isSome

/-- PANTRY_PROMOTE: the first demoted request in the order of R361 (R374). -/
def execPantryPromote (p : Nat) (s : State) : Host.Outcome State Fault Refusal :=
  .next (let v := s.part p
    match s.servDesc p with
    | none => s
    | some d =>
      if !s.isLead p || !v.live || !s.orderRoom p then s
      else match (s.ordered p fun r => decide (r.state = 4) && decide (r.res = 1)).head? with
        | none => s
        | some rcd =>
          if s.canPromote p rcd d then
            (s.modRecord rcd fun r => { r with res := 2, promoting := true, demoted := [] }).sendOrder p 4 rcd 0 0
          else s)

/-- A request becomes done once every member has freed its pages and its final entry is written (R359). -/
def Record.finished (r : Record) (ms : List Nat) : Bool := decide (r.state = 5) && r.lastOut && ms.all fun m => r.freed.contains m

/-- What a confirmation says of its request. -/
def Record.confirmed (r : Record) (ms : List Nat) (m : Nat) (o : Order) (stat : Nat) : Record :=
  match o.op with
  | 1 => if stat = 0 then
      let caps := SMap.set r.caps m (max o.arg (SMap.get 0 r.caps m))
      { r with caps := caps, cap := ms.foldl (fun n x => min n (SMap.get 0 caps x)) (SMap.get 0 caps m) }
    else r
  | 2 => { r with freed := r.freed ++ [m] }
  | 3 => let l := r.demoted ++ [m]
    { r with demoted := l, res := if ms.all fun x => l.contains x then 1 else r.res }
  | 4 =>
    let l := r.demoted ++ [m]
    let all := ms.all fun x => l.contains x
    let fl := r.promoting && decide (stat = 0)
    { r with demoted := l, promoting := fl, res := if all then (if fl then 0 else 1) else r.res,
             endPend := if stat = 3 then some (r.endPend.getD 5) else r.endPend }
  | _ => r

/-- SHAKE256, 256 bits, as a number whose lowest byte comes first. -/
def dig256 (bs : List Byte) : BitVec 256 := digest256 bs

/-- The result digest of a request that becomes done (R436 to R438). DESIGN CHOICE (log entry 71). -/
def State.resultOf (s0 : State) (p rcd : Nat) : ResDig × State :=
  let r := s0.record rcd
  let pd := ((s0.part p).plan.map (·.pdig)).getD 0
  let (prompt, s) := s0.blockRead (wd64 ((List.range 2).map fun i => SMap.get 0 r.img (8 + i)) 0 % 2 ^ 48) (4 * r.plen)
  let ws := fun (a n : Nat) => (List.range n).flatMap fun i => toLE 4 (SMap.get 0 r.img (a + i)).toNat
  let ad := if r.adpen then r.adig else 0
  let msg := toLE 32 pd.toNat ++ toLE 32 r.wacc.toNat ++ shake256 prompt 32 ++ ws 16 7 ++ ws 24 4 ++ toLE 4 r.maxnew ++
    toLE 4 r.tag.toNat ++ ws 12 4 ++ toLE 32 ad.toNat
  ({ valid := true, wmix := r.wmix, endc := r.endc, tag := r.tag, fstep := r.fstep, lstep := r.lstep, gen := r.gen,
     rdig := dig256 msg, otdig := dig256 r.outs }, s)

/-- Make a request done if nothing keeps it. DESIGN CHOICE (log entry 71). -/
def State.tryDone (s : State) (p rcd : Nat) : State :=
  if (s.record rcd).finished (s.members p) then
    let q := s.resultOf p rcd
    (q.2.setResDig rcd q.1).modRecord rcd fun r => { r with state := 6 }
  else s

/-- PANTRY_CONFIRM_RECEIVE: the first message that has landed is taken if it is a confirmation. DESIGN CHOICE (log entry 65). -/
def execPantryConfirmReceive (p : Nat) (s : State) : Host.Outcome State Fault Refusal :=
  .next (match (s.part p).serv.inbox with
    | [] => s
    | (m, c) :: r => if c.op ≠ 8 then s else
      let s1 := s.modServ p fun u => { u with inbox := r }
      match (s.part p).serv.unconf.find? fun x => decide (x.1 = m ∧ x.2.oseq = c.oseq ∧ x.2.rcd = c.rcd) with
      | none => s1
      | some x =>
        let s2 := s1.modServ p fun u => { u with unconf := u.unconf.erase x, allocWait := u.allocWait || decide (x.2.op = 1 ∧ c.stat = 1) }
        (s2.modRecord c.rcd fun q => q.confirmed (s.members p) m x.2 c.stat).tryDone p c.rcd)

end Sys2Proof.Machine
end

