-- ==== Sys2Proof/Machine/Scullery.lean ====
section
/-! DEFINITION. The Scullery's conversions (R413 to R416): the packed format, quantisation to a target format, and the streaming
order. -/

namespace Sys2Proof.Machine

/-! ## The packed format (R413) -/

/-- Bit `i` of a byte string, the least significant bit of each byte first (RFC 1951, 3.1.1). -/
def bitAt (bs : List Byte) (i : Nat) : Bool := bit (bs.getD (i / 8) 0).toNat (i % 8)

/-- Code lengths of the 256 symbols from their 128 bytes. -/
def codeLens (bs : List Byte) : List Nat := (List.range 256).map fun i => bits (bs.getD (i / 2) 0).toNat (4 * (i % 2)) 4

def lenCount (ls : List Nat) (n : Nat) : Nat := (ls.filter fun l => decide (l = n)).length

/-- Symbols in the order of their canonical codes (RFC 1951, 3.2.2). -/
def codeOrder (ls : List Nat) : List Nat :=
  (List.range 15).flatMap fun n => (List.range 256).filter fun i => decide (ls.getD i 0 = n + 1)

/-- The lengths over-subscribe the codes. -/
def overfull (ls : List Nat) : Bool :=
  decide (32768 < (List.range 15).foldl (fun a n => a + lenCount ls (n + 1) * 2 ^ (14 - n)) 0)

/-- One symbol from a bit position: the symbol and the position after it; none where no code matches. -/
def readSym (ls order : List Nat) (bs : List Byte) : Nat → Nat → Nat → Nat → Nat → Option (Nat × Nat)
  | 0, _, _, _, _ => none
  | fuel + 1, pos, code, first, idx =>
    if 8 * bs.length ≤ pos then none
    else
      let c := code + (if bitAt bs pos then 1 else 0)
      let k := lenCount ls (15 - fuel)
      if first ≤ c ∧ c < first + k then some (order.getD (idx + (c - first)) 0, pos + 1)
      else readSym ls order bs fuel (pos + 1) (2 * c) (2 * (first + k)) (idx + k)

/-- `n` symbols from a bit position. -/
def readSyms (ls order : List Nat) (bs : List Byte) : Nat → Nat → Option (List Nat × Nat)
  | 0, pos => some ([], pos)
  | n + 1, pos =>
    match readSym ls order bs 15 pos 0 0 0 with
    | none => none
    | some (x, q) => (readSyms ls order bs n q).map fun r => (x :: r.1, r.2)

/-- The body of a coded block. -/
def codedBody (w16 : Bool) (olen : Nat) (body : List Byte) : Option (List Byte) :=
  let ls := codeLens body
  let nres := if w16 then olen / 2 else 0
  let n := if w16 then olen / 2 else olen
  let coded := body.drop (128 + nres)
  if body.length < 128 + nres ∨ overfull ls = true ∨ (w16 = true ∧ olen % 2 = 1) then none
  else match readSyms ls (codeOrder ls) coded n 0 with
    | none => none
    | some (xs, pos) =>
      if coded.length ≠ ceilDiv pos 8 then none
      else if w16 then
        some (xs.zipIdx.flatMap fun x =>
          let r := (body.getD (128 + x.2) 0).toNat
          toLE 2 (bits r 7 1 * 2 ^ 15 + x.1 * 2 ^ 7 + bits r 0 7))
      else some (xs.map byte)

/-- The blocks of a packed source, decoded in order. -/
def unpack : Nat → List Byte → Option (List Byte)
  | 0, bs => if bs.isEmpty then some [] else none
  | fuel + 1, bs =>
    if bs.isEmpty then some []
    else
      let w := wordAt bs 0
      let clen := (wordAt bs 1).toNat
      let olen := fld w 0 16 + 1
      let body := (bs.drop 8).take clen
      if bs.length < 8 + clen ∨ fld w 19 13 ≠ 0 then none
      else
        let out := match fld w 16 2 with
          | 0 => if clen = olen then some body else none
          | 1 => codedBody (flag w 18) olen body
          | _ => none
        match out with
        | none => none
        | some o => (unpack fuel (bs.drop (8 + clen))).map fun r => o ++ r

/-! ## Quantisation (R414) -/

/-- emax of an MX target, and the format code of its elements. -/
def mxEmax : Nat → Int
  | 9 => 8 | 0xA => 15 | 0xB => 4 | 0xC => 2 | 0xD => 2 | _ => 0
def mxElem : Nat → Nat
  | 9 => 0 | 0xA => 1 | 0xB => 2 | 0xC => 3 | 0xD => 4 | _ => 5

/-- x times QSCALE, rounded once to FP32. -/
def quantIn (q : FV) (x : FV) : FV := fp32.decode (fp32.encode (FV.mul x q))

/-- The magnitude of a value, and the larger of two. -/
def FV.mag : FV → FV
  | .fin _ m e => .fin false m e
  | .inf _ => .inf false
  | .nan => .nan

/-- The scale code of a block. -/
def mxScaleOf (tfmt : Nat) (vs : List FV) : Nat :=
  match vs.foldl (fun a v => FV.max a v.mag) (.fin false 0 0) with
  | .fin _ m e =>
    if m = 0 then 0
    else
      let l : Int := (log2 m : Int) + e
      (min 254 (max 0 (l - mxEmax tfmt + 127))).toNat
  | _ => 254

/-- An element of a block with a scale code. -/
def mxCode (tfmt x : Nat) (v : FV) : Nat :=
  let sh : Int := if tfmt = 0xE then 133 else 127
  cvt (mxElem tfmt) (FV.mul v (.fin false 1 (sh - x)))

/-! ## Streaming order (R415) -/

/-- What a piece asks for. -/
structure Conv where
  sfmt : Nat
  tfmt : Nat
  k : Nat
  nc : Nat
  pack : Bool
  rl : Bool
  qscale : Word
  deriving DecidableEq, Repr

/-- Elements of the piece, and the bytes of its raw source. -/
def Conv.count (c : Conv) : Nat := c.k * c.nc
def Conv.rawBytes (c : Conv) : Nat := ceilDiv (c.count * elemWidth c.sfmt) 8

/-- The element at column `n` and row `k` of the converted piece: for a target that is not MX its code, for an MX target what
its block of 32 along k gives. -/
def Conv.codes (c : Conv) (vs : List FV) : List Nat :=
  if elemMx c.tfmt then
    (List.range c.nc).flatMap fun n => (List.range (ceilDiv c.k 32)).flatMap fun g =>
      let blk := (vs.drop (n * c.k + 32 * g)).take (min 32 (c.k - 32 * g))
      let x := mxScaleOf c.tfmt blk
      blk.map fun v => mxCode c.tfmt x v
  else vs.map fun v => cvt c.tfmt v

/-- Scale codes by column and block. -/
def Conv.scales (c : Conv) (vs : List FV) : List (List Nat) :=
  (List.range c.nc).map fun n => (List.range (ceilDiv c.k 32)).map fun g =>
    mxScaleOf c.tfmt ((vs.drop (n * c.k + 32 * g)).take (min 32 (c.k - 32 * g)))

/-- Panels of 64 columns, row by row, with a scale row before each 32 rows of an MX target. -/
def Conv.relay (c : Conv) (codes : List Nat) (scales : List (List Nat)) : List Byte :=
  (List.range (c.nc / 64)).flatMap fun p => (List.range c.k).flatMap fun k =>
    let row := packElems (elemWidth c.tfmt) ((List.range 64).map fun i => codes.getD ((64 * p + i) * c.k + k) 0)
    if elemMx c.tfmt && decide (k % 32 = 0) then
      ((List.range 64).map fun i => byte ((scales.getD (64 * p + i) []).getD (k / 32) 0)) ++ row
    else row

/-- A value that cannot be quantised. -/
def FV.odd : FV → Bool
  | .fin .. => false
  | _ => true

/-- The target bytes of a piece; none where it fails (R416). -/
def Conv.run (c : Conv) (src : List Byte) : Option (List Byte) :=
  match (if c.pack then unpack (src.length + 1) src else some src) with
  | none => none
  | some raw =>
    if raw.length ≠ c.rawBytes then none
    else
      let cs := (List.range c.count).map fun i => elemAt (elemWidth c.sfmt) raw i
      if c.sfmt = c.tfmt then
        some (if c.rl then c.relay cs [] else packElems (elemWidth c.tfmt) cs)
      else if c.sfmt ≠ 7 ∧ c.sfmt ≠ 8 then none
      else
        let xs := cs.map fun x => elemVal c.sfmt x
        if xs.any FV.odd then none
        else
          let vs := xs.map fun x => quantIn (fp32.decode c.qscale.toNat) x
          let ks := c.codes vs
          some (if c.rl then c.relay ks (if elemMx c.tfmt then c.scales vs else []) else packElems (elemWidth c.tfmt) ks)

end Sys2Proof.Machine
end

