-- ==== Sys2Proof/Machine/Weights.lean ====
section
/-! DEFINITION. Weights (spec/14): the distribution chain (R409 to R412, R419, R420), the intake of pieces (R411, R414 to R418),
and replacement under load (R421 to R427). -/

namespace Sys2Proof.Machine

def State.modWts (s : State) (p : Nat) (f : Weights → Weights) : State := s.modPart p fun v => { v with wts := f v.wts }
def Weights.layer (w : Weights) (l : Nat) : WState := SMap.get WState.reset w.tab l
def State.setLayer (s : State) (p l : Nat) (x : WState) : State := s.modWts p fun w => { w with tab := SMap.put WState.reset w.tab l x }
def State.wmapOf (s : State) (p : Nat) : Option WMap := (s.part p).plan.bind (·.wmap)

/-! ## The descriptor and its stream (Tables 14.4, 14.5, R410) -/

/-- A piece entry of 80 bytes. -/
structure Piece where
  bs : List Byte
  deriving DecidableEq, Repr

def Piece.word (x : Piece) (i : Nat) : Word := wordAt x.bs i
def Piece.layer (x : Piece) : Nat := fld (x.word 0) 0 12
def Piece.shard (x : Piece) : Nat := fld (x.word 0) 12 12
def Piece.lend (x : Piece) : Bool := flag (x.word 0) 24
def Piece.src (x : Piece) : Nat := natAt x.bs 16 6
def Piece.slen (x : Piece) : Nat := (x.word 6).toNat
def Piece.toff (x : Piece) : Nat := 256 * (x.word 7).toNat
def Piece.wdig (x : Piece) : BitVec 256 := BitVec.ofNat 256 (natAt x.bs 40 32)
def Piece.conv (x : Piece) : Conv :=
  { sfmt := fld (x.word 1) 0 4, tfmt := fld (x.word 1) 4 4, k := (x.word 2).toNat, nc := (x.word 3).toNat, pack := flag (x.word 0) 25,
    rl := flag (x.word 0) 26, qscale := x.word 8 }
def Piece.key (x : Piece) : Nat := x.layer + 4096 * x.shard
def pad1k (n : Nat) : Nat := 1024 * ceilDiv n 1024
def Piece.padded (x : Piece) : Nat := pad1k x.slen

def Dist.descLen (d : Dist) : Nat := 0x4040 + 80 * d.npiece
def Dist.hasDesc (d : Dist) : Bool := decide (d.descLen ≤ d.desc.length)
def Dist.pieceAt (d : Dist) (i : Nat) : Piece := { bs := (d.desc.drop (0x4040 + 80 * i)).take 80 }
def Dist.pieces (d : Dist) : List Piece := (List.range d.npiece).map d.pieceAt
/-- Bytes of the whole stream; unknown until the descriptor is whole. -/
def Dist.total (d : Dist) : Option Nat :=
  if d.hasDesc then some (d.pieces.foldl (fun n x => n + x.padded) (pad1k d.descLen)) else none
def ringAt (ring o : Nat) : Nat := ring + 0x100000 + o % 2 ^ 26

/-- Every field of a piece entry lies in its range. -/
def Piece.ok (mode : Nat) (x : Piece) : Bool :=
  let c := x.conv
  decide (fld (x.word 0) 27 5 = 0 ∧ fld (x.word 1) 8 24 = 0 ∧ natAt x.bs 22 2 = 0 ∧ x.word 9 = 0 ∧ x.word 18 = 0 ∧ x.word 19 = 0) &&
  decide (x.src % 256 = 0) && !elemMx c.sfmt && decide (c.sfmt ≠ 15 ∧ c.tfmt ≠ 15) && (mode ≠ 2 || x.layer = 0) &&
  (if c.rl then decide (c.nc % 64 = 0 ∧ c.nc ≠ 0) && (!elemMx c.tfmt || c.k % 32 = 0) else decide (c.nc = 1))

/-- Every field of the header and of the chain lies in its range, and the ring area in the partition's Marl. -/
def State.distHdrOk (s : State) (p : Nat) (d : Dist) : Bool :=
  let g := fld (d.word 3) 0 16
  decide (d.mode ≠ 3 ∧ fld (d.word 0) 18 14 = 0 ∧ fld (d.word 1) 12 20 = 0 ∧ fld (d.word 2) 24 8 = 0 ∧ d.npiece ≠ 0 ∧ fld (d.word 3) 26 6 = 0) &&
  (if d.mode = 2 then decide (g = 0) else decide (g ≠ 0 ∧ d.slot = 0)) &&
  decide (natAt d.desc 16 8 = d.ring ∧ d.ring % 2 ^ 20 = 0 ∧ d.dtmo ≠ 0 ∧ fld (d.word 6) 16 16 = 0) &&
  ((List.range 9).all fun i => d.word (7 + i) = 0) && s.ownedMarl p d.ring 0x4100000 &&
  (List.range d.npos).all fun i => decide (fld (d.word (16 + i)) 16 12 ≤ 4094 ∧ fld (d.word (16 + i)) 28 4 = 0)

/-- A swap of the partition is not idle, as this device sees it. -/
def Weights.swapping (w : Weights) : Bool := decide (w.swst ≠ 0) || decide (w.mgen ≠ 0) || !w.copies.isEmpty

/-- The member refuses the distribution (R411). The state of a Larder slot lies on the lead, which alone can tell. DESIGN CHOICE (log entry 73). -/
def State.distRefused (s : State) (p : Nat) (d : Dist) : Bool :=
  let v := s.part p
  (d.mode = 0 && v.running) ||
  (d.mode = 1 && (!((s.wmapOf p).any fun m => m.repl) || v.wts.swapping)) ||
  (d.mode = 2 && s.isLead p && decide ((s.lslot d.slot).state ≠ 1)) ||
  !s.distHdrOk p d || (v.wts.dists.any fun e => !e.reported)

/-- WSDIG of the generation that a descriptor brings (R437). -/
def Dist.wsdig (d : Dist) : BitVec 256 := dig256 ((d.pieces.filter Piece.lend).flatMap fun x => toLE 32 x.wdig.toNat)

/-- A distribution begins on this device. -/
def Dist.start (ring pos t : Nat) (desc : List Byte) (head : Bool) (reply : Option CmdRef) : Dist :=
  { ring := ring, pos := pos, desc := desc, refused := false, head := head, arrw := 0, fwd := 0, conv := 0, ackw := 0, ackd := 0, piece := 0,
    poff := 0, cur := [], src := [], failed := [], done := [], skipped := [], arrAt := t, ackAt := t, reported := false, lost := false,
    reports := [], lastAt := none, reply := reply }

def State.addDist (s : State) (p : Nat) (d : Dist) : State :=
  s.modWts p fun w => { w with dists := (w.dists.filter fun e => decide (e.ring ≠ d.ring)) ++ [d] }

/-- Take a distribution: one that is refused is reported at once. -/
def State.takeDist (s : State) (p : Nat) (d0 : Dist) : State :=
  let d := { d0 with refused := s.distRefused p d0 }
  let s1 := s.addDist p d
  if d.refused then s1.distReport p d 4 0 else s1

/-- KiB of a ring from a stream offset on, read in service blocks. -/
def State.ringRead (s : State) (ring o : Nat) : Nat → List Byte × State
  | 0 => ([], s)
  | n + 1 =>
    let r := s.blockRead (ringAt ring o) 1024
    let q := State.ringRead r.2 ring (o + 1024) n
    (r.1 ++ q.1, q.2)

/-- The distribution of a command (R409, R465): the head has the whole descriptor before it. -/
def State.headDist (s : State) (p daddr : Nat) (r : CmdRef) : State :=
  let n := fld (wordAt (s.rd daddr 16) 2) 0 24
  let (desc, s) := s.blockRead daddr (0x4040 + 80 * n)
  let d0 := Dist.start (natAt desc 16 6) 0 s.mnt.up desc true (some r)
  let d1 : Dist := { d0 with conv := pad1k d0.descLen, poff := pad1k d0.descLen }
  let bad := !(d1.pieces.all (Piece.ok d1.mode)) || decide (d1.dev 0 ≠ s.me)
  let s1 := s.takeDist p d1
  if bad then
    match (s1.part p).wts.dists.find? fun e => decide (e.ring = d1.ring) with
    | some e => (s1.setDist p { e with refused := true }).distReport p { e with refused := true } 4 0
    | none => s1
  else s1

/-- WD_DESCRIPTOR_ARRIVAL: a ring area in which ARRW has moved holds the header of a distribution. -/
def execWdDescriptorArrival (p : Nat) (s : State) : Host.Outcome State Fault Refusal :=
  .next (match (s.part p).wts.ringIn with
    | [] => s
    | ring :: r =>
      let s1 := s.modWts p fun w => { w with ringIn := r }
      let (desc, s1) := s1.blockRead (ring + 0x100000) 0x4040
      let a := (s.rdW (ring + 8)).toNat
      let d0 := Dist.start ring 0 s.mnt.up desc false none
      match (List.range d0.npos).find? fun i => decide (d0.dev i = s.me) with
      | none => s1
      | some pos =>
        let s2 := s1.servCount p .wdBytes a
        s2.takeDist p { d0 with pos := pos, arrw := a, conv := 0x4000 })

/-! ## Forwarding (R410, R411) -/

/-- The stream offsets that the device may forward or convert. -/
def Dist.avail (d : Dist) : Nat := if d.head then d.total.getD 0 else d.arrw

/-- 1 KiB of the head's own stream: the descriptor, or a piece from its source. -/
def State.headKib (s : State) (p : Nat) (d : Dist) (o : Nat) : List Byte × State :=
  if o < pad1k d.descLen then (fit 1024 (d.desc.drop o), s)
  else
    let hit := d.pieces.foldl (fun (a : Nat × Option (Piece × Nat)) x =>
      (a.1 + x.padded, if a.2.isNone && decide (o < a.1 + x.padded) then some (x, o - a.1) else a.2)) (pad1k d.descLen, none)
    match hit.2 with
    | none => (zeros 1024, s)
    | some (x, k) =>
      let n := min 1024 (x.slen - k)
      match s.svcRead p (x.src + k) n with
      | (some bs, s1) => (fit 1024 bs, s1)
      | (none, s1) => (fit 1024 (freeBytes s1.free n), { s1 with free := s1.free + ceilDiv n 8 })

/-- Acknowledge to the predecessor every MiB consumed. DESIGN CHOICE (log entry 73). -/
def State.distAck (s : State) (p : Nat) (d : Dist) : State :=
  let c := if d.last then d.conv else min d.fwd d.conv
  let m := c / 2 ^ 20
  if d.head || decide (m ≤ d.ackd) then s.setDist p d
  else
    (s.setDist p { d with ackd := m }).send
      { Hdr.zero with dst := d.dev (d.pos - 1), vc := 3, opc := 7, part := p, addr := d.ring, opa := c } []

/-- A distribution with nothing left to do is forgotten; the head keeps it until its reply. -/
def Dist.over (d : Dist) : Bool :=
  let whole := d.total.any fun t => decide (t ≤ d.fwd)
  !d.head && d.reported && (d.refused || (d.total.any fun t => decide (t ≤ d.conv))) && (d.last || d.lost || whole)
/-- DESIGN CHOICE (log entry 73). -/
def State.sweepDists (s : State) (p : Nat) : State := s.modWts p fun w => { w with dists := w.dists.filter fun d => !d.over }

def Dist.canForward (d : Dist) : Bool := !d.last && !d.lost && decide (d.fwd < d.avail) && decide (d.fwd + 1024 ≤ d.ackw + 2 ^ 26)

/-- Forward 1 KiB, and after each MiB and after the last byte move the successor's ARRW. -/
def State.forwardKib (s : State) (p : Nat) (d : Dist) : State :=
  let (bs, s1) := if d.head then s.headKib p d d.fwd else s.ringRead d.ring d.fwd 1
  let f := d.fwd + 1024
  let ends := decide (d.total = some f)
  let d1 := { d with fwd := f, ackAt := if d.fwd = d.ackw then s.mnt.up else d.ackAt, lastAt := if ends && d.head then some s.mnt.up else d.lastAt }
  let s2 := (s1.sendWrites p d.succ (ringAt d.ring d.fwd) (wdTag p) [bs]).servCount p .wdFwd 1024
  let s3 := if f % 2 ^ 20 = 0 ∨ ends = true then
      s2.send { Hdr.zero with dst := d.succ, vc := 3, opc := 7, ord := true, part := p, addr := d.ring + 8, opa := f } []
    else s2
  (s3.distAck p d1).sweepDists p

/-- WD_STREAM_FORWARD. -/
def execWdStreamForward (p : Nat) (s : State) : Host.Outcome State Fault Refusal :=
  .next (match (s.part p).wts.dists.find? Dist.canForward with
    | none => s
    | some d => s.forwardKib p d)

/-! ## Intake (R411, R414 to R418) -/

/-- The areas of a layer in ascending STACK: address and bytes. -/
def WMap.areas (m : WMap) (staging : Bool) (l : Nat) : List (Nat × Nat) :=
  (List.range 8).flatMap fun k => (m.ents.filter fun e => decide (e.layer = l ∧ e.stack = k)).map fun e =>
    (if staging then e.stage else e.live, 16384 * e.len)

/-- Write bytes in service blocks at an offset of a concatenation of areas; none where they pass its end (R412). -/
def State.wrAreas (s : State) : List (Nat × Nat) → Nat → List Byte → Option State
  | [], _, bs => if bs.isEmpty then some s else none
  | (a, n) :: r, o, bs =>
    if n ≤ o then State.wrAreas s r (o - n) bs
    else
      let k := min bs.length (n - o)
      State.wrAreas (s.svcPut (a + o) (bs.take k)).2 r 0 (bs.drop k)

/-- The target areas of a piece (R415, R416): the layer's areas, or the slot's. -/
def State.targetAreas (s : State) (p : Nat) (d : Dist) (x : Piece) : List (Nat × Nat) :=
  if d.mode = 2 then
    match (s.part p).plan.bind (·.larder) with
    | some (b, n) => let a := b + d.slot * (n * 2 ^ 20)
      if s.ownedMarl p a (n * 2 ^ 20) then [(a, n * 2 ^ 20)] else []
    | none => []
  else
    match s.wmapOf p with
    | some m => m.areas (d.mode = 1) x.layer
    | none => []

/-- WDIG of a layer of a shard. -/
def Dist.digOf (d : Dist) (key : Nat) : Option (BitVec 256) := (d.pieces.find? fun x => x.lend && decide (x.key = key)).map Piece.wdig

/-- The target already holds the layer (R418). -/
def State.holds (s : State) (p : Nat) (d : Dist) (x : Piece) : Bool :=
  let w := (s.part p).wts.layer x.layer
  match d.mode with
  | 0 => decide (w.lstate = 1 ∧ w.lgen = d.gen ∧ some w.ldig = d.digOf x.key)
  | 1 => decide (w.sstate = 2 ∧ w.sgen = d.gen ∧ some w.sdig = d.digOf x.key)
  | _ => false

/-- The first piece of a layer: it is skipped, or its target becomes receiving or torn. -/
def State.firstPiece (s : State) (p : Nat) (d : Dist) (x : Piece) : State × Dist :=
  if (SMap.find d.src x.key).isSome || d.skipped.contains x.key then (s, d)
  else if s.holds p d x then (s.servCount p .wdSkip 1, { d with skipped := d.skipped ++ [x.key] })
  else
    let w := (s.part p).wts.layer x.layer
    let s1 := match d.mode with
      | 0 => s.setLayer p x.layer { w with lstate := 2 }
      | 1 => s.setLayer p x.layer { w with sstate := 1 }
      | _ => s
    (s1, { d with src := SMap.set d.src x.key [] })

/-- The digest check at a layer's last piece (R417, Table 14.7). -/
def State.lastPiece (s : State) (p : Nat) (d : Dist) (x : Piece) : State × Dist :=
  let good := !d.failed.contains x.key && decide (dig256 (SMap.get [] d.src x.key) = x.wdig)
  let w := (s.part p).wts.layer x.layer
  let w1 := match d.mode with
    | 0 => if good then { w with lstate := 1, lgen := d.gen, ldig := x.wdig } else { w with lstate := 2 }
    | _ => if good then { w with sstate := 2, sgen := d.gen, sdig := x.wdig } else { w with sstate := 3 }
  let s1 := if d.mode = 2 then s else s.setLayer p x.layer w1
  if good then (s1, { d with done := d.done ++ [x.key] })
  else (s1.servCount p .wdDigfail 1, { d with failed := (d.failed.filter fun k => decide (k ≠ x.key)) ++ [x.key] })

/-- A kept piece is whole: it is converted into its target, or fails (R416). -/
def State.pieceDone (s : State) (p : Nat) (d : Dist) (x : Piece) : State × Dist :=
  let src := d.cur.take x.slen
  let d1 := { d with src := SMap.set d.src x.key (SMap.get [] d.src x.key ++ src) }
  let out := if d1.failed.contains x.key then none else (x.conv.run src).bind fun bs => s.wrAreas (s.targetAreas p d x) x.toff bs
  let (s1, d2) := match out with
    | some u => (u, d1)
    | none => (s, { d1 with failed := if d1.failed.contains x.key then d1.failed else d1.failed ++ [x.key] })
  if x.lend then s1.lastPiece p d2 x else (s1, d2)

/-- The whole stream has been taken in: the report, and the generation that a complete distribution brings (Table 14.9, R437). -/
def State.intakeDone (s : State) (p : Nat) (d : Dist) : State :=
  let s1 := s.setDist p d
  if d.reported then s1
  else
    let s2 := s1.distReport p d (if d.failed.isEmpty then 0 else 1) 0
    if !d.failed.isEmpty then s2
    else match d.mode with
      | 0 => s2.modWts p fun w => { w with cur := d.gen, wsdig := d.wsdig }
      | 1 => s2.modWts p fun w => { w with wsdigS := d.wsdig }
      | _ => s2

/-- The piece at the front, or the part of it that has come. -/
def State.intakePiece (s : State) (p : Nat) (d : Dist) : State :=
  let x := d.pieceAt d.piece
  let n := min (d.avail - d.conv) (d.poff + x.padded - d.conv)
  let mine := !d.refused && decide (x.shard = d.shard ∨ x.shard = 0xFFF)
  let (s1, d1) := if mine && decide (d.conv = d.poff) then s.firstPiece p d x else (s, d)
  let take := mine && !d1.skipped.contains x.key
  let (bs, s2) : List Byte × State :=
    if !take then ([], s1)
    else if d1.head then
      (List.range (n / 1024)).foldl (fun (a : List Byte × State) i => let r := a.2.headKib p d1 (d1.conv + 1024 * i); (a.1 ++ r.1, r.2)) ([], s1)
    else s1.ringRead d1.ring d1.conv (n / 1024)
  let d2 := { d1 with conv := d1.conv + n, cur := d1.cur ++ bs }
  if d2.conv < d2.poff + x.padded then s2.distAck p d2
  else
    let (s3, d3) := if take then s2.pieceDone p d2 x else (s2, d2)
    let d4 := { d3 with piece := d3.piece + 1, poff := d3.conv, cur := [] }
    let s4 := if d4.npiece ≤ d4.piece ∧ d4.refused = false then s3.intakeDone p d4 else s3.setDist p d4
    match (s4.part p).wts.dists.find? fun e => decide (e.ring = d4.ring) with
    | some e => (s4.distAck p e).sweepDists p
    | none => s4

/-- Descriptor bytes that have come; when it is whole, the rest of the checks of R411. -/
def State.intakeDesc (s : State) (p : Nat) (d : Dist) : State :=
  let n := min (d.avail - d.conv) (pad1k d.descLen - d.conv)
  let (bs, s) := s.ringRead d.ring d.conv (n / 1024)
  let d1 := { d with conv := d.conv + n, desc := (d.desc.take d.conv ++ bs).take d.descLen }
  if d1.conv < pad1k d1.descLen then s.distAck p d1
  else
    let d2 := { d1 with poff := d1.conv }
    if d2.refused || d2.pieces.all (Piece.ok d2.mode) then s.distAck p d2
    else
      let d3 := { d2 with refused := true }
      ((s.setDist p d3).distReport p d3 4 0).distAck p { d3 with reported := true }

def Dist.canConvert (d : Dist) : Bool :=
  if d.hasDesc && decide (d.poff ≠ 0) then decide (d.piece < d.npiece) && (decide (d.conv < d.avail) || decide ((d.pieceAt d.piece).padded = 0))
  else decide (d.conv < d.avail)

/-- WD_PIECE_CONVERT. -/
def execWdPieceConvert (p : Nat) (s : State) : Host.Outcome State Fault Refusal :=
  .next (match (s.part p).wts.dists.find? Dist.canConvert with
    | none => s
    | some d => if d.hasDesc && decide (d.poff ≠ 0) then s.intakePiece p d else s.intakeDesc p d)

/-! ## Reports and their limits (R419, R420, R465) -/

/-- The layers of a distribution that are still being received become failed (R419). -/
def State.dropIntake (s : State) (p : Nat) (d : Dist) : State :=
  if d.mode ≠ 1 then s
  else d.src.foldl (fun u kv =>
    if d.done.contains kv.1 then u
    else
      let w := (u.part p).wts.layer (kv.1 % 4096)
      if w.sstate = 1 then u.setLayer p (kv.1 % 4096) { w with sstate := 3 } else u) s

/-- WD_DTMO_TIMEOUT. -/
def execWdDtmoTimeout (p : Nat) (s : State) : Host.Outcome State Fault Refusal :=
  .next (let up := s.mnt.up
    let silent := fun d : Dist => !d.head && !(d.total.any fun t => decide (t ≤ d.arrw)) && decide (d.arrAt + d.dtmo ≤ up)
    let stuck := fun d : Dist => !d.last && !d.lost && decide (d.ackw < d.fwd) && decide (d.ackAt + d.dtmo ≤ up)
    match (s.part p).wts.dists.find? fun d => !d.reported && (silent d || stuck d) with
    | none => s
    | some d =>
      if silent d then
        let s1 := (s.dropIntake p d).distReport p d 2 0
        s1.modWts p fun w => { w with dists := w.dists.filter fun e => decide (e.ring ≠ d.ring) }
      else
        let d1 := { d with lost := true, lastAt := if d.head then some up else d.lastAt }
        (s.setDist p d1).distReport p d1 3 d1.succ)

/-- Bytes of a bitmap of 4,096 positions. -/
def posMap (ps : List Nat) : List Byte := (List.range 512).map fun i => byte (((List.range 8).filter fun b => ps.contains (8 * i + b)).foldl (fun n b => n + 2 ^ b) 0)

/-- The head replies (R420, R465), and a Larder slot becomes ready or failed (R399). DESIGN CHOICE (log entry 73). -/
def State.distReply (s : State) (p : Nat) (d : Dist) : State :=
  let got := fun i => SMap.get 0 d.reports i
  let none_ := (List.range d.npos).filter fun i => decide (got i = 0)
  let bad := (List.range d.npos).filter fun i => decide (2 ≤ got i)
  let ok := none_.isEmpty && bad.isEmpty
  let s1 := (s.svcPut (d.ring + 0x80000) (posMap none_)).2
  let s2 := s1.modWts p fun w => { w with dists := w.dists.filter fun e => decide (e.ring ≠ d.ring) }
  let x := s2.lslot d.slot
  let s3 := if d.mode = 2 && s2.isLead p && decide (x.state = 1) then s2.setLslot d.slot { x with state := if ok then 2 else 3, good := ok } else s2
  match d.reply with
  | some r => s3.reply r (if ok then 0 else 0x0D) [word none_.length, word bad.length]
  | none => s3

/-- WD_REPORT_RECEIVE. -/
def execWdReportReceive (p : Nat) (s : State) : Host.Outcome State Fault Refusal :=
  .next (match (s.part p).wts.repIn with
    | [] => s
    | ws :: r =>
      let s1 := s.modWts p fun w => { w with repIn := r }
      let did := fld (wd ws 0) 0 16
      let pos := fld (wd ws 0) 16 12
      match (s.part p).wts.dists.find? fun d => d.head && decide (d.did = did) && decide (pos < d.npos) with
      | none => s1
      | some d =>
        let d1 := { d with reports := SMap.set d.reports pos (fld (wd ws 1) 0 4 + 1) }
        let s2 := s1.setDist p d1
        if (List.range d1.npos).all fun i => decide (SMap.get 0 d1.reports i ≠ 0) then s2.distReply p d1 else s2)

/-- WD_HEAD_TIMEOUT. -/
def execWdHeadTimeout (p : Nat) (s : State) : Host.Outcome State Fault Refusal :=
  .next (match (s.part p).wts.dists.find? fun d => d.head && d.lastAt.any fun t => decide (t + d.dtmo ≤ s.mnt.up) with
    | none => s
    | some d => s.distReply p d)

/-! ## Replacement (R421 to R427) -/

/-- Layers that a member's map names. -/
def WMap.layers (m : WMap) : List Nat := (List.range m.nlayers).filter fun l => m.ents.any fun e => decide (e.layer = l)

/-- An order of a swap to every member. -/
def State.swapOrder (s : State) (p op gen step : Nat) : State :=
  match s.wmapOf p with
  | none => s
  | some m => (s.members p).foldl (fun u d => u.sendMsg p d m.wctl false ([word op, word gen] ++ lohi step ++ List.replicate 12 0)) s

/-- A member's confirmation. -/
def State.swapConfirm (s : State) (p gen step status : Nat) : State :=
  match s.wmapOf p, s.servDesc p with
  | some m, some d => s.sendMsg p d.lead (m.wctl + 0x10000 + 64 * d.midx) false ([8, word gen] ++ lohi step ++ [word status] ++ List.replicate 11 0)
  | _, _ => s

/-- The status of a query: 3 without replacement, 2 with a distribution active, 1 with a layer not verified at the generation. -/
def State.swapStatus (s : State) (p gen : Nat) : Nat :=
  match s.wmapOf p with
  | none => 3
  | some m =>
    let w := (s.part p).wts
    if !m.repl then 3
    else if !w.dists.isEmpty then 2
    else if m.layers.all fun l => decide ((w.layer l).sstate = 2 ∧ (w.layer l).sgen = gen) then 0 else 1

/-- Every stack of a layer begins to copy. -/
def State.beginCopy (s : State) (p : Nat) (m : WMap) (l : Nat) : State :=
  let c : RowCopy := { layer := l, stks := (m.ents.filter fun e => decide (e.layer = l)).map (·.stack), start := s.now, torn := false }
  s.modWts p fun w => { w with copies := w.copies ++ [c], begun := w.begun ++ [l] }

/-- The last layer has been rewritten: CUR moves on. Without a running plan the member confirms then (R427). DESIGN CHOICE (log entry 74). -/
def State.swapEnd (s : State) (p : Nat) : State :=
  match s.wmapOf p with
  | none => s
  | some m =>
    let w := (s.part p).wts
    if w.mgen = 0 || !w.copies.isEmpty || !(m.layers.all fun l => w.begun.contains l) then s
    else
      let run := (s.part p).running
      let s1 := s.modWts p fun x => { x with cur := x.mgen, wsdig := x.wsdigS, mgen := 0, mstep := 0, begun := [],
                                             swst := if run && decide (x.swst = 3) then 0 else x.swst }
      if run then s1 else s1.swapConfirm p w.mgen w.mstep 0

/-- With no plan running every layer that is staged as verified is copied at once (R427). DESIGN CHOICE (log entry 74). -/
def State.swapNow (s : State) (p gen : Nat) (m : WMap) : State :=
  let ls := m.layers.filter fun l => let w := (s.part p).wts.layer l; decide (w.sstate = 2 ∧ w.sgen = gen)
  let s1 := s.modWts p fun w => { w with mgen := gen, mstep := 0, begun := m.layers.filter fun l => !ls.contains l }
  (ls.foldl (fun u l => u.beginCopy p m l) s1).swapEnd p

/-- WSWAP_ORDER_RECEIVE. -/
def execWswapOrderReceive (p : Nat) (s : State) : Host.Outcome State Fault Refusal :=
  .next (match (s.part p).wts.ordIn, s.wmapOf p with
    | ws :: r, some m =>
      let s1 := s.modWts p fun w => { w with ordIn := r }
      let gen := fld (wd ws 1) 0 16
      let step := wd64 ws 2
      if (s.part p).run.halted then s1
      else if fld (wd ws 0) 0 4 = 1 then s1.swapConfirm p gen step (s1.swapStatus p gen)
      else if fld (wd ws 0) 0 4 = 2 then
        if (s.part p).running then (s1.modWts p fun w => { w with mgen := gen, mstep := step, begun := [] }).swapConfirm p gen step 0
        else s1.swapNow p gen m
      else s1
    | _, _ => s)

/-- The swap fails on the lead. -/
def State.swapFail (s : State) (p status midx : Nat) : State :=
  let s1 := s.modWts p fun w => { w with swst := 4, reply := none }
  match (s.part p).wts.reply with
  | some r => s1.reply r 0x0D [word status, word midx]
  | none => s1

/-- WSWAP_CONFIRM_RECEIVE. -/
def execWswapConfirmReceive (p : Nat) (s : State) : Host.Outcome State Fault Refusal :=
  .next (match (s.part p).wts.confIn with
    | [] => s
    | (i, ws) :: r =>
      let s1 := s.modWts p fun w => { w with confIn := r }
      let w := (s.part p).wts
      let st := fld (wd ws 4) 0 4
      if fld (wd ws 0) 0 4 ≠ 8 ∨ fld (wd ws 1) 0 16 ≠ w.gnew then s1
      else if w.swst = 1 then
        if st ≠ 0 then s1.swapFail p st i
        else s1.modWts p fun x => { x with ready := (x.ready.filter fun j => decide (j ≠ i)) ++ [i] }
      else if w.swst = 2 ∨ w.swst = 3 then
        let s2 := s1.modWts p fun x => { x with sched := (x.sched.filter fun j => decide (j ≠ i)) ++ [i] }
        if !(s.part p).running && decide ((s.members p).length ≤ (s2.part p).wts.sched.length) then
          let s3 := s2.modWts p fun x => { x with swst := 0, reply := none }
          match w.reply with
          | some c => s3.reply c 0 []
          | none => s3
        else s2
      else s1)

/-- What a swap does at a commit (R422): the schedule is fixed once every member is ready, and must be confirmed by the next. -/
def State.swapCommit (s : State) (p k : Nat) : State :=
  let w := (s.part p).wts
  let n := (s.members p).length
  if w.swst = 1 ∧ n ≤ w.ready.length then
    (s.modWts p fun x => { x with swst := 2, s := k + 3, schedBy := k + 1, sched := [] }).swapOrder p 2 w.gnew (k + 3)
  else if w.swst = 2 ∧ w.schedBy ≤ k then
    if n ≤ w.sched.length then
      let s1 := s.modWts p fun x => { x with swst := 3, reply := none }
      match w.reply with
      | some r => s1.reply r 0 (lohi w.s)
      | none => s1
    else
      let late := (List.range n).filter fun i => !w.sched.contains i
      (s.swapFail p 0 (late.head?.getD 0)).raise p (FInfo.dev 0x19 0 ([word w.gnew, 0] ++ lohi w.s ++ late.map word))
  else s

/-- W_l has come (R424). -/
def Part.rewriteDue (v : Part) (l now : Nat) : Bool :=
  let w := v.wts
  if w.mgen = 0 || w.begun.contains l || !v.running || v.run.halted then false
  else if w.mstep ≤ v.run.step then true
  else if v.run.step + 1 ≠ w.mstep || !v.run.manRead then false
  else match v.plan, v.shapeNow with
    | some pl, some h => match pl.wmap with
      | none => false
      | some m => match pl.reads[v.run.shape * m.nlayers + l]? with
        | some (a, b) =>
          if a = 0xFFFF then true
          else if h.firstc + h.nc ≤ b + 1 then false
          else ((v.instOf (b + 1)).bind v.startOf).any fun t => decide (t ≤ now)
        | none => true
    | _, _ => false

/-- WEIGHT_REWRITE_START. -/
def execWeightRewriteStart (p layer : Nat) (s0 : State) : Host.Outcome State Fault Refusal :=
  .next (let s := s0.stepAdvance p
    match s.wmapOf p with
    | none => s
    | some m => if m.layers.contains layer && (s.part p).rewriteDue layer s.now then s.beginCopy p m layer else s)

/-- A layer whose stacks have all finished (R424). DESIGN CHOICE (log entry 74). -/
def State.layerCopied (s : State) (p : Nat) (c : RowCopy) : State :=
  let w := (s.part p).wts.layer c.layer
  let w1 : WState := { lgen := w.sgen, lstate := 1, sgen := 0, sstate := 0, ldig := w.sdig, sdig := w.sdig }
  let t := s.now - c.start
  if c.torn then s.setLayer p c.layer { w with lstate := 2 }
  else
    (s.setLayer p c.layer w1).modServ p fun v =>
      let v1 := v.count .wrwLayers 1
      { v1 with ctr := SMap.put 0 v1.ctr ServCtr.wrwPeak.idx (max (min (2 ^ 32 - 1) t) (SMap.get 0 v1.ctr ServCtr.wrwPeak.idx)) }

/-- A copy that stops leaves the live areas that it was writing part old and part new: their bytes are free (R424). DESIGN CHOICE (log entry 74). -/
def State.tearAreas (s : State) (m : WMap) (c : RowCopy) : State :=
  c.stks.foldl (fun u k => match m.ents.find? fun e => decide (e.layer = c.layer ∧ e.stack = k) with
    | none => u
    | some e => { u.wr e.live (freeBytes u.free (16384 * e.len)) with free := u.free + 2048 * e.len }) s

/-- One stack of a layer has finished its copy. -/
def State.stackCopied (s : State) (p : Nat) (c : RowCopy) (stk : Nat) (bad : Bool) : State :=
  let c1 : RowCopy := { c with stks := c.stks.filter (fun k => decide (k ≠ stk)), torn := c.torn || bad }
  let rest := (s.part p).wts.copies.filter fun x => decide (x.layer ≠ c.layer)
  if c1.stks.isEmpty || c1.torn then
    ((s.modWts p fun w => { w with copies := rest }).layerCopied p c1).swapEnd p
  else s.modWts p fun w => { w with copies := rest ++ [c1] }

/-- ROW_COPY_DONE: a copy waits while a sweep is active on its stack; an uncorrectable staged sector ends the copy of its layer. -/
def execRowCopyDone (p layer stk : Nat) (ecc : EccEvent) (s : State) : Host.Outcome State Fault Refusal :=
  .next (match (s.part p).wts.copies.find? fun c => decide (c.layer = layer) && c.stks.contains stk, s.wmapOf p with
    | some c, some m =>
      match m.ents.find? fun e => decide (e.layer = layer ∧ e.stack = stk) with
      | none => s
      | some e =>
        if (s.stack stk).sweeping then s
        else
          let n := 16384 * e.len
          let bad := fun a : Nat => ((((s.markBad a).askTest 1 (a / 16384)).raise p (FInfo.dev 0x0B 2 (marlFields a))).tearAreas m c).stackCopied p c stk true
          let good := fun u : State => (u.wr e.live (u.rd e.stage n)).stackCopied p c stk false
          match ecc, s.badIn e.stage n with
          | .uncorrectable first, _ => bad (e.stage + 32 * first % n)
          | _, some a => bad (a / 32 * 32)
          | .corrected k, none => good ((s.countCe e.stage k).memSoft e.stage n)
          | .clean, none => good (s.memSoft e.stage n)
    | _, _ => s)

/-- SRV_WSWAP_STAT: a write of 0 to STATE returns a failed swap to idle (R427). -/
def execSrvWswapStatClear (acc : Accessor) (p : Nat) (v : BitVec 32) (s : State) : Host.Outcome State Fault Refusal :=
  .next (s.partWrite acc p fun u =>
    if fld v 0 3 = 0 ∧ (u.part p).wts.swst = 4 then u.modWts p fun w => { w with swst := 0 } else u)

end Sys2Proof.Machine
end

