-- ==== Sys2Proof/Machine/Serving.lean ====
section
/-! DEFINITION. The serving engine on the lead (spec/12, spec/13): the commit of a step (R354, R378, R386, R387, R397), the
composition of the next (R361 to R367), the step sequencer's reading of the manifest (R369), the output ring (R379) and the
serving registers (R380, R383). -/

namespace Sys2Proof.Machine

/-! ## Records -/

/-- The words of a record as the host reads it (Table 12.4). -/
def Record.words (r : Record) : List Word :=
  let w := fun i => SMap.get 0 r.img i
  let pt := lohi r.ptick
  [word (r.state + r.cls * 2 ^ 3 + r.dcls * 2 ^ 6 + r.oport * 2 ^ 9 + put1 r.adpen 10 + r.adp * 2 ^ 11 + r.endc * 2 ^ 21), r.tag, word r.aseq,
   word r.pos, word r.plen, word r.maxnew, word r.gen, word r.cap] ++ (List.range 15).map (fun i => w (8 + i)) ++
  [word (r.tmax + r.tcur * 2 ^ 8 + r.zrun * 2 ^ 16 + r.frun * 2 ^ 20)] ++ (List.range 4).map (fun i => w (24 + i)) ++ [r.last] ++ pt ++
  [word r.res] ++ lohi r.panroot ++ List.replicate 30 0

/-- The mirror of a record (Table 13.2). -/
def Record.mirror (r : Record) : List Word :=
  let w := fun i => SMap.get 0 r.img i
  [r.tag, word r.pos, word r.gen, r.last, word (r.state + r.tcur * 2 ^ 8 + put1 r.adpen 15 + r.adp * 2 ^ 16), word r.maxnew] ++
  (List.range 13).map (fun i => w (10 + i)) ++ (List.range 4).map (fun i => w (24 + i)) ++ List.replicate 9 0

/-- Bytes of a step area in the partition's Marl. -/
def State.stepWr (s : State) (p a : Nat) (bs : List Byte) : State := if s.ownedMarl p a bs.length then s.wr a bs else s

def State.mirrorAt (s : State) (p rcd : Nat) : Nat := (s.part p).serv.stepBase.toNat + 0x200000 + 128 * rcd
/-- The whole mirror, at an accepted submit (R384). -/
def State.writeMirror (s : State) (p rcd : Nat) : State := s.stepWr p (s.mirrorAt p rcd) (wordsToBytes (s.record rcd).mirror)
/-- The fields of a mirror that a commit changes: words 1 to 4. -/
def State.renewMirror (s : State) (p rcd : Nat) : State :=
  s.stepWr p (s.mirrorAt p rcd + 4) (wordsToBytes (((s.record rcd).mirror.drop 1).take 4))

/-- What a mirror shows of a record's progress. -/
def Record.shown (r : Record) : List Nat := [r.state, r.pos, r.gen, r.last.toNat, r.tcur]

/-- Rewrite the mirrors of the records that differ from what they were. -/
def State.renewMirrors (s old : State) (p : Nat) : State :=
  s.recs.foldl (fun u kv =>
    if s.owner 4 (kv.1 / 256) = some p ∧ (old.record kv.1).shown ≠ kv.2.shown then u.renewMirror p kv.1 else u) s

/-- A slot's reference count falls by one; a retired slot without references is empty (R400, R401). -/
def LSlot.release (x : LSlot) : LSlot :=
  let n := x.refc - 1
  if x.state = 4 ∧ n = 0 then LSlot.reset else { x with refc := n }
/-- DESIGN CHOICE (log entry 71). -/
def State.dropAdapter (s : State) (rcd : Nat) : State :=
  let r := s.record rcd
  if r.adpen then (s.modRecord rcd fun x => { x with adig := (s.lslot r.adp).dig }).setLslot r.adp (s.lslot r.adp).release else s

/-! ## Results (R386, R387, R397) -/

/-- One output entry: record, index, first, last, end cause, token, log-probability, tag. -/
structure OutEnt where
  rcd : Nat
  idx : Nat
  first : Bool
  last : Bool
  endc : Nat
  tok : Nat
  logp : Nat
  tag : Word
  deriving DecidableEq, Repr

def OutEnt.words (e : OutEnt) : List Word :=
  [word (e.rcd + e.idx * 2 ^ 14 + put1 e.first 21 + put1 e.last 22 + (if e.last then e.endc * 2 ^ 23 else 0)), word e.tok, word e.logp, e.tag]

/-- A summary word and token words (Table 13.3). -/
def sumNemit (w : Nat) : Nat := bits w 0 7
def sumAcc (w : Nat) : Nat := bits w 7 6
def sumFull (w : Nat) : Bool := bit w 13

/-- The first failing check of Table 13.4: 1 STEPLO, 2 reserved fields, 3 a TOKEN, 4 the condition of the KIND; 0 if none. -/
def resultCheck (k : Nat) (e : ManEnt) (w : Nat) (toks : List Nat) : Nat :=
  if bits w 32 32 ≠ k % 2 ^ 32 then 1
  else if bits w 14 18 ≠ 0 ∨ (toks.any fun t => decide (bits t 48 16 ≠ 0)) = true then 2
  else if toks.any fun t => decide (262144 ≤ bits t 0 32) then 3
  else
    let ok := match e.kind with
      | 0 => decide (sumNemit w = 1 ∧ sumAcc w = 0) && !sumFull w
      | 1 => decide (sumNemit w = (if e.endp then 1 else 0) ∧ sumAcc w = 0) && !sumFull w
      | _ => decide (sumAcc w < e.n ∧ sumNemit w = sumAcc w + 1)
    if ok then 0 else 4

/-- The results of an entry: its summary and its token words. -/
structure Result where
  ent : ManEnt
  num : Nat
  sum : Nat
  toks : List Nat
  deriving DecidableEq, Repr

def State.resultOfEntry (s : State) (base m : Nat) (e : ManEnt) : Result × State :=
  let (b1, s1) := s.blockRead (base + 8 * m) 8
  let w := natAt b1 0 8
  let (b2, s2) := if sumNemit w = 0 then ([], s1) else s1.blockRead (base + 0x10000 + 8 * e.off) (8 * sumNemit w)
  ({ ent := e, num := m, sum := w, toks := (List.range (sumNemit w)).map fun i => natAt b2 (8 * i) 8 }, s2)
/-- The results of all the entries of a manifest, in its order, read in service blocks of the step area. -/
def State.resultsOf (s : State) (base : Nat) (es : List ManEnt) : List Result × State :=
  es.zipIdx.foldl (fun (a : List Result × State) x => let q := a.2.resultOfEntry base x.2 x.1; (a.1 ++ [q.1], q.2)) ([], s)

/-- End a request: ENDC, draining, and its last output entry marked. -/
def Record.ends (r : Record) (c : Nat) : Record := { r with state := 5, endc := c, lastOut := true, endPend := none }

/-- Emit the tokens of a result one after the other. -/
def emit (rcd : Nat) : List Nat → Nat → Record → List OutEnt → Record × List OutEnt
  | [], _, r, out => (r, out)
  | t :: ts, i, r, out =>
    let tok := bits t 0 32
    let lp := bits t 32 16
    let r1 := { r with gen := r.gen + 1, last := word tok, outs := r.outs ++ toLE 4 tok ++ toLE 2 lp }
    let stop := (List.range 4).any fun j => SMap.get 0 r.img (24 + j) = word tok
    let c := if stop then 1 else if r.maxnew ≠ 0xFFFFFFFF ∧ r1.gen = r.maxnew then 2 else 0
    let e : OutEnt := { rcd := rcd, idx := i, first := decide (r.gen = 0), last := decide (c ≠ 0), endc := c, tok := tok, logp := lp, tag := r.tag }
    if c ≠ 0 then (r1.ends c, out ++ [e]) else emit rcd ts (i + 1) r1 (out ++ [e])

/-- The governor (R397, Table 13.6): the record, whether TCUR was halved, whether it was doubled. -/
def Record.govern (r : Record) (acc : Nat) (full : Bool) : Record × Bool × Bool :=
  if acc = 0 then
    if r.zrun + 1 = 4 then
      ({ r with zrun := 0, frun := 0, tcur := if 2 ≤ r.tcur / 2 then r.tcur / 2 else 0 }, true, false)
    else ({ r with zrun := r.zrun + 1, frun := 0 }, false, false)
  else if full then
    if r.frun + 1 = 4 then ({ r with zrun := 0, frun := 0, tcur := min r.tmax (2 * r.tcur) }, false, true)
    else ({ r with zrun := 0, frun := r.frun + 1 }, false, false)
  else ({ r with zrun := 0, frun := 0 }, false, false)

/-- The last entry marked as the end with a cause. -/
def markLast (c : Nat) (out : List OutEnt) : List OutEnt :=
  match out.reverse with
  | e :: r => (r.reverse) ++ [{ e with last := true, endc := c }]
  | [] => []

/-- Apply the result of one entry (R387). -/
def State.applyResult (s : State) (p : Nat) (x : Result) : State × List OutEnt :=
  let e := x.ent
  let acc := sumAcc x.sum
  let r0 := s.record e.rcd
  let r1 := { r0 with pos := if e.kind = 1 then e.p0 + e.n else e.p0 + acc + 1 }
  let (r2, out) := emit e.rcd x.toks 0 r1 []
  let (r3, out3) := if r2.state ≠ 5 ∧ 0xFFFFFF00 ≤ r2.pos then (r2.ends 3, markLast 3 out) else (r2, out)
  let live := decide (r3.state ≠ 5)
  let tree := decide (e.kind = 2)
  let (r4, hv, db) := if live && tree then r3.govern acc (sumFull x.sum) else (r3, false, false)
  let r5 := if live && decide (e.kind = 1) && e.endp then { r4 with tcur := if 2 ≤ r4.tmax then r4.tmax else 0, state := 3 } else r4
  let s1 := s.setRecord e.rcd r5
  let s2 := if live then s1 else s1.dropAdapter e.rcd
  let s3 := s2.modServ p fun v =>
    let a := if tree then (v.count .specNodes e.n).count .specAcc acc else v
    let b := if hv then a.count .specHalve 1 else a
    if db then b.count .specDouble 1 else b
  (s3, out3)

/-! ## Output (R378, Table 10.10) -/

def Serv.out (v : Serv) (hp : Nat) : OutPort := SMap.get OutPort.reset v.outs hp
def State.setOut (s : State) (p hp : Nat) (o : OutPort) : State :=
  s.modServ p fun v => { v with outs := SMap.put OutPort.reset v.outs hp o }

/-- 4 MiB of an output queue. -/
def oqSize : Nat := 2 ^ 22
def OutPort.free (o : OutPort) : Nat := oqSize - (o.wrote - o.copied)

/-- Write bytes into an output queue from a stream position on, 64 bytes at a time. -/
def State.oqWrite (s : State) (p base pos : Nat) : Nat → List Byte → State
  | 0, _ => s
  | fuel + 1, bs =>
    if bs.isEmpty then s
    else
      let n := min (min 4096 bs.length) (oqSize - pos % oqSize)
      State.oqWrite (s.svcWrite p (base + pos % oqSize) (bs.take n) none).2 p base (pos + n) fuel (bs.drop n)

/-- An output record (Table 12.10). -/
def outRecord (step tick shape : Nat) (miss : Bool) (es : List OutEnt) : List Byte :=
  let len := 32 + 16 * es.length
  wordsToBytes (lohi step ++ lohi tick ++ [word (len + shape * 2 ^ 24 + put1 miss 28), word es.length, 0, 0] ++ es.flatMap OutEnt.words)

/-- The record of a step for one port; a closed port's is counted. -/
def State.writeOutput (s : State) (p hp step tick shape : Nat) (miss : Bool) (es : List OutEnt) : State :=
  let o := (s.part p).serv.out hp
  if !o.opened then s.servCount p .outSkip 1
  else
    let bs := outRecord step tick shape miss (es.filter fun e => decide ((s.record e.rcd).oport = hp))
    let s1 := s.oqWrite p o.oqBase.toNat o.wrote (bs.length + 1) bs
    s1.setOut p hp { o with wrote := o.wrote + bs.length, ends := o.ends ++ [o.wrote + bs.length] }

/-- After the records of a step a port is open for the next if 2 MiB of its queue are free. -/
def OutPort.reopen (o : OutPort) : OutPort := { o with opened := decide (2 ^ 21 ≤ o.free) }

/-! ## Registers that wait for a commit (R380) -/

def Serv.setReg (v : Serv) (r : ServReg) (x : DWord) : Serv :=
  let w := word x.toNat
  let o := fun hp => SMap.get OutPort.reset v.outs hp
  match r with
  | .tgt n => { v with tgt := SMap.put 0 v.tgt n w.toNat }
  | .cfg => { v with ptmo := fld w 0 20, sz := SMap.put 16 (SMap.put 16 v.sz 0 (fld w 20 5)) 1 (fld w 25 5) }
  | .pgCfg => { v with cshare := fld w 0 4, peerout := fld w 4 7 }
  | .peer n => { v with peers := SMap.put 0xFFFF v.peers n (word (w.toNat % 2 ^ 30 + put1 (flag w 31) 31)) }
  | .oringBase hp => { v with outs := SMap.put OutPort.reset v.outs hp { o hp with ringBase := x } }
  | .oringWpaddr hp => { v with outs := SMap.put OutPort.reset v.outs hp { o hp with wpAddr := x } }
  | .oqBase hp => { v with outs := SMap.put OutPort.reset v.outs hp { o hp with oqBase := x } }
  | .oringRp hp => { v with outs := SMap.put OutPort.reset v.outs hp { o hp with rp := w.toNat } }

def Serv.ringSize (v : Serv) (hp : Nat) : Nat := 2 ^ SMap.get 16 v.sz hp
/-- DEDUCED (log entry 70). -/
def Serv.applyPend (v : Serv) : Serv := { v.pend.foldl (fun u x => u.setReg x.1 x.2) v with pend := [] }

/-- A value lies within its register's range (Tables 12.11 to 12.13, R378, R379). DEDUCED (log entry 70). -/
def State.servRegOk (s : State) (p : Nat) (r : ServReg) (x : DWord) : Bool :=
  let w := word x.toNat
  match r with
  | .tgt n => decide (n < 8)
  | .cfg => decide (16 ≤ fld w 20 5 ∧ fld w 20 5 ≤ 30 ∧ 16 ≤ fld w 25 5 ∧ fld w 25 5 ≤ 30)
  | .pgCfg => decide (1 ≤ fld w 4 7 ∧ fld w 4 7 ≤ 64)
  | .peer n => decide (n < 8)
  | .oringBase hp => decide (hp < 2 ∧ x.toNat % 4096 = 0)
  | .oringWpaddr hp => decide (hp < 2 ∧ x.toNat % 8 = 0)
  | .oqBase hp => decide (hp < 2) && s.ownedMarl p x.toNat oqSize
  | .oringRp hp => decide (hp < 2 ∧ x.toNat < (s.part p).serv.ringSize hp)

/-- SERVING_CONFIG_WRITE: SRV_ORING_RP is the ring's own pointer and moves at once; the others wait for the commit. DEDUCED (log entry 70). -/
def execServingConfigWrite (acc : Accessor) (p : Nat) (r : ServReg) (v : BitVec 64) (s : State) : Host.Outcome State Fault Refusal :=
  .next (s.partWrite acc p fun u =>
    if !u.servRegOk p r v then u.modServ p fun x => { x with cfgRej := true }
    else match r with
      | .oringRp hp => u.modServ p fun x => x.setReg (.oringRp hp) v
      | _ => u.modServ p fun x => { x with pend := x.pend ++ [(r, v)] })

/-- Every record of the partition is idle. -/
def State.recordsIdle (s : State) (p : Nat) : Bool :=
  s.recs.all fun kv => !decide (s.owner 4 (kv.1 / 256) = some p) || decide (kv.2.state = 0)

/-- SRV_STEP_BASE_WRITE (R383). -/
def execSrvStepBaseWrite (acc : Accessor) (p : Nat) (v : BitVec 64) (s : State) : Host.Outcome State Fault Refusal :=
  .next (s.partWrite acc p fun u =>
    if decide (v.toNat % oqSize = 0) && u.ownedMarl p v.toNat oqSize && u.recordsIdle p then
      u.modServ p fun x => { x with stepBase := v }
    else u.modServ p fun x => { x with cfgRej := true })

/-! ## STEP_COMMIT -/

/-- Every accepted cancel becomes an end that waits (R360). -/
def State.takeCancels (s : State) (p : Nat) : State :=
  let s1 := (s.part p).serv.cancels.foldl (fun u r => u.modRecord r fun x =>
    if 1 ≤ x.state ∧ x.state ≤ 4 ∧ x.endPend.isNone = true then { x with endPend := some 4 } else x) s
  s1.modServ p fun v => { v with cancels := [] }

/-- The ends without a token that take effect: those whose port is open (R378). DESIGN CHOICE (log entry 66). -/
def State.silentEnds (s : State) (p : Nat) : State × List OutEnt :=
  let v := (s.part p).serv
  (s.ordered p fun r => r.endPend.isSome && decide (1 ≤ r.state ∧ r.state ≤ 4) && (v.out r.oport).opened).foldl
    (fun (a : State × List OutEnt) rcd =>
      let r := a.1.record rcd
      let c := r.endPend.getD 4
      let e : OutEnt := { rcd := rcd, idx := 0, first := false, last := true, endc := c, tok := 0xFFFFFFFF, logp := 0, tag := r.tag }
      let r1 := { r.ends c with outs := r.outs ++ toLE 4 0xFFFFFFFF ++ toLE 2 0 }
      ((a.1.setRecord rcd r1).dropAdapter rcd, a.2 ++ [e])) (s, [])

/-- Orders of a commit: frees for the draining, and demotions of the paused past PTMO, in the reverse of the order of R361
(R373, R374). -/
def State.commitOrders (s : State) (p tick : Nat) : State :=
  let fr := s.ordered p fun r => decide (r.state = 5) && r.freed.isEmpty
  let s1 := fr.foldl (fun u rcd => if u.orderRoom p && !(u.part p).serv.waits 2 rcd then u.sendOrder p 2 rcd 0 0 else u) s
  let lim := (s.part p).serv.ptmo
  if lim = 0 then s1
  else
    let dm := (s1.ordered p fun r => decide (r.state = 4) && decide (r.res = 0) && decide (r.ptick + 1000 * lim ≤ tick)).reverse
    dm.foldl (fun u rcd =>
      if u.orderRoom p && !(u.part p).serv.waits 3 rcd then
        (u.modRecord rcd fun r => { r with res := 2, demoted := [], promoting := false }).sendOrder p 3 rcd 0 0
      else u) s1

/-- The commit of step `k` at its commit tick on the lead. -/
def State.commitStep (s0 : State) (p k tick : Nat) : State :=
  let v := s0.part p
  let man := v.serv.cur
  let es := (man.map (·.ents)).getD []
  let base := v.serv.stepBase.toNat + 0x100000 * (k % 2)
  let (rs, s) := s0.resultsOf base es
  match rs.find? fun x => decide (resultCheck k x.ent x.sum x.toks ≠ 0) with
  | some x =>
    s.raise p (FInfo.dev 0x17 0 (lohi k ++ [word x.num, word x.ent.rcd, word x.ent.kind, word x.ent.n] ++ lohi x.sum ++
      [word (resultCheck k x.ent x.sum x.toks)]))
  | none =>
    let (s1, out1) := rs.foldl (fun (a : State × List OutEnt) x => let r := a.1.applyResult p x; (r.1, a.2 ++ r.2)) (s, [])
    let (s2, out2) := (s1.takeCancels p).silentEnds p
    let miss := (man.map (·.miss)).getD false
    let s3 := (List.range 2).foldl (fun u hp => u.writeOutput p hp k tick v.run.shape miss (out1 ++ out2)) s2
    let s4 := s3.modServ p fun x =>
      { (x.count .steps 1) with outs := (List.range 2).foldl (fun m hp => SMap.put OutPort.reset m hp (SMap.get OutPort.reset m hp).reopen) x.outs,
                                compose := some tick, seqAt := x.aseq }
    ((s4.renewMirrors s p).commitOrders p tick).swapCommit p k

/-- STEP_COMMIT (R354): at C_k the writes that wait take effect on every member, and the lead commits. -/
def execStepCommit (p : Nat) (s : State) : Host.Outcome State Fault Refusal :=
  .next (let v := s.part p
    let k := v.run.step
    match v.commitAt with
    | none => s
    | some c =>
      if !v.live || decide (s.now < c) || decide (k < v.serv.committed) then s
      else
        let s1 := s.modServ p fun x => { x.applyPend with committed := k + 1 }
        if s.isLead p then s1.commitStep p k c else s1)

/-! ## STEP_COMPOSE -/

/-- T_s of a sweep entry, from the base of its step (R351). -/
def Plan.sweepStart (pl : Plan) (w : SweepEnt) : Nat := (((pl.courses[w.course]?).map (·.start)).getD 0) + w.tstart
/-- The sweep entries of a shape's first swept layer: of those of the head course, which every step runs, and of its templates, the
layer of the one that starts first (R351, R363). DESIGN CHOICE (log entry 69). -/
def Plan.swept (pl : Plan) (h : Shape) : List SweepEnt :=
  let ws := pl.sweeps.filter fun w => decide (w.course = 0 ∨ (h.firstc ≤ w.course ∧ w.course < h.firstc + h.nc))
  let first := ws.foldl (fun (a : Option SweepEnt) w => match a with
    | none => some w
    | some b => if pl.sweepStart w < pl.sweepStart b then some w else a) none
  match first with
  | none => []
  | some f => ws.filter fun w => decide (w.layer = f.layer)

/-- The window charge of an entry: its load by 256 x stack + engine (R211, R363). DESIGN CHOICE (log entry 69). -/
def addLoads (d : ServDesc) (ws : List SweepEnt) (r : Record) (p0 n : Nat) (load : SMap Nat) : SMap Nat :=
  let q := ceilDiv (p0 + n) 64
  ws.foldl (fun m w => (List.range w.hgn).foldl (fun m i =>
    let e0 := (d.stk w.stack).e0 (e0Byte (r.e0.getD 0) w.stack) i
    let cost := pairCost w.elems (w.rm1 + 1) n
    (List.range 256).foldl (fun m e =>
      let c := q / 256 + (if (e + 256 - e0) % 256 < q % 256 then 1 else 0)
      if c = 0 then m else SMap.set m (256 * w.stack + e) (SMap.get 0 m (256 * w.stack + e) + c * cost)) m) m) load

/-- Each reason for which a candidate is held (R361). -/
structure Held where
  pages   : Bool
  out     : Bool
  adapter : Bool
  deriving DecidableEq, Repr
def Held.any (h : Held) : Bool := h.pages || h.out || h.adapter

/-- DESIGN CHOICE (log entry 68). -/
def State.heldFor (s : State) (p : Nat) (r : Record) (p0 n : Nat) : Held :=
  { pages := decide (r.res ≠ 0 ∨ r.cap < p0 + max 1 n), out := !((s.part p).serv.out r.oport).opened,
    adapter := r.adpen && !(s.lslot r.adp).good }

/-- A pass in progress (R362). -/
structure Pass where
  ents  : List ManEnt
  tok   : Nat
  lanes : Nat
  load  : SMap Nat
  stop  : Bool
  heldPages : Nat
  heldOut : Nat
  deriving DecidableEq, Repr

/-- One candidate. DESIGN CHOICE (log entry 68). -/
def State.passOne (s : State) (p : Nat) (pl : Plan) (d : ServDesc) (h : Shape) (a : Pass) (rcd : Nat) : Pass :=
  if a.stop then a
  else
    let r := s.record rcd
    let prompt := decide (r.pos < r.plen)
    let p0 := r.pos
    let n0 := if prompt then min (min (r.plen - p0) (r.cap - p0)) (h.tb - a.tok) else max 1 r.tcur
    let big := prompt && decide (64 < n0)
    let lane := big && decide (a.lanes < h.lanes) && decide (ceilDiv (p0 + n0) 64 ≤ h.lctx)
    let n := if lane then min n0 h.cmax else if big then 64 else n0
    let a1 := if lane then { a with lanes := a.lanes + 1 } else a
    let held := s.heldFor p r p0 n
    if held.any then
      { a1 with heldPages := a1.heldPages + (if held.pages then 1 else 0), heldOut := a1.heldOut + (if held.out then 1 else 0) }
    else
      let load := if lane then a1.load else addLoads d (pl.swept h) r p0 n a1.load
      if n < 1 ∨ h.tb < a1.tok + n ∨ a1.ents.length = h.maxent then { a1 with stop := true }
      else if !lane && load.any fun x => decide (h.win < x.2) then { a1 with stop := true }
      else
        let e : ManEnt := { rcd := rcd, kind := if prompt then 1 else if 2 ≤ r.tcur then 2 else 0, lane := if lane then a.lanes else 0x1F,
                            adpen := r.adpen, adp := r.adp, n := n, off := a1.tok, p0 := p0, endp := prompt && decide (p0 + n = r.plen) }
        { a1 with ents := a1.ents ++ [e], tok := a1.tok + n, load := load }

/-- A whole pass against a shape. -/
def State.pass (s : State) (p : Nat) (pl : Plan) (d : ServDesc) (h : Shape) : Pass :=
  let z : Pass := { ents := [], tok := 0, lanes := 0, load := [], stop := false, heldPages := 0, heldOut := 0 }
  (s.ordered p fun r => decide (1 ≤ r.state ∧ r.state ≤ 4)).foldl (fun a r => s.passOne p pl d h a r) z

/-- A shape admits a manifest (R365). -/
def State.admits (s : State) (pl : Plan) (d : ServDesc) (h : Shape) (es : List ManEnt) : Bool :=
  let lanes := es.filter fun e => decide (e.lane ≠ 0x1F)
  let load := (es.filter fun e => decide (e.lane = 0x1F)).foldl (fun m e => addLoads d (pl.swept h) (s.record e.rcd) e.p0 e.n m) []
  decide (Manifest.ntokOf es ≤ h.tb) && (load.all fun x => decide (x.2 ≤ h.win)) && decide (lanes.length ≤ h.lanes) &&
    (lanes.all fun e => decide (e.n ≤ h.cmax ∧ ceilDiv (e.p0 + e.n) 64 ≤ h.lctx)) && decide (es.length ≤ h.maxent)

/-- The shape of largest DUR among some, the lower index of two alike; and the one of least DUR. -/
def bestShape (better : Nat → Nat → Bool) (shs : List (Shape × Nat)) : Option (Shape × Nat) :=
  shs.foldl (fun (a : Option (Shape × Nat)) h => match a with
    | none => some h
    | some b => if better h.1.dur b.1.dur then some h else a) none

def Serv.target (v : Serv) (r : Record) : Nat := SMap.get 0 v.tgt r.dcls

/-- Tmin (R364); none where it is unbounded. -/
def State.tmin (s : State) (p : Nat) : Option Nat :=
  let v := (s.part p).serv
  ((s.ordered p fun r => decide (r.state = 2 ∨ r.state = 3)).map fun r => v.target (s.record r)).foldl
    (fun (a : Option Nat) t => if t = 0 then a else match a with
      | none => some t
      | some m => some (min m t)) none

/-- Pause the requests that only a longer step would serve (R364). -/
def State.pauses (s : State) (p tick : Nat) (tm : Nat) (m m2 : List ManEnt) : State :=
  let v := (s.part p).serv
  let act := s.ordered p fun r => decide (r.state = 2 ∨ r.state = 3)
  let cs := ((act.filter fun r => decide (v.target (s.record r) = tm)).map fun r => (s.record r).cls).foldl (fun a c => min a c) 8
  let hit := act.filter fun r => (m2.any fun e => decide (e.rcd = r)) && !(m.any fun e => decide (e.rcd = r)) && decide (cs < (s.record r).cls)
  hit.foldl (fun u r => (u.modRecord r fun x => { x with state := 4, ptick := tick }).servCount p .pauses 1) s

/-- A request that a manifest places changes state (Table 12.5). -/
def Record.placed (r : Record) : Record :=
  if r.state = 1 then { r with state := 2 }
  else if r.state = 4 then { r with state := if r.pos < r.plen then 2 else 3, ptick := 0 }
  else r
def State.placeAll (s : State) (p : Nat) (es : List ManEnt) : State :=
  es.foldl (fun u e =>
    let back := decide ((u.record e.rcd).state = 4)
    let u1 := u.modRecord e.rcd Record.placed
    if back then u1.servCount p .resumes 1 else u1) s

/-- Compose the manifest of step `k + 1` (R364, R365). DESIGN CHOICE (log entry 68). -/
def State.composeStep (s : State) (p tick : Nat) (pl : Plan) (d : ServDesc) : State :=
  let k := (s.part p).run.step
  let shs := pl.shapes.zipIdx
  let more := fun a b : Nat => decide (b < a)
  let less := fun a b : Nat => decide (a < b)
  let tm := s.tmin p
  let fit_ := match tm with
    | none => shs
    | some t => shs.filter fun h => decide (h.1.dur ≤ t)
  match bestShape more shs, bestShape less shs with
  | some full, some least =>
    let top := (bestShape more fit_).getD least
    let miss := fit_.isEmpty
    let m := s.pass p pl d top.1
    let s1 := s.modServ p fun v =>
      let a := (v.count .heldPages m.heldPages).count .outHold m.heldOut
      if miss then a.count .tgtMiss 1 else a
    let s2 := match tm with
      | some t => if top.2 = full.2 then s1 else s1.pauses p tick t m.ents (s.pass p pl d full.1).ents
      | none => s1
    let s3 := s2.placeAll p m.ents
    let shape := if m.ents.isEmpty then least.2
      else ((bestShape less (shs.filter fun h => s.admits pl d h.1 m.ents)).map (·.2)).getD top.2
    let man : Manifest := { step := k + 1, shape := shape, miss := miss, ntok := m.tok, ents := m.ents }
    let s4 := s3.renewMirrors s p
    (s4.wr (loftAddr d.mtile 0xE0000) man.bytes).modServ p fun v => { v with next := some man, compose := none }
  | _, _ => s

/-- STEP_COMPOSE (R366): once, after the commit of the step in progress. -/
def execStepCompose (p : Nat) (s : State) : Host.Outcome State Fault Refusal :=
  .next (let v := s.part p
    match v.serv.compose, v.plan, s.servDesc p with
    | some tick, some pl, some d => if v.live then s.composeStep p tick pl d else s
    | _, _, _ => s)

/-! ## MANIFEST_READ (R369, R382, R437) -/

/-- The manifest's head is at hand on the manifest tile: the last plan beat of the head course. -/
def State.manDue (s : State) (p : Nat) (d : ServDesc) : Bool :=
  let v := s.part p
  let m := (s.tile d.mtile).tim
  match v.courseAt v.run.head with
  | some c => v.live && !v.run.manRead && decide (m.course = v.run.head + 1) && decide (c.len ≤ m.beat)
  | none => false

/-- The weight-set chain of a request at the step that its manifest serves (R437). DESIGN CHOICE (log entry 71). -/
def Record.served (r : Record) (k gen : Nat) (ws : BitVec 256) : Record :=
  match r.wgen with
  | none => { r with wacc := ws, wgen := some gen, fstep := k, lstep := k }
  | some g =>
    if g = gen then { r with lstep := k }
    else { r with wacc := dig256 (toLE 32 r.wacc.toNat ++ toLE 8 k ++ toLE 32 ws.toNat), wmix := true, wgen := some gen, lstep := k }

/-- WSDIG of the generation of a step. -/
def Weights.wsdigOf (w : Weights) (k : Nat) : BitVec 256 := if w.mgen ≠ 0 ∧ w.mstep ≤ k then w.wsdigS else w.wsdig

/-- DESIGN CHOICE (log entry 71). -/
def State.serveAll (s : State) (p : Nat) : State :=
  let v := s.part p
  let k := v.run.step
  ((v.serv.cur.map (·.ents)).getD []).foldl (fun u e => u.modRecord e.rcd fun r => r.served k (v.wts.swg k) (v.wts.wsdigOf k)) s

/-- The courses of a shape join the run. -/
def Part.openShape (v : Part) (pl : Plan) (i : Nat) (h : Shape) : Part :=
  { v with run := { v.run with shape := i, manRead := true, inst := v.run.inst ++ pl.shapeCourses h (v.run.head + 1) v.run.base } }

/-- The digest of a manifest of 64 KiB that a step records (Table 15.5). -/
def Part.noteManifest (v : Part) (bs : List Byte) : Part :=
  if bs.isEmpty then v else { v with aud := { v.aud with mans := SMap.set v.aud.mans v.run.step (digest128 bs) } }

/-- Step with shape `i` begins its courses; `man` is its manifest. -/
def State.openStep (s : State) (p : Nat) (pl : Plan) (i : Nat) (man : List Byte) : State :=
  match pl.shapes[i]? with
  | none => s
  | some h =>
    let s1 := s.setPart p (((s.part p).openShape pl i h).noteManifest man)
    if s.isLead p then s1.serveAll p else s1

/-- The epoch of the head course's landings, with bit 7 the parity of the step (R353, R369). DESIGN CHOICE (log entry 72). -/
def headTag (k : Nat) : Nat := Config.headEpoch % 128 + 128 * (k % 2)

/-- Where the step sequencer reads the manifest: the Loft copy on the lead, and the Landing on a member. -/
def State.manifestAt (s : State) (p : Nat) (d : ServDesc) : Nat := loftAddr d.mtile (if s.isLead p then 0xE0000 else 0xF0000)

/-- MANIFEST_READ: in step 0 as in every other step (R352, R369). DESIGN CHOICE (log entry 72). -/
def execManifestRead (p : Nat) (s0 : State) : Host.Outcome State Fault Refusal :=
  .next (match (s0.part p).plan, s0.servDesc p with
    | some pl, some d =>
      let k := (s0.part p).run.step
      if !s0.manDue p d then s0
      else
        let t := d.mtile
        let s := s0.landView t
        let bs := s.rd (s.manifestAt p d) 16
        let tag := (SMap.get 0 (s.tile t).tags 0).toNat
        if !s.isLead p && decide (tag ≠ headTag k) then
          s.raise p { FInfo.dev 0x03 0 [0, word (headTag k), word tag, 6] with course := some (s.part p).run.head, tile := some t }
        else if natAt bs 0 8 ≠ k ∨ d.shm1 < bits (natAt bs 8 4) 0 4 then
          s.raise p (FInfo.dev 0x16 0 (lohi k ++ lohi (natAt bs 0 8) ++ [word (bits (natAt bs 8 4) 0 4)]))
        else s.openStep p pl (bits (natAt bs 8 4) 0 4) (s.rd (s.manifestAt p d) 65536)
    | _, _ => s0)

/-! ## OUTPUT_RING_COPY (R379) -/

/-- Write bytes into a ring of host memory, wrapping byte-wise. -/
def State.ringWr (s : State) (base size off : Nat) (bs : List Byte) : State :=
  let k := min bs.length (size - off % size)
  (s.hostWr (base + off % size) (bs.take k)).hostWr base (bs.drop k)

/-- The bytes that the next piece of the stream takes: to the next multiple of 4 KiB, or to the end of a record. -/
def OutPort.pieceLen (o : OutPort) : Nat :=
  let to4k := 4096 - o.copied % 4096
  match o.ends.head? with
  | some e => min to4k (e - o.copied)
  | none => 0

/-- OUTPUT_RING_COPY: one such piece, once the ring has room for it; then WP, WPADDR and the interrupt. -/
def execOutputRingCopy (p hp : Nat) (s : State) : Host.Outcome State Fault Refusal :=
  .next (let v := (s.part p).serv
    let o := v.out hp
    let size := v.ringSize hp
    let n := o.pieceLen
    let room := (o.rp + 2 * size - o.wp - 1) % size
    if 2 ≤ hp ∨ n = 0 ∨ room < n ∨ (s.hport hp).up = false then s
    else
      let q := o.oqBase.toNat
      let k := min n (oqSize - o.copied % oqSize)
      let (b1, u1) := s.blockRead (q + o.copied % oqSize) k
      let (b2, u2) := if k < n then u1.blockRead q (n - k) else ([], u1)
      let bs := b1 ++ b2
      let wp := (o.wp + n) % size
      let s1 := (u2.ringWr o.ringBase.toNat size o.wp bs).hostWr o.wpAddr.toNat (toLE 8 wp)
      let o1 := { o with wp := wp, copied := o.copied + n, ends := o.ends.filter fun e => decide (o.copied + n < e) }
      (s1.setOut p hp o1).irq hp (p + 1) 1)

end Sys2Proof.Machine
end

