-- ==== Sys2Proof/Machine/Audit.lean ====
section
/-! DEFINITION. Audit (spec/15): the close of a step's layer digests (R440), the digest log (R441), the twin registers (R442), and
twin comparison (R443, R444, R511). -/

namespace Sys2Proof.Machine

def State.modAud (s : State) (p : Nat) (f : Audit → Audit) : State := s.modPart p fun v => { v with aud := f v.aud }

/-! ## The log (Table 15.5, R441) -/

/-- The words of a record. -/
def DigRec.words (r : DigRec) : List Word :=
  lohi r.step ++ [word (r.layer + r.kind * 2 ^ 12 + r.tile * 2 ^ 14 + put1 r.wev 22), word r.count] ++ lohi r.dig.toNat ++ lohi (r.dig.toNat / 2 ^ 64)

/-- Slots of the log. -/
def Audit.slots (a : Audit) : Nat := 2 ^ a.lsz / 32

/-- What a pair is keyed by (R443). -/
def DigRec.key (r : DigRec) : Nat × Nat × Nat := (r.step, r.kind, r.layer)

/-- Own records that the log has overwritten are no longer there to be compared (R443). -/
def Audit.forget (a : Audit) : Audit :=
  { a with own := a.own.filter (fun x => decide (a.wp < x.1 + a.slots)),
           lostOwn := a.lostOwn ++ (a.own.filter fun x => decide (x.1 + a.slots ≤ a.wp)).map fun x => x.2.key }

/-- An own record is there to be compared; one whose partner has been overwritten is counted instead (R443). -/
def State.ownRecord (s : State) (p n : Nat) (r : DigRec) : State :=
  if (s.part p).aud.lostPeer.contains r.key then
    (s.servCount p .twUnpaired 1).modAud p fun x => { x with lostPeer := x.lostPeer.erase r.key }
  else s.modAud p fun x => { x with own := x.own ++ [(n, r)] }

/-- A record joins the log, and goes to the twin unless it is a tile record (R442). DESIGN CHOICE (log entry 75). -/
def State.logRecord (s : State) (p : Nat) (r : DigRec) : State :=
  let a := (s.part p).aud
  let n := a.wp
  let s1 := (s.svcWrite p (a.base.toNat + 32 * (n % a.slots)) (wordsToBytes r.words) none).2
  let s2 := s1.modAud p fun x => { x with wp := (n + 1) % 2 ^ 32 }
  if r.kind = 1 ∨ a.twen = false ∨ a.twin = 0xFFFF then s2
  else
    let s4 := (s2.ownRecord p n r).modAud p Audit.forget
    (s4.modAud p fun x => { x with sent := x.sent + 1 }).sendMsg p a.twin (a.twBase.toNat + 64 * (a.sent % 16384)) false
      (r.words ++ List.replicate 8 0)

/-! ## Twin comparison (R443, R444, R511) -/

/-- A twin divergence: a record of class 0x1C, and with TWHALT a fault of the job. DESIGN CHOICE (log entry 75). -/
def State.diverge (s : State) (p step layer : Nat) (a b : Option DigRec) : State :=
  let v := s.part p
  let f := FInfo.dev 0x1C 0 ([word v.aud.twin, 0] ++ lohi step ++ [word layer, 0] ++ lohi ((a.map (·.dig.toNat)).getD 0))
  let s1 := s.servCount p .twDiv 1
  let _ := b
  if v.flt.twhalt then s1.raise p f
  else s1.writeRecord p (s1.recordWords p 0 (if v.running then v.launch.lid else 0) f)

/-- Compare one layer of a step. -/
def State.compareLayer (s : State) (p step : Nat) (own peer : List DigRec) (l : Nat) : State :=
  let a := own.find? fun r => decide (r.layer = l)
  let b := peer.find? fun r => decide (r.layer = l)
  match a, b with
  | some x, some y => if x.dig = y.dig ∧ x.count = y.count then s.servCount p .twMatch 1 else s.diverge p step l a b
  | none, none => s
  | _, _ => s.diverge p step l a b

/-- Both step records of a step are there: its comparison. -/
def State.compareStep (s : State) (p step : Nat) : State :=
  let a := (s.part p).aud
  let mine := (a.own.filter fun x => decide (x.2.step = step)).map (·.2)
  let his := (a.peer.filter fun x => decide (x.2.step = step)).map (·.2)
  match mine.find? (fun r => decide (r.kind = 2)), his.find? (fun r => decide (r.kind = 2)) with
  | some x, some y =>
    let s1 := s.modAud p fun u => { u with own := u.own.filter (fun r => decide (r.2.step ≠ step)), peer := u.peer.filter fun r => decide (r.2.step ≠ step) }
    if x.dig ≠ y.dig then s1.servCount p .twMandiff 1
    else
      let ml := mine.filter fun r => decide (r.kind = 0)
      let hl := his.filter fun r => decide (r.kind = 0)
      (List.range 4096).foldl (fun u l => u.compareLayer p step ml hl l) s1
  | _, _ => s

/-- Compare every step whose two step records are there. DESIGN CHOICE (log entry 75). -/
def State.compareAll (s : State) (p : Nat) : State :=
  let steps := ((s.part p).aud.peer.filter fun x => decide (x.2.kind = 2)).map (·.2.step)
  steps.foldl (fun u k => u.compareStep p k) s

/-- TWIN_RECORD_RECEIVE: the record takes its inbox slot. One whose partner the log has overwritten is counted and not kept (R443). -/
def execTwinRecordReceive (p : Nat) (s : State) : Host.Outcome State Fault Refusal :=
  .next (let a := (s.part p).aud
    match a.peerIn with
    | [] => s
    | r :: rest =>
      let n := a.rcvd
      let gone := (a.peer.filter fun x => decide (x.1 + 16384 ≤ n)).map fun x => x.2.key
      let late := a.lostOwn.contains r.key
      let kept := a.peer.filter fun x => decide (n < x.1 + 16384)
      let s1 := (s.servCount p .twUnpaired (if late then 1 else 0)).modAud p fun u =>
        { u with peerIn := rest, rcvd := n + 1, lostOwn := u.lostOwn.erase r.key, lostPeer := u.lostPeer ++ gone,
                 peer := if late then kept else kept ++ [(n, r)] }
      s1.compareAll p)

/-! ## LAYER_DIGEST_CLOSE (R434, R440) -/

/-- The next step to close is over: B_{k+1} has come, or a plan without steps has completed. -/
def Part.closeDue (v : Part) (now : Nat) : Bool :=
  match v.plan with
  | none => false
  | some pl =>
    if pl.serv.isNone then v.run.spent && decide (v.launch.st = .complete ∧ v.aud.closed = 0)
    else decide (v.aud.closed < v.run.step) ||
      (v.live && decide (v.aud.closed = v.run.step) && v.nextBase.any fun b => decide (b ≤ now))

/-- Layers that received chunks in step `k`. -/
def layersOf (k : Nat) (ts : List Tile) : List Nat :=
  (List.range 4096).filter fun l => ts.any fun v => decide (SMap.get 0 v.digCnt (digKey k l) ≠ 0)

/-- The records of a step, in order: layers, each with its tiles, and the step. -/
def State.closeRecords (s : State) (p k : Nat) : List DigRec :=
  let a := (s.part p).aud
  let ts := s.tilesOf p
  let ls := layersOf k (ts.map s.tile)
  let z : DigRec := { step := k, layer := 0, kind := 0, tile := 0, wev := false, count := 0, dig := 0 }
  let one := fun l : Nat =>
    let sum := ts.foldl (fun (x : BitVec 128 × Nat) t =>
      (x.1 + SMap.get 0 (s.tile t).digSum (digKey k l), x.2 + SMap.get 0 (s.tile t).digCnt (digKey k l))) (0, 0)
    { z with layer := l, count := sum.2, dig := sum.1 } ::
      (if a.trec then ((ts.filter fun t => decide (SMap.get 0 (s.tile t).digCnt (digKey k l) ≠ 0)).map fun t =>
        { z with layer := l, kind := 1, tile := t, count := SMap.get 0 (s.tile t).digCnt (digKey k l), dig := SMap.get 0 (s.tile t).digSum (digKey k l) })
       else [])
  ls.flatMap one ++ [{ z with kind := 2, wev := a.wev.contains k, count := ls.length, dig := SMap.get 0 a.mans k }]

/-- Partials of later steps than `k`. -/
def laterSteps {α : Type} (k : Nat) (m : SMap α) : SMap α := m.filter fun x => decide (4096 * (k + 1) ≤ x.1)

/-- Close a step: its partials are cleared, and the step that has begun since keeps its own. -/
def State.closeStep (s : State) (p k : Nat) : State :=
  let a := (s.part p).aud
  let s1 := if a.en then (s.closeRecords p k).foldl (fun u r => u.logRecord p r) s else s
  let s2 := (s.tilesOf p).foldl (fun u t => u.modTile t fun v => { v with digSum := laterSteps k v.digSum, digCnt := laterSteps k v.digCnt }) s1
  let s3 := if a.wev.contains k then s2.servCount p .wevSteps 1 else s2
  (s3.modAud p fun x => { x with wev := x.wev.filter (fun j => decide (k < j)), closed := k + 1, mans := SMap.erase x.mans k }).compareAll p

/-- LAYER_DIGEST_CLOSE. -/
def execLayerDigestClose (p : Nat) (s0 : State) : Host.Outcome State Fault Refusal :=
  .next (let s := s0.stepAdvance p
    if (s.part p).closeDue s.now then s.closeStep p (s.part p).aud.closed else s)

/-- SRV_TWIN and SRV_TWIN_BASE: ignored while a plan of the partition is loaded (R442). -/
def execSrvTwinWrite (acc : Accessor) (p : Nat) (base : Bool) (v : BitVec 64) (s : State) : Host.Outcome State Fault Refusal :=
  .next (s.partWrite acc p fun u =>
    if (u.part p).plan.isSome then u
    else if base then
      if decide (v.toNat % 2 ^ 20 = 0) && u.ownedMarl p v.toNat (2 ^ 20) then u.modAud p fun a => { a with twBase := v } else u
    else u.modAud p fun a => { a with twin := v.toNat % 2 ^ 16 })

end Sys2Proof.Machine
end

