-- ==== Sys2Proof/Machine/Recovery.lean ====
section
/-! DEFINITION. What follows a fault (spec/18): notices, halt reports and the job summary (R502 to R504), hang records (R505),
targeted self-tests and retirement (R508, R509). -/

namespace Sys2Proof.Machine

def State.modFlt (s : State) (p : Nat) (f : Faults → Faults) : State := s.modPart p fun v => { v with flt := f v.flt }

/-- FAULT_NOTICE_RECEIVE. -/
def execFaultNoticeReceive (p : Nat) (s : State) : Host.Outcome State Fault Refusal :=
  .next (match (s.part p).flt.notes with
    | [] => s
    | n :: r => (s.modFlt p fun f => { f with notes := r }).takeNotice p n)

/-! ## Halt reports (R504, Table 18.3) -/

def sat16 (n : Nat) : Nat := satAdd 16 n 1
/-- Classes marked consequential in Table 18.1. -/
def consequential (cls : Nat) : Bool := decide (cls = 0x03 ∨ cls = 0x13 ∨ cls = 0x14)

/-- A primary that is not the earliest. -/
def JobSum.other (j : JobSum) (cls : Nat) : JobSum :=
  if consequential cls then { j with nsec := sat16 j.nsec } else { j with ncop := sat16 j.ncop }

/-- The job summary with one report more. DESIGN CHOICE (log entry 78). -/
def JobSum.take (j0 : JobSum) (ws : List Word) : JobSum :=
  let j := { j0 with nrep := sat16 j0.nrep }
  let cls := fld (wd ws 0) 0 8
  let cause := fld (wd ws 0) 8 8
  let dev := fld (wd ws 1) 0 16
  let tick := wd64 ws 2
  match fld (wd ws 0) 16 2 with
  | 0 =>
    let mine := { j with pdev := dev, pclass := cls, pcause := cause, ptick := tick }
    if j.pdev = 0xFFFF then mine
    else if tick < j.ptick ∨ (tick = j.ptick ∧ dev < j.pdev) then mine.other j.pclass
    else j.other cls
  | 1 => { j with nsec := sat16 j.nsec }
  | 2 => { j with nrel := sat16 j.nrel }
  | _ => j

/-- A report of the epoch that the summary names. DESIGN CHOICE (log entry 78). -/
def State.countReport (s : State) (p : Nat) (ws : List Word) : State :=
  s.modFlt p fun f => if fld (wd ws 1) 16 16 = f.sum.lid then { f with sum := f.sum.take ws } else f

/-- HALT_REPORT_SEND: the first record of the job, or the relay record, goes to the root; the root counts its own. DESIGN CHOICE (log entry 78). -/
def execHaltReportSend (p : Nat) (s : State) : Host.Outcome State Fault Refusal :=
  .next (let v := s.part p
    match v.flt.first, v.plan with
    | some ws, some pl =>
      if !v.run.halted || v.flt.reported then s
      else
        let s1 := s.modFlt p fun f => { f with reported := true }
        if v.launch.root = s.me then s1.countReport p ws
        else if pl.ndev ≤ 1 then s1
        else s1.sendMsg p v.launch.root (pl.collbase + 64 * (s.me % 4096)) false ws
    | _, _ => s)

/-- HALT_REPORT_RECEIVE. -/
def execHaltReportReceive (p : Nat) (s : State) : Host.Outcome State Fault Refusal :=
  .next (match (s.part p).flt.repIn with
    | [] => s
    | ws :: r => (s.modFlt p fun f => { f with repIn := r }).countReport p ws)

/-! ## Hang records (R505, Table 18.5) -/

def padWords (n : Nat) (ws : List Word) : List Byte := fit (4 * n) (wordsToBytes ws)

/-- A tile: its number, plan beat, S, TIL_FE_STAT, the addresses and the first words of the queue heads, and its counters.
DESIGN CHOICE (log entry 79). -/
def State.hangTile (s : State) (t : Nat) : List Byte :=
  let v := s.tile t
  let hs := allQueues.map fun q => (v.queue q).ents.head?
  padWords 32 ([word t, word v.tim.beat, word v.tim.s, v.feStatReg] ++ (hs.flatMap fun h => lohi ((h.map (·.iaddr)).getD 0)) ++
    (hs.map fun h => (h.map (·.w0)).getD 0) ++ (List.range 8).map fun j => v.cntOf j)

/-- A Rafter barrier: UPW, GENW, E, children recorded, ARR of the first waiting tile. DESIGN CHOICE (log entry 79). -/
def State.hangRafter (s : State) (p b : Nat) : List Byte :=
  match s.rafterEnt p b with
  | none => zeros 32
  | some e =>
    let w := (s.tilesOf p).find? fun t => (s.tile t).wait.any fun w => decide (w.kind = .rwait ∧ w.addr = b)
    let arr := (w.map fun t => SMap.get 0 (s.tile t).arr b).getD 0
    padWords 8 (lohi (s.rdW e.upw).toNat ++ lohi (s.rdW e.genw).toNat ++ [word (e.loc + e.nch), word (SMap.get [] (s.part p).kids b).length, word arr])

/-- A stack: PAN_SWP_STAT, the start of its sweep, and its engines not finished, which the model does not follow. -/
def Stack.swpStat (v : Stack) : Word := word (put1 (v.sweep.any fun w => !w.fin) 0 + v.sid * 2 ^ 16)
/-- DESIGN CHOICE (log entry 79). -/
def State.hangStack (s : State) (p k : Nat) : List Byte :=
  let v := s.stack k
  match v.sweep with
  | some w => if w.part = p then padWords 16 ([v.swpStat, 0] ++ lohi w.ts ++ lohi (Config.freeWord (s.free + k)).toNat) else zeros 64
  | none => if s.owner 1 (48 * k) = some p then padWords 16 [v.swpStat] else zeros 64

/-- Up to 64 staged departures of a port: DEP and the departure tick. DESIGN CHOICE (log entry 79). -/
def State.hangPort (s : State) (p n : Nat) : List Byte :=
  fit 512 (((s.port n).tx.dbuf.filter fun d => decide (d.part = p)).flatMap fun d => toLE 2 d.dep ++ toLE 6 d.due)

/-- The serving state. DESIGN CHOICE (log entry 79). -/
def State.hangServ (s : State) (p : Nat) : List Byte :=
  let v := s.part p
  padWords 256 (lohi v.run.step ++ [word v.run.shape, 0] ++ lohi (v.commitAt.getD 0) ++ [word (put1 v.serv.compose.isSome 0), word v.wts.swst] ++
    v.serv.unconf.flatMap fun o => [word o.1, word (o.2.op + o.2.rcd * 2 ^ 8), word o.2.arg, word o.2.oseq])

/-- The last 64 fault records. -/
def State.hangLog (s : State) (p : Nat) : List Byte :=
  let f := (s.part p).flt
  let n := min 64 f.wp
  fit 4096 ((List.range n).flatMap fun i => padWords 16 (SMap.get [] f.log ((f.wp - n + i) % 256)))

/-- The hang record of a partition. DESIGN CHOICE (log entry 79). -/
def State.hangRecord (s : State) (p : Nat) : List Byte :=
  let v := s.part p
  let ts := s.tilesOf p
  let len := 14720 + 128 * ts.length
  let first := v.flt.first.getD []
  padWords 64 ([word s.me, word p, word v.launch.lid, 0] ++ lohi v.run.haltAt ++ [word (fld (wd first 0) 0 8), word (fld (wd first 0) 8 8),
    word (v.run.course - 1), 0] ++ lohi v.run.step ++ [word ts.length, word len]) ++
  ts.flatMap s.hangTile ++ (List.range 16).flatMap (s.hangRafter p) ++
  (List.range 8).flatMap (fun m => padWords 4 (lohi (SMap.get 0 v.arrived m).toNat ++ [word (SMap.get 0 v.ph m)])) ++
  (List.range 8).flatMap (s.hangStack p) ++ (List.range 16).flatMap (s.hangPort p) ++ s.hangServ p ++ s.hangLog p

/-- Collect the hang record of a halt. -/
def State.collectHang (s : State) (p : Nat) : State :=
  if (s.part p).flt.hangDue then
    let h := s.hangRecord p
    ({ s with free := s.free + 8 }).modFlt p fun f => { f with hang := some h, hangDue := false }
  else s

/-- HANG_RECORD_COLLECT. -/
def execHangRecordCollect (p : Nat) (s : State) : Host.Outcome State Fault Refusal := .next (s.collectHang p)

/-! ## Targeted self-tests (R508, Table 18.7) and retirement (R509) -/

/-- Enter a unit in the retirement list; a list that cannot hold it takes the device to no grade. DESIGN CHOICE (log entry 81). -/
def State.retire (s : State) (kind idx : Nat) : State :=
  s.modHrt fun h =>
    if h.retired.contains (kind, idx) then h
    else if 256 ≤ h.retired.length then { h with full := true }
    else { h with retired := h.retired ++ [(kind, idx)], full := h.full || decide (h.retired.length = 255) }

/-- Physical index of a logical stack. -/
def State.physStack (s : State) (k : Nat) : Nat := s.hrt.id.stks.getD k 0
def State.physPort (s : State) (n : Nat) : Nat := s.hrt.id.ports.getD n 0

/-- Spares of a resource: how many there are, and the key under which those used are counted. -/
def spareOf (kind idx : Nat) : Option (Nat × Nat) :=
  match kind with
  | 0 => some (4, idx / 128)
  | 1 => some (2, 2 ^ 48 + (16384 * idx / stackSize) * 4096 + chanOf (16384 * idx % stackSize) * 256 + dieOf (16384 * idx % stackSize) * 16 +
      bankOf (16384 * idx % stackSize))
  | 2 => some (2, 2 ^ 49 + idx)
  | _ => none

/-- The unit retired when no spare is left. DESIGN CHOICE (log entry 80). -/
def State.retireFor (s : State) (kind idx : Nat) : State :=
  match kind with
  | 0 => s.retire 0 (s.physTile (idx / 2048))
  | 1 => s.retire 5 (48 * s.physStack (16384 * idx / stackSize) + (16384 * idx % stackSize) / 2 ^ 30)
  | 2 => s.retire 2 (s.physStack (idx / 16))
  | 3 => s.retire 6 idx
  | 4 => s.retire 4 idx
  | 5 => s.retire 0 (s.physTile idx)
  | 6 => s.retire 2 (s.physStack idx)
  | _ => s.retire 3 (s.physPort idx)

/-- A failed test: a spare is taken, or the unit is retired. DESIGN CHOICE (log entry 80). -/
def State.repair (s : State) (kind idx : Nat) : State :=
  match spareOf kind idx with
  | some (n, key) =>
    let used := SMap.get 0 s.dev.spares key
    if used < n then s.modDev fun d => { d with spares := SMap.put 0 d.spares key (used + 1) } else s.retireFor kind idx
  | none => s.retireFor kind idx

/-- The tile is in the maintenance beats of a course that has enough of them, or nothing runs on it (R508). -/
def State.testBeats (s : State) (t need : Nat) : Bool :=
  match s.owner 0 t with
  | some p => if s.running p then s.inMaint t && (s.courseOf t).any fun c => decide (need ≤ c.maint) else true
  | none => true

/-- A running partition is in a course boundary hold: its tiles have completed their courses and none has begun the next. -/
def State.boundaryHold (s : State) : Bool :=
  s.parts.any fun kv => kv.2.live && (s.tilesOf kv.1).all fun t => !s.notDone t

/-- The time that Table 18.7 gives a test has come. DESIGN CHOICE (log entry 80). -/
def State.testTime (s : State) (kind idx : Nat) : Bool :=
  match kind with
  | 0 => s.testBeats (idx / 2048) 8
  | 1 => !s.anyRunning || inWindow s.frameNow (chanOf (16384 * idx % stackSize))
  | 2 => !s.anyRunning || inWindow s.frameNow (idx % 16)
  | 4 => !s.anyRunning || s.boundaryHold
  | 5 => s.testBeats idx 2048
  | 7 => decide ((s.port idx).st = .down)
  | _ => true

/-- SELF_TEST_RUN: a test that waits runs, with the outcome that its resource shows. DESIGN CHOICE (log entry 80). -/
def execSelfTestRun (kind idx : Nat) (pass : Bool) (s : State) : Host.Outcome State Fault Refusal :=
  .next (if !s.dev.tests.contains { kind := kind, idx := idx } || !s.testTime kind idx then s
    else
      let s1 := s.modDev fun d => { d with tests := d.tests.filter fun x => decide (x ≠ { kind := kind, idx := idx }) }
      let s2 := (s1.devCount (if pass then .stPass else .stFail) 1).writeEvent 0 (if pass then 1 else 2) [word kind, word idx]
      if pass then s2 else s2.repair kind idx)

end Sys2Proof.Machine
end

