-- ==== Sys2Proof/Machine/Shadow.lean ====
section
/-! DEFINITION. Shadowing (R512 to R515): the comparison of course digests, the promotion of S, and the role switch. -/

namespace Sys2Proof.Machine

/-- SHADOW_DIGEST_RECEIVE: the partner's course digest is taken, and compared with the device's own. -/
def execShadowDigestReceive (p : Nat) (s : State) : Host.Outcome State Fault Refusal :=
  .next (match (s.part p).sh.otherIn with
    | [] => s
    | d :: r =>
      if (s.part p).sh.role = 0 then s.modSh p fun h => { h with otherIn := r }
      else (s.modSh p fun h => { h with otherIn := r, other := h.other ++ [d] }).shadowCompare p)

/-- SHADOW_PROMOTE_REQUEST_RECEIVE: W acknowledges. -/
def execShadowPromoteRequestReceive (p : Nat) (s : State) : Host.Outcome State Fault Refusal :=
  .next (match (s.part p).sh.reqIn with
    | [] => s
    | k :: r =>
      let v := s.part p
      let s1 := s.modSh p fun h => { h with reqIn := r }
      if v.sh.role = 4 ∧ v.live = true then
        (s1.modSh p fun h => { h with promote := some (k, none), acked := true }).shadowSend p v.sh.peer false [3, word k]
      else s1)

/-- The acknowledgement is held by T + START(K) - 20 us. DESIGN CHOICE (log entry 77). -/
def Part.ackInTime (v : Part) (now k : Nat) : Bool :=
  match v.startOf k with
  | some b => decide (now + 20000 ≤ b)
  | none => true

/-- SHADOW_ACK_RECEIVE. -/
def execShadowAckReceive (p : Nat) (s : State) : Host.Outcome State Fault Refusal :=
  .next (match (s.part p).sh.ackIn with
    | [] => s
    | k :: r =>
      let v := s.part p
      let mine := v.sh.promote.any fun x => decide (x.1 = k)
      s.modSh p fun h => { h with ackIn := r, acked := h.acked || (mine && v.ackInTime s.now k) })

/-- Write ROLEW on every tile of the partition. DESIGN CHOICE (log entry 77). -/
def State.writeRole (s : State) (p : Nat) (active : Bool) : State :=
  (s.tilesOf p).foldl (fun u t => u.wrW (loftAddr t (8 * (Config.roleAt p % 0x1E000))) (Config.roleWord active)) s

/-- The pinned start of K has come. DESIGN CHOICE (log entry 77). -/
def Part.switchDue (v : Part) (now k : Nat) : Bool :=
  v.live && ((v.startOf k).any (fun b => decide (b ≤ now)) || decide (k < v.run.course))

/-- SHADOW_ROLE_SWITCH: S becomes active, and its first packet to each destination carries SYNC = 1; W becomes silent; a promotion
that is not acknowledged or not verified fails, and the roles stand. -/
def execShadowRoleSwitch (p : Nat) (s : State) : Host.Outcome State Fault Refusal :=
  .next (let v := s.part p
    match v.sh.promote with
    | none => s
    | some (k, r?) =>
      if !v.switchDue s.now k then s
      else
        let s1 := s.modSh p fun h => { h with promote := none, acked := false }
        let ok := v.sh.acked && v.sh.verified
        let s2 :=
          if !ok then s1
          else if v.sh.role = 4 then (s1.modSh p fun h => { h with role := 5 }).writeRole p false
          else
            let s3 := (s1.modSh p fun h => { h with role := 3 }).writeRole p true
            s3.modFab fun f => { f with dst := SMap.mapVals (fun d => { d with n := 0, sent := false }) f.dst }
        match r? with
        | some r => s2.reply r (if ok then 0 else if v.sh.acked then 0x61 else 0x62) []
        | none => s2)

end Sys2Proof.Machine
end

