-- ==== Sys2Proof/Machine/Regs.lean ====
section
/-! DEFINITION. The registers of the device: their places in the blocks of Table 16.10 by the rule of R472, what each reads as,
and what a write to each does. -/

namespace Sys2Proof.Machine

/-- Every register of the register blocks. -/
inductive Reg where
  | refCtl | refStat | tdCtl | tdStat | mntCtr (c : MntCtr) | count | wcM | wcU | wcCtl
  | budget | pwrState | brgStat | brgCtl | rstCause | pwrStatus | govFaults | present | sbIp | twarn
  | devid | gen | vestStat | fabCtr (c : FabCtr) | actAt
  | fence | portCtr (c : PortCtr) | lnkCtl | lnkStat
  | devCtr (c : DevCtr) | retired | stackCtr (c : StackCtr) | clrCe
  | hrtLc | hrtDbg | hrtBoot | hrtSvn | serial | pdbg | fwdig | pkdig (p : Nat)
  | clrCfg | marlRef | swpStat | hzdCtl | hzdLost | roomCtr (c : RoomCtr)
  | tileCtr (c : TileCtr) | feStat | mxSet (i : Nat) | mxStat | syStat
  | launchStat | ltCfg | sywLim | tgt (n : Nat) | srvCfg | pgCfg | peer (n : Nat) | servCtr (c : ServCtr)
  | wcur | wswapStat | ldigCtl | jobSum | fltCtl | fltPstat | logWp | haltDrop | noteDup | noteStale
  | twin | launchT | oqBase (hp : Nat) | oringWp (hp : Nat) | oringWpaddr (hp : Nat) | oringRp (hp : Nat) | oringBase (hp : Nat)
  | srvStat | stepBase | wswapS | wsdig | ldigBase | ldigWp | twinBase
  deriving DecidableEq, Repr

/-- Which unit a register block belongs to. -/
inductive RegUnit where
  | dev | port (n : Nat) | stack (k : Nat) | chan (c : Nat) | room (r : Nat) | tile (t : Nat) | part (p : Nat)
  deriving DecidableEq, Repr

/-! ## Widths and places (R472) -/

/-- DESIGN CHOICE (log entry 32). -/
def Reg.width : Reg → Nat
  | .mntCtr _ => 32
  | .count | .wcM | .wcU | .actAt | .pdbg | .launchT | .oqBase _ | .oringWpaddr _ | .oringBase _ | .stepBase | .wswapS | .ldigBase
  | .twinBase => 64
  | .fabCtr c => c.width
  | .portCtr c => c.width
  | .devCtr c => c.width
  | .stackCtr c => c.width
  | .roomCtr c => c.width
  | .tileCtr c => c.width
  | .servCtr c => c.width
  | .serial => 128
  | .fwdig | .pkdig _ | .jobSum | .wsdig => 256
  | .haltDrop => 48
  | _ => 32

/-- Bytes that a register occupies: 4 up to 32 bits, then whole pairs of words. -/
def Reg.size (r : Reg) : Nat := if r.width ≤ 32 then 4 else 8 * ceilDiv r.width 64

/-- Place registers one after another from an offset on. DESIGN CHOICE (log entry 29). -/
def placeRegs : Nat → List Reg → List (Nat × Reg)
  | _, [] => []
  | o, r :: rs =>
    let a := if r.width ≤ 32 then o else 8 * ceilDiv o 8
    (a, r) :: placeRegs (a + r.size) rs

/-- DESIGN CHOICE (log entry 29). -/
def mntRegs : List Reg :=
  [.refCtl, .refStat, .tdCtl, .tdStat, .mntCtr .refaSoft, .mntCtr .refbSoft, .mntCtr .refFailover, .mntCtr .tdOob, .mntCtr .tdHold,
   .count, .wcM, .wcU, .wcCtl]
/-- DESIGN CHOICE (log entry 29). -/
def pwrRegs : List Reg := [.budget, .pwrState, .brgStat, .brgCtl, .rstCause, .pwrStatus, .govFaults, .present, .sbIp, .twarn]
/-- DESIGN CHOICE (log entry 29). -/
def fabRegs : List Reg :=
  [.devid, .gen, .vestStat] ++
  ([.hcrcDrop, .badHdr, .planBadAddr, .planNoRoute, .noRoute, .genDrop, .hopDrop, .ordLate, .ordDup, .vestTmo, .vestFull, .vestPeak] : List FabCtr).map
    Reg.fabCtr ++ [.actAt]
def fabPortRegs : List Reg := [.fence, .portCtr .planColl, .portCtr .fenceDrop]
/-- DESIGN CHOICE (log entry 29). -/
def lnkRegs : List Reg :=
  [.lnkCtl, .lnkStat] ++
  ([.grpBad, .dup, .oos, .svcReplay, .svcRflits, .planRflits, .planRtmo, .holdFull, .rbNoplace, .rbPeak, .lqPeak, .lqDrop, .retrain, .retrainFail,
    .down, .credTmo, .downDrop, .planDrop] : List PortCtr).map Reg.portCtr
/-- DESIGN CHOICE (log entry 29). -/
def fltRegs : List Reg :=
  ([.mapHole, .xpartMem, .regFabdrop, .sigErr, .stPass, .stFail, .stCoalesce, .katSeg] : List DevCtr).map Reg.devCtr ++ [.retired]
def fltStackRegs : List Reg := ([.crcRd, .crcWr, .ce, .late] : List StackCtr).map Reg.stackCtr
/-- DESIGN CHOICE (log entry 29). -/
def hrtRegs : List Reg := [.hrtLc, .hrtDbg, .hrtBoot, .hrtSvn, .serial, .pdbg, .fwdig] ++ (List.range 64).map Reg.pkdig
/-- DESIGN CHOICE (log entry 29). -/
def stackRegs : List Reg :=
  [.marlRef, .swpStat] ++ ([.swpDone, .swpPairs, .swpEbusy, .swpSlack, .swpSvcdef] : List StackCtr).map Reg.stackCtr
/-- DESIGN CHOICE (log entry 29). -/
def roomRegs : List Reg := ([.str25, .str50, .echo, .alarm, .stepdn] : List RoomCtr).map Reg.roomCtr
/-- DESIGN CHOICE (log entry 29). -/
def tileRegs : List Reg :=
  ([.slipIlk, .slipRamp, .stretchE8, .stepdnE8, .rsvPeak, .rsvPeakC] : List TileCtr).map Reg.tileCtr ++ [.feStat] ++
  ([.icmiss, .qhold, .skipw, .lndWdrop] : List TileCtr).map Reg.tileCtr ++ [.mxSet 0, .mxSet 1, .mxStat] ++
  ([.mxActive, .mxWarm, .mxSatop, .mxInvop, .loftCe] : List TileCtr).map Reg.tileCtr ++ [.syStat] ++
  ([.sywBeats, .sywPoll, .monNote, .monReuse] : List TileCtr).map Reg.tileCtr
/-- DESIGN CHOICE (log entry 29). -/
def partRegs : List Reg :=
  [.launchStat, .ltCfg, .sywLim] ++ (List.range 8).map Reg.tgt ++ [.srvCfg, .pgCfg] ++ (List.range 8).map Reg.peer ++
  ([.steps, .tgtMiss, .pauses, .resumes, .heldPages, .outHold, .outSkip, .ordBad, .allocWait, .demote, .promote, .peerSpill, .pageLost, .satMarl,
    .satClr, .satPeer, .specNodes, .specAcc, .specHalve, .specDouble, .ldrBindRej] : List ServCtr).map Reg.servCtr ++ [.wcur, .wswapStat] ++
  ([.wdBytes, .wdFwd, .wdDigfail, .wdSkip, .wrwLayers, .wrwPeak, .whold] : List ServCtr).map Reg.servCtr ++ [.ldigCtl] ++
  ([.wevSteps, .twMatch, .twDiv, .twMandiff, .twUnpaired] : List ServCtr).map Reg.servCtr ++
  [.jobSum, .fltCtl, .fltPstat, .logWp, .haltDrop, .noteDup, .noteStale,
   .twin, .launchT, .oqBase 0, .oqBase 1, .oringWp 0, .oringWp 1, .oringWpaddr 0, .oringWpaddr 1, .oringRp 0, .oringRp 1, .oringBase 0, .oringBase 1,
   .srvStat, .stepBase, .wswapS, .wsdig, .ldigBase, .ldigWp, .twinBase]

/-- The block at an offset of the register and table region: its unit, its registers, and the offset in it (Table 16.10, R471). -/
def regBlock (o : Nat) : Option (RegUnit × List Reg × Nat) :=
  if o < 0x1000 then none
  else if o < 0x2000 then some (.dev, mntRegs, o - 0x1000)
  else if o < 0x3000 then some (.dev, pwrRegs, o - 0x2000)
  else if o < 0x3800 then some (.dev, fabRegs, o - 0x3000)
  else if o < 0x4000 then some (.port ((o - 0x3800) / 128), fabPortRegs, o % 128)
  else if o < 0x8000 then some (.port ((o - 0x4000) / 1024), lnkRegs, o % 1024)
  else if o < 0x9000 then some (.dev, fltRegs, o - 0x8000)
  else if o < 0x9800 then some (.stack ((o - 0x9000) / 256), fltStackRegs, o % 256)
  else if o < 0x9C00 then some (.chan ((o - 0x9800) / 128), [.clrCe], o % 128)
  else if o < 0xA000 then none
  else if o < 0xB000 then some (.dev, hrtRegs, o - 0xA000)
  else if o < 0xC000 then some (.dev, [.clrCfg], o - 0xB000)
  else if o < 0xE000 then some (.stack ((o - 0xC000) / 1024), stackRegs, o % 1024)
  else if o < 0xF000 then some (.dev, [.hzdCtl, .hzdLost], o - 0xE000)
  else if o < 0x10000 then some (.room ((o - 0xF000) / 256), roomRegs, o % 256)
  else if o < 0x50000 then some (.tile ((o - 0x10000) / 1024), tileRegs, o % 1024)
  else if 0x1000000 ≤ o ∧ o < 0x1400000 then some (.part ((o - 0x1000000) / 0x10000), partRegs, o % 0x10000)
  else none

/-- The register that holds the word at an offset, with the word's number in it. -/
def regAt (o : Nat) : Option (RegUnit × Reg × Nat) :=
  (regBlock o).bind fun b =>
    ((placeRegs 0 b.2.1).find? fun x => decide (x.1 ≤ b.2.2 ∧ b.2.2 < x.1 + x.2.size)).map fun x => (b.1, x.2, (b.2.2 - x.1) / 4)

/-! ## Values -/

def TdSt.code : TdSt → Nat
  | .unlocked => 0 | .acquire => 1 | .track => 2 | .holdover => 3
def LinkSt.code : LinkSt → Nat
  | .down => 0 | .train => 1 | .up => 2 | .retrain => 3
def LaunchSt.code : LaunchSt → Nat
  | .idle => 0 | .armed => 1 | .confirmed => 2 | .running => 3 | .abandoned => 4 | .complete => 5

/-- MIXED of SRV_WCUR: live layers hold different generations or are torn (Table 14.9). -/
def Weights.mixed (w : Weights) : Bool :=
  let gens := ((w.tab.map (·.2)).filter fun x => decide (x.lstate = 1)).map (·.lgen)
  w.tab.any (fun kv => decide (kv.2.lstate = 2)) || decide (1 < gens.eraseDups.length)

def JobSum.words (j : JobSum) : List Word :=
  [word (j.lid + j.pdev * 2 ^ 16), word (j.pclass + j.pcause * 2 ^ 8)] ++ lohi j.ptick ++
  [word (j.nrep + j.nsec * 2 ^ 16), word (j.ncop + j.nrel * 2 ^ 16), 0, 0]

/-- FLT_PSTAT (Table 18.10). -/
def Part.pstat (v : Part) : Nat :=
  (if v.flt.resetting then 3 else if v.running then (if v.run.halted then 2 else 1) else 0) + v.sh.role * 2 ^ 2 + v.sh.mat * 2 ^ 16

/-- A debug unlock is held (R65, R491). -/
def State.anyDebug (s : State) : Bool := s.hrt.dbgDev || s.parts.any fun kv => kv.2.dbg

/-- MNT_TD_STAT.THETA saturates at 3,276.7 t. -/
def thetaCode (x : Int) : Nat := scode 16 (max (-32767) (min 32767 x))

def State.devReg (s : State) (r : Reg) : Nat :=
  let m := s.mnt
  let w := s.pwr
  let f := s.fab
  let h := s.hrt
  match r with
  | .refCtl => put1 m.pref 0 + put1 m.revert 1
  | .refStat => put1 (m.active = some true) 0 + put1 m.refA.good 1 + put1 m.refB.good 2 + put1 m.hold 3
  | .tdCtl => put1 m.tdEn 0 + put1 m.master 1 + m.parent * 2 ^ 2 + put1 m.altEn 6 + m.alt * 2 ^ 7
  | .tdStat => m.td.code + put1 m.altUse 2 + thetaCode m.theta * 2 ^ 16
  | .mntCtr c => SMap.get 0 m.ctr c.idx
  | .count => m.now % 2 ^ 64
  | .wcM => m.wcM.toNat
  | .wcU => m.wcU.toNat
  | .budget => w.avgW + w.peakW * 2 ^ 16
  | .pwrState => w.state
  | .brgStat => w.stage + put1 w.rsvc 4 + put1 w.full 5 + w.fstage * 2 ^ 8 + w.fcause * 2 ^ 12
  | .brgCtl => put1 h.red 0
  | .rstCause => w.rst.toNat
  | .pwrStatus => put1 w.rejB 0
  | .govFaults => w.govFaults
  | .present => put1 h.presEn 0 + put1 h.presRej 1
  | .sbIp => w.sbIp.toNat
  | .twarn => w.twarn
  | .devid => f.devid
  | .gen => f.active + f.prev * 2 ^ 4 + put1 f.pvalid 8 + put1 f.armed 9 + put1 f.rej 10 + f.next * 2 ^ 12
  | .vestStat => min f.occ 511 + min f.tallies 2047 * 2 ^ 16
  | .fabCtr c => SMap.get 0 f.ctr c.idx
  | .actAt => f.actAt.toNat
  | .devCtr c => SMap.get 0 s.dev.ctr c.idx
  | .retired => h.retired.length
  | .hrtLc => h.lc + h.pend * 2 ^ 2
  | .hrtDbg => put1 h.dbgDev 0
  | .hrtBoot => put1 h.recov 0 + h.cause * 2
  | .hrtSvn => h.svnRun + h.svnFloor * 2 ^ 16
  | .serial => Config.serial.toNat
  | .pdbg => (List.range 64).foldl (fun n p => n + put1 (s.part p).dbg p) 0
  | .fwdig => h.fwdig.toNat
  | .pkdig p => (s.part p).pkdig.toNat
  | .clrCfg => w.chpop + w.dsz * 2 ^ 8
  | .hzdCtl => put1 (s.dev.hzdEn && s.anyDebug) 0 + put1 s.dev.hzdHalt 1
  | .hzdLost => s.dev.hzdLost
  | _ => 0

def Port.reg (v : Port) (r : Reg) : Nat :=
  match r with
  | .fence => put1 v.efence 0 + put1 v.lfence 1
  | .portCtr c => SMap.get 0 v.ctr c.idx
  | .lnkCtl => put1 v.en 0 + put1 v.auto 1
  | .lnkStat => v.st.code + put1 (decide (0 < v.delay ∧ v.delay ≤ 3000)) 2 + v.cause * 2 ^ 4 + (min (ceilDiv v.delay 10) 0xFFF) * 2 ^ 8
  | _ => 0

def Stack.reg (v : Stack) (r : Reg) : Nat :=
  match r with
  | .stackCtr c => SMap.get 0 v.ctr c.idx
  | .marlRef => put1 v.hot 0 + put1 v.force2x 1 + (v.temp % 256) * 2 ^ 8
  | .swpStat => v.swpStat.toNat
  | _ => 0

def Tile.reg (v : Tile) (r : Reg) : Nat :=
  match r with
  | .tileCtr c => SMap.get 0 v.ctr c.idx
  | .feStat => v.feStatReg.toNat
  | .mxSet i => (v.mxSetReg i).toNat
  | .mxStat => v.mxStatReg.toNat
  | .syStat => v.syStatReg.toNat
  | _ => 0

def Part.reg (v : Part) (r : Reg) : Nat :=
  match r with
  | .launchStat => v.launch.st.code + v.launch.lid * 2 ^ 16
  | .ltCfg => v.ltParent + put1 v.ltRoot 4 + v.ltChild.toNat * 2 ^ 16
  | .sywLim => v.sywLim
  | .tgt n => SMap.get 0 v.serv.tgt n
  | .srvCfg => v.serv.ptmo + SMap.get 16 v.serv.sz 0 * 2 ^ 20 + SMap.get 16 v.serv.sz 1 * 2 ^ 25
  | .pgCfg => v.serv.cshare + v.serv.peerout * 2 ^ 4
  | .peer n => (SMap.get 0xFFFF v.serv.peers n).toNat
  | .servCtr c => SMap.get 0 v.serv.ctr c.idx
  | .wcur => v.wts.cur + put1 v.wts.mixed 16
  | .wswapStat => v.wts.swst + v.wts.gnew * 2 ^ 16
  | .ldigCtl => put1 v.aud.en 0 + put1 v.aud.trec 1 + v.aud.lsz * 2 ^ 2 + put1 v.aud.twen 7
  | .jobSum => leNat (wordsToBytes v.flt.sum.words)
  | .fltCtl => put1 v.flt.twhalt 0
  | .fltPstat => v.pstat
  | .logWp => v.flt.wp
  | .haltDrop => v.flt.haltDrop
  | .noteDup => v.flt.noteDup
  | .noteStale => v.flt.noteStale
  | .twin => v.aud.twin
  | .launchT => v.launch.t
  | .oqBase hp => (v.serv.out hp).oqBase.toNat
  | .oringWp hp => (v.serv.out hp).wp
  | .oringWpaddr hp => (v.serv.out hp).wpAddr.toNat
  | .oringRp hp => (v.serv.out hp).rp
  | .oringBase hp => (v.serv.out hp).ringBase.toNat
  | .srvStat => put1 v.serv.cfgRej 0
  | .stepBase => v.serv.stepBase.toNat
  | .wswapS => v.wts.s
  | .wsdig => v.wts.wsdig.toNat
  | .ldigBase => v.aud.base.toNat
  | .ldigWp => v.aud.wp
  | .twinBase => v.aud.twBase.toNat
  | _ => 0

/-- What a register reads as. -/
def State.regVal (s : State) (u : RegUnit) (r : Reg) : Nat :=
  match u with
  | .dev => s.devReg r
  | .port n => (s.port n).reg r
  | .stack k => (s.stack k).reg r
  | .chan c => SMap.get 0 s.dev.clrCe c
  | .room x => (match r with
    | .roomCtr c => SMap.get 0 (s.room x).ctr c.idx
    | _ => 0)
  | .tile t => (s.tile t).reg r
  | .part p => (s.part p).reg r

end Sys2Proof.Machine
end

