-- ==== Sys2Proof/Machine/Budget.lean ====
section
/-! DEFINITION. The power budget (R66 to R70, R544): the checks of a plan against it, in units of 0.025 W, and PWR_BUDGET. -/

namespace Sys2Proof.Machine

/-! ## What a plan declares -/

/-- Units of 0.025 W in a token: 0.05 W in the full profile, 0.025 W in the reduced one (Table 19.4). -/
def Plan.tokUnits (pl : Plan) : Nat := if pl.reduced then 1 else 2

/-- The courses that run one after another, with their indices: each step shape's, behind the head course, or the whole course table.
DEDUCED (log entry 28). -/
def Plan.runsOf (pl : Plan) : List (List (Nat × Course)) :=
  let idx := fun l : List Nat => l.filterMap fun i => (pl.courses[i]?).map fun c => (i, c)
  if pl.shapes.isEmpty then [idx (List.range pl.courses.length)]
  else pl.shapes.map fun h => idx (0 :: (List.range h.nc).map fun i => h.firstc + i)

/-- LEN + RSV. -/
def Course.span (c : Course) : Nat := c.len + c.rsv

/-- Average of a run of courses, as tokens times beats and beats. -/
def runAvg (l : List (Nat × Course)) : Nat × Nat := l.foldl (fun a c => (a.1 + c.2.avg * c.2.span, a.2 + c.2.span)) (0, 0)

def Plan.peakUnits (pl : Plan) : Nat := pl.tokUnits * pl.courses.foldl (fun m c => max m c.peak) 0

/-- The largest average of a plan's runs, as a fraction in units. -/
def Plan.avgUnits (pl : Plan) : Nat × Nat :=
  (pl.runsOf.map runAvg).foldl (fun m a => if 0 < a.2 ∧ m.1 * a.2 < pl.tokUnits * a.1 * m.2 then (pl.tokUnits * a.1, a.2) else m) (0, 1)

def addFrac (a b : Nat × Nat) : Nat × Nat := (a.1 * b.2 + b.1 * a.2, a.2 * b.2)

/-! ## The checks (R68, R70, R544) -/

/-- What a plan is checked against: the base of R67, the other plans' peak and average, and the two budgets. -/
structure Budget where
  base  : Nat
  peakO : Nat
  avgO  : Nat × Nat
  avgB  : Nat
  peakB : Nat
  deriving DecidableEq, Repr

/-- A course's average power less the average budget, times the other plans' denominator. -/
def Budget.excess (b : Budget) (w : Nat) (c : Course) : Int :=
  (((b.base + w * c.avg) * b.avgO.2 + b.avgO.1 : Nat) : Int) - (b.avgB * b.avgO.2 : Nat)

/-- The course at which a run above the average budget lasts more than 10 ms. DEDUCED (log entry 27). -/
def Budget.tenMs (b : Budget) (w b10 : Nat) : Nat → List (Nat × Course) → Option Nat
  | _, [] => none
  | acc, (i, c) :: r =>
    if b.excess w c ≤ 0 then b.tenMs w b10 0 r
    else if 100000000 < b10 * (acc + c.span) then some i
    else b.tenMs w b10 (acc + c.span) r

/-- The course at which a run's excess energy passes 3 J. -/
def Budget.energy (b : Budget) (w b10 : Nat) : Int → List (Nat × Course) → Option Nat
  | _, [] => none
  | acc, (i, c) :: r =>
    let e := acc + b.excess w c * c.span
    if (1200000000000 * b.avgO.2 : Nat) < (b10 : Int) * e then some i else b.energy w b10 (max 0 e) r

/-- A run's average power is above the average budget. -/
def Budget.avgBad (b : Budget) (w : Nat) (l : List (Nat × Course)) : Bool :=
  let a := runAvg l
  decide (b.avgB * a.2 * b.avgO.2 < b.base * a.2 * b.avgO.2 + w * a.1 * b.avgO.2 + b.avgO.1 * a.2)

/-- The failing condition of R457 and its index. -/
def Budget.fails (b : Budget) (pl : Plan) : Option (Nat × Nat) :=
  let w := pl.tokUnits
  match pl.courses.findIdx? fun c => decide (b.peakB < b.base + w * c.peak + b.peakO) with
  | some i => some (1, i)
  | none =>
    match pl.runsOf.findIdx? (b.avgBad w) with
    | some i => some (2, i)
    | none =>
      match pl.runsOf.findSome? (b.tenMs w pl.beat10 0) with
      | some i => some (3, i)
      | none => (pl.runsOf.findSome? (b.energy w pl.beat10 0)).map fun i => (4, i)

/-- Base power in W (R67). DESIGN CHOICE (log entry 26). -/
def baseWatts (grade : Nat) : Nat := if grade = 0 then 275 else if grade = 1 then 264 else 253

/-- The plans of the device with their partitions: those loaded, and those accepted whose load is not yet done. -/
def State.allPlans (s : State) : List (Nat × Plan) :=
  (s.parts.filterMap fun kv => kv.2.plan.map fun pl => (kv.1, pl)) ++ s.cmd.loads.map fun x => (x.part, x.plan)
/-- Other plans than a partition's. DESIGN CHOICE (log entry 26). -/
def State.otherPlans (s : State) (p : Nat) : List Plan := (s.allPlans.filter fun x => decide (x.1 ≠ p)).map (·.2)

/-- DESIGN CHOICE (log entry 26). -/
def State.budgetFor (s : State) (pl : Plan) (others : List Plan) (avgW peakW : Nat) : Budget :=
  { base := (if pl.reduced then 20 else 40) * baseWatts s.hrt.id.grade,
    peakO := others.foldl (fun n o => n + o.peakUnits) 0, avgO := others.foldl (fun f o => addFrac f o.avgUnits) (0, 1),
    avgB := 40 * avgW, peakB := 40 * peakW }

/-- The power check of a plan to be loaded in a partition. -/
def State.powerFails (s : State) (p : Nat) (pl : Plan) : Option (Nat × Nat) :=
  (s.budgetFor pl (s.otherPlans p) s.pwr.avgW s.pwr.peakW).fails pl

/-- Every plan fits a budget. -/
def State.plansFit (s : State) (avgW peakW : Nat) : Bool :=
  s.allPlans.all fun x => ((s.budgetFor x.2 (s.otherPlans x.1) avgW peakW).fails x.2).isNone

/-- A write of a budget (R68, R69). -/
def State.setBudget (s : State) (avgW peakW : Nat) : State :=
  let ok := decide (600 ≤ avgW ∧ avgW ≤ 1200 ∧ avgW ≤ peakW ∧ peakW ≤ 1500) && s.plansFit avgW peakW
  s.modPwr fun w => if ok then { w with avgW := avgW, peakW := peakW } else { w with rejB := true }

/-- PWR_BUDGET_WRITE. -/
def execPwrBudgetWrite (acc : Accessor) (v : BitVec 32) (s : State) : Host.Outcome State Fault Refusal :=
  .next (s.devWrite acc fun u => u.setBudget (fld v 0 11) (fld v 16 11))

/-- TIL_HZD_CTL (R65): with no debug unlock held EN ignores writes; a running plan keeps what it was launched with. -/
def execTilHzdCtlWrite (acc : Accessor) (v : BitVec 32) (s : State) : Host.Outcome State Fault Refusal :=
  .next (s.devWrite acc fun u => u.modDev fun d => { d with hzdEn := if s.anyDebug then flag v 0 else d.hzdEn, hzdHalt := flag v 1 })

end Sys2Proof.Machine
end

