-- ==== Sys2Proof/Machine/RegAccess.lean ====
section
/-! DEFINITION. Accesses to the register and table region (R470 to R472): who reaches what, the tables in it, reads, and writes. -/

namespace Sys2Proof.Machine

/-- The state that a command leaves. -/
def State.after (s : State) (o : Host.Outcome State Fault Refusal) : State :=
  match o with
  | .next t => t
  | _ => s

/-! ## Who reaches a register -/

/-- A partition holds a region of a stack. -/
def State.stackOf (s : State) (p k : Nat) : Bool := (List.range 48).any fun i => decide (s.owner 1 (48 * k + i) = some p)

/-- What an access to a unit's registers or entries meets. -/
inductive RegGate where
  | ok | silent | violation | clearing
  deriving DecidableEq, Repr

/-- Registers of the device that a VF reads (R471). -/
def Reg.forVf : Reg → Bool
  | .count | .refStat | .tdStat | .wcM | .wcU => true
  | _ => false

/-- A bindable unit: one beyond the count is silent, a VF reaches its own (R470), one under clear belongs to no one (R475).
DESIGN CHOICE (log entry 30). -/
def State.unitGate (s : State) (a : Accessor) (kind i : Nat) : RegGate :=
  if s.unitCount kind ≤ i then .silent
  else match a with
    | .host _ (fn + 1) => if s.owner kind i = some fn then .ok else .violation
    | _ => if s.clearing kind i then .clearing else .ok

def State.regGate (s : State) (a : Accessor) (u : RegUnit) (r : Reg) : RegGate :=
  let vf : Option Nat := match a with
    | .host _ (fn + 1) => some fn
    | _ => none
  match u with
  | .dev => if vf.isNone || r.forVf then .ok else .violation
  | .port n => s.unitGate a 3 n
  | .tile t => s.unitGate a 0 t
  | .stack k => if s.nStacks ≤ k then .silent else match vf with
    | some p => if s.stackOf p k then .ok else .violation
    | none => .ok
  | .chan _ => if vf.isNone then .ok else .violation
  | .room _ => if vf.isNone then .ok else .violation
  | .part p => if vf.isNone || decide (vf = some p) then .ok else .violation

/-- Count an access that is not performed. -/
def State.gateMiss (s : State) : RegGate → State
  | .violation => s.regViol
  | .clearing => s.devCount .xpartMem 1
  | _ => s

/-! ## Tables -/

def ResDig.words (d : ResDig) : List Word :=
  [word (put1 d.valid 0 + put1 d.wmix 1 + d.endc * 2 ^ 2), d.tag] ++ lohi d.fstep ++ lohi d.lstep ++ [word d.gen, 0] ++
  bytesToWords (toLE 32 d.rdig.toNat) 8 ++ bytesToWords (toLE 32 d.otdig.toNat) 8 ++ List.replicate 8 0
def LSlot.words (l : LSlot) : List Word := [word (l.state + l.refc * 2 ^ 16), word l.len] ++ lohi l.dig.toNat
def WState.words (w : WState) : List Word :=
  [word (w.lgen + w.lstate * 2 ^ 16), word (w.sgen + w.sstate * 2 ^ 16)] ++ bytesToWords (toLE 32 w.ldig.toNat) 8 ++
  bytesToWords (toLE 32 w.sdig.toNat) 8 ++ List.replicate 6 0

/-- A list of units' physical indices at one byte each, with zeros up to the largest grade's count. -/
def idxBytes (n : Nat) (l : List Nat) : List Byte := (List.range n).map fun i => (l[i]?.map byte).getD 0

/-- Section 0x01: the physical index of each logical tile, stack and port, and the usability of each Doorway (R14, R23, R25).
DESIGN CHOICE (log entry 31). -/
def Ident.map (d : Ident) : List Byte :=
  idxBytes 256 d.tiles ++ idxBytes 8 d.stks ++ idxBytes 16 d.ports ++
  ((List.range 48).map fun i => byte (put1 (!d.badDoors.contains i) 0)) ++ zeros 696

/-- CLASSID (R525): the first 32 bits, little-endian, of SHAKE256 over GRADE and section 0x01. -/
def State.classId (s : State) : Nat :=
  let d := s.hrt.id
  (digest256 (byte d.grade :: d.map)).toNat % 2 ^ 32

/-- The identity header (Table 19.5); TCV is 0x0001 (R528). -/
def State.idHeader (s : State) : List Word :=
  let d := s.hrt.id
  [word d.idgen, word (d.grade + Config.stepping.toNat * 2 ^ 8 + 2 ^ 16), word s.classId,
   word (s.nTiles + s.nStacks * 2 ^ 9 + s.nPorts * 2 ^ 13 + put1 d.pres 18), 8, Config.iana] ++ lohi Config.mac.toNat ++ List.replicate 8 0

/-- Length and VALIDAT of a section (Table 19.6). -/
def State.idSection (s : State) (i : Nat) : Nat × Nat :=
  match i with
  | 1 => (1024, 3)
  | 2 => (8 * s.nTiles * s.nTiles, 3)
  | 3 => (8 * 48, 7)
  | 4 => (16 * s.nTiles * s.nStacks, 3)
  | 5 => (8 * s.nPorts * s.nTiles, 3)
  | 6 => (8 * s.nPorts, 9)
  | 7 => (16 * s.nTiles * s.nStacks, 3)
  | _ => (8 * s.nStacks, 3)

/-- Where a section begins: the sections follow the directory in order, with bytes left free before each. DESIGN CHOICE (log entry 31). -/
def State.idAt (s : State) : Nat → Nat
  | 0 => 192
  | n + 1 => (if n = 0 then 192 else s.idAt n + (s.idSection n).1) + Config.idGap (n + 1) % 50000

/-- Net schedulable Marl bandwidth of a stack in tenths of a GB/s (R177): 45 positions of 256 B in 22 of every 24 frames on 16 channels, with
frames of 80 t, or of 160 t in reduced service. -/
def netBw (reduced : Bool) : Nat := 16 * (45 * 22 * 256 * 10) / (24 * (if reduced then 160 else 80))

/-- Marl figures of a tile and a stack: L_M, L_W, L_S, request time, return time, maximum miss service time. -/
def marlFigures (reduced : Bool) (t k : Nat) : List Byte :=
  [Config.lM reduced t k, Config.lW reduced t k, Config.lS reduced t k, Config.reqTime reduced t k, Config.retTime reduced t k,
   Config.missMax reduced t k].flatMap (toLE 2) ++ zeros 4

/-- Entry `e` of a section (Table 19.6), sections with one entry a tile and another unit by the first named first. DESIGN CHOICE (log entry 31). -/
def State.idEntry (s : State) (sec e : Nat) : List Byte :=
  let nt := s.nTiles
  match sec with
  | 1 => s.hrt.id.map
  | 2 =>
    let w := fun col => toLE 4 (pathWord s.hrt.id.badDoors col (s.physTile (e / nt)) (s.physTile (e % nt))).toNat
    w false ++ w true
  | 3 => toLE 4 (Config.doorSetting e) ++ toLE 4 (Config.doorMargin e)
  | 4 => marlFigures false (e / s.nStacks) (e % s.nStacks)
  | 5 =>
    let n := e / nt
    let t := e % nt
    toLE 2 (Config.dMin n t) ++ toLE 2 (Config.dMax n t) ++ toLE 2 (Config.sMax t n) ++ zeros 2
  | 6 => toLE 4 (s.port e).delay ++ toLE 4 (((s.port e).delay + 9) / 10)
  | 7 => marlFigures true (e / s.nStacks) (e % s.nStacks)
  | _ => toLE 4 (netBw false) ++ toLE 4 (netBw true)

/-- Entry size of a section (Table 19.6). -/
def idSize : Nat → Nat
  | 1 => 1024 | 4 => 16 | 7 => 16 | _ => 8

/-- A byte of the sections: zero outside them. -/
def State.idByte (s : State) (o : Nat) : Byte :=
  match (List.range' 1 8).find? fun i => decide (s.idAt i ≤ o ∧ o < s.idAt i + (s.idSection i).1) with
  | some i => let x := o - s.idAt i; (s.idEntry i (x / idSize i)).getD (x % idSize i) 0
  | none => 0

/-- The identity data (R524): header, directory, sections. -/
def State.identity (s : State) (o n : Nat) : List Byte :=
  let dir := (List.range' 1 8).flatMap fun i => [word i, word (s.idAt i), word (s.idSection i).1, word (s.idSection i).2]
  let head := wordsToBytes (s.idHeader ++ dir)
  (List.range n).map fun i => if o + i < 192 then head.getD (o + i) 0 else s.idByte (o + i)

/-- The inspection window of a tile (R492). -/
def Tile.inspect (v : Tile) (o n : Nat) : List Byte :=
  let one := fun x : Nat =>
    if x < 0x20000 then SMap.get 0 v.opnd x
    else if x < 0x40000 then
      let set := x / 0x10000 - 2
      (toLE 16 (SMap.get Acc.zero (v.accs set) (x % 0x10000 / 16)).a.toNat).getD (x % 16) 0
    else if x < 0x50000 then ((v.icAt ((x - 0x40000) / 256)).map fun l => l.data.getD (x % 256) 0).getD 0
    else
      let regs := ((List.range 16).flatMap fun i => lohi (SMap.get 0 v.sreg i).toNat) ++ ((List.range 8).map fun i => v.cntOf i) ++
        [v.feStatReg, 0] ++ allQueues.flatMap fun q => match (v.queue q).ents.head? with
          | some e => [e.w0, e.w1] ++ lohi e.iaddr
          | none => [0, 0, 0, 0]
      (wordsToBytes regs).getD (x - 0x50000) 0
  (List.range n).map fun i => one (o + i)

/-- An unlock covers the tile's partition, and that has no plan running, is paused, or has halted under TIL_HZD_CTL.HALT. -/
def State.inspectable (s : State) (t : Nat) : Bool :=
  match s.owner 0 t with
  | some p =>
    let v := s.part p
    (s.hrt.dbgDev || v.dbg) && (!v.running || v.run.paused.isSome || v.run.hzdHalted)
  | none => s.hrt.dbgDev

/-- Bytes `n` at `o` of an entry. -/
def cutWords (ws : List Word) (o n : Nat) : List Byte := ((wordsToBytes ws).drop o).take n

/-- Which of the two banks is the staging bank. DESIGN CHOICE (log entry 31). -/
def Fab.staging (f : Fab) : SMap Byte := if f.sel then f.bank0 else f.bank1
/-- The window of the staging bank: between the partition blocks and the tables, at an open place. -/
def routeAt : Nat := 0x1400000 + (Config.routeWindow.toNat % 0x7EC0) * 0x10000

/-- A table at an offset of the region: how the accessor meets it, and its bytes. -/
def State.tableRd (s : State) (a : Accessor) (o n : Nat) : Option (RegGate × List Byte) :=
  let own := fun p : Nat => if accFor a p then RegGate.ok else .violation
  let dev : RegGate := if accOwner a then .ok else .violation
  if 0x80000000 ≤ o ∧ o < 0x80400000 then
    let r := (o - 0x80000000) / 256
    some (s.unitGate a 4 (r / 256), cutWords (s.record r).words (o % 256) n)
  else if 0x80800000 ≤ o ∧ o < 0x80804000 then
    let l := (o - 0x80800000) / 16
    some (s.unitGate a 5 (l / 16), cutWords (s.lslot l).words (o % 16) n)
  else if 0x82000000 ≤ o ∧ o < 0x86000000 then
    let p := (o - 0x82000000) / 0x100000
    let x := o % 0x100000
    some (own p, cutWords (SMap.get WState.reset (s.part p).wts.tab (x / 96)).words (x % 96) n)
  else if 0x87000000 ≤ o ∧ o < 0x87200000 then
    let r := (o - 0x87000000) / 128
    some (s.unitGate a 4 (r / 256), cutWords (s.resDig r).words (o % 128) n)
  else if 0x88000000 ≤ o ∧ o < 0x88000390 then
    let one := fun i : Nat =>
      let e := SMap.get 0 s.hrt.bind i
      if accOwner a || (bit e.toNat 6 && !bit e.toNat 7 && accFor a (bits e.toNat 0 6)) then e else 0
    some (.ok, (List.range n).map fun i => one (o - 0x88000000 + i))
  else if 0x8A000000 ≤ o ∧ o < 0x8A100000 then
    let p := (o - 0x8A000000) / 0x4000
    some (own p, cutWords (SMap.get (List.replicate 16 0) (s.part p).flt.log (o % 0x4000 / 64)) (o % 64) n)
  else if 0x8B000000 ≤ o ∧ o < 0x8B010000 then
    some (dev, cutWords (SMap.get (List.replicate 16 0) s.dev.events ((o - 0x8B000000) / 64)) (o % 64) n)
  else if 0x90000000 ≤ o ∧ o < 0x90100000 then some (.ok, s.identity (o - 0x90000000) n)
  else if 0x90100000 ≤ o ∧ o < 0x90100040 then some (dev, ((toLE 64 s.hrt.pmap.toNat).drop (o - 0x90100000)).take n)
  else if 0xC0000000 ≤ o then
    let t := (o - 0xC0000000) / 0x400000
    some (s.unitGate a 0 t, if s.inspectable t then (s.tile t).inspect (o % 0x400000) n else zeros n)
  else if routeAt ≤ o ∧ o < routeAt + 0x10000 then some (dev, SMap.getList 0 s.fab.staging (o - routeAt) n)
  else none

/-- A write to a table: only the presentation map and the staging bank take writes, from the device owner (R281, R526). -/
def State.tableWr (s : State) (a : Accessor) (o : Nat) (bs : List Byte) : State :=
  if 0x90100000 ≤ o ∧ o < 0x90100040 then
    s.devWrite a fun u => u.modHrt fun h =>
      let old := toLE 64 h.pmap.toNat
      let k := o - 0x90100000
      { h with pmap := BitVec.ofNat 512 (leNat (old.take k ++ bs ++ old.drop (k + bs.length))) }
  else if routeAt ≤ o ∧ o < routeAt + 0x10000 then
    s.devWrite a fun u =>
      if u.fab.armed || u.fab.pvalid then u
      else u.modFab fun f =>
        let m := SMap.putList 0 f.staging (o - routeAt) (bs.map fun b => b &&& 0x1F)
        if f.sel then { f with bank0 := m } else { f with bank1 := m }
  else match s.tableRd a o bs.length with
    | some (g, _) => s.gateMiss g
    | none => s

/-! ## Writes to registers -/

/-- A counter that clears on a write of 0 by the device owner. DESIGN CHOICE (log entry 30). -/
def State.clearBy (s : State) (a : Accessor) (v : Nat) (f : State → State) : State :=
  if v = 0 && s.accUp a && accOwner a then f s else s

/-- FULLREQ (R523): stages 6 and 7 run in full form, from reduced service and with no plan loaded; the Marl and the Cellar are holes
while they train (R519). -/
def State.fullReq (s : State) : State :=
  if s.pwr.rsvc && !s.anyPlan && s.cmd.loads.isEmpty && s.pwr.rerun.isNone then
    s.modPwr fun w => { w with rerun := some 6, trained := [], trainedC := [] }
  else s

def State.putDev (s : State) (a : Accessor) (r : Reg) (v : Nat) : State :=
  let w := word v
  match r with
  | .refCtl => s.devWrite a fun u => u.modMnt fun m => { m with pref := flag w 0, revert := flag w 1 }
  | .tdCtl => s.after (execMntTdCtlWrite a w s)
  | .mntCtr c => s.clearBy a v fun u => u.modMnt fun m => { m with ctr := SMap.put 0 m.ctr c.idx 0 }
  | .wcM => s.devWrite a fun u => u.modMnt fun m => { m with wcPendM := dword v }
  | .wcU => s.devWrite a fun u => u.modMnt fun m => { m with wcPendU := dword v }
  | .wcCtl => s.after (execMntWcCommit a w s)
  | .budget => s.after (execPwrBudgetWrite a w s)
  | .brgCtl => s.devWrite a fun u =>
    let u1 := u.modHrt fun h => { h with red := flag w 0 }
    if flag w 1 then u1.fullReq else u1
  | .pwrStatus => s.devWrite a fun u => u.modPwr fun x => { x with rejB := x.rejB && !flag w 0 }
  | .present => s.devWrite a fun u => u.modHrt fun h => { h with presEn := flag w 0 }
  | .sbIp => s.devWrite a fun u => u.modPwr fun x => { x with sbIp := w }
  | .twarn => s.clearBy a v fun u => u.modPwr fun x => { x with twarn := 0 }
  | .devid => s.after (execFabDevidWrite a w s)
  | .gen => s.after (execFabGenArm a w s)
  | .actAt => s.devWrite a fun u => u.modFab fun f => { f with actAt := dword v }
  | .fabCtr c => s.clearBy a v fun u => u.modFab fun f => { f with ctr := SMap.put 0 f.ctr c.idx 0 }
  | .devCtr c =>
    if c = .mapHole ∨ c = .xpartMem ∨ c = .regFabdrop ∨ c = .sigErr then
      s.clearBy a v fun u => u.modDev fun d => { d with ctr := SMap.put 0 d.ctr c.idx 0 }
    else s
  | .hzdCtl => s.after (execTilHzdCtlWrite a w s)
  | _ => s

/-- SRV_LDIG_CTL and SRV_LDIG_BASE: a write while a plan runs takes effect at the next launch (R441); a value outside the range of the
register, or an area that is not aligned or not the partition's, is ignored. -/
def State.ldigCtl (s : State) (p : Nat) (w : Word) : State :=
  if decide (fld w 2 5 < 16) || decide (26 < fld w 2 5) then s
  else if s.running p then s.modAud p fun x => { x with pendCtl := some w }
  else s.modAud p fun x => { x with en := flag w 0, trec := flag w 1, lsz := fld w 2 5, twen := flag w 7 }
def State.ldigBase (s : State) (p : Nat) (v : Nat) : State :=
  let x := (s.part p).aud
  let n := 2 ^ ((x.pendCtl.map fun w => fld w 2 5).getD x.lsz)
  if decide (v % n ≠ 0) || !s.owned p v n then s
  else if s.running p then s.modAud p fun y => { y with pendBase := some (dword v) }
  else s.modAud p fun y => { y with base := dword v }

def State.putPart (s : State) (a : Accessor) (p : Nat) (r : Reg) (v : Nat) : State :=
  let w := word v
  let srv := fun x : ServReg => s.after (execServingConfigWrite a p x (dword v) s)
  match r with
  | .ltCfg => s.after (execMntLtCfgWrite a p w s)
  | .sywLim => s.partWrite a p fun u => u.modPart p fun x => { x with sywLim := fld w 0 16 }
  | .tgt n => srv (.tgt n)
  | .srvCfg => srv .cfg
  | .pgCfg => srv .pgCfg
  | .peer n => srv (.peer n)
  | .servCtr c =>
    if c = .wdBytes ∨ c = .wdFwd ∨ c = .wdDigfail ∨ c = .wdSkip ∨ c = .wrwLayers ∨ c = .wrwPeak ∨ c = .whold then
      s.clearBy a v fun u => u.modServ p fun x => { x with ctr := SMap.put 0 x.ctr c.idx 0 }
    else s
  | .wswapStat => s.after (execSrvWswapStatClear a p w s)
  | .ldigCtl => s.partWrite a p fun u => u.ldigCtl p w
  | .ldigBase => s.partWrite a p fun u => u.ldigBase p v
  | .fltCtl => s.partWrite a p fun u => u.modFlt p fun x => { x with twhalt := flag w 0 }
  | .logWp => s.clearBy a v fun u => u.modFlt p fun x => { x with wp := 0 }
  | .haltDrop => s.clearBy a v fun u => u.modFlt p fun x => { x with haltDrop := 0 }
  | .noteDup => s.clearBy a v fun u => u.modFlt p fun x => { x with noteDup := 0 }
  | .noteStale => s.clearBy a v fun u => u.modFlt p fun x => { x with noteStale := 0 }
  | .twin => s.after (execSrvTwinWrite a p false (dword v) s)
  | .twinBase => s.after (execSrvTwinWrite a p true (dword v) s)
  | .oqBase hp => srv (.oqBase hp)
  | .oringWpaddr hp => srv (.oringWpaddr hp)
  | .oringRp hp => srv (.oringRp hp)
  | .oringBase hp => srv (.oringBase hp)
  | .srvStat => s.partWrite a p fun u => u.modServ p fun x => { x with cfgRej := x.cfgRej && !flag w 0 }
  | .stepBase => s.after (execSrvStepBaseWrite a p (dword v) s)
  | _ => s

/-- A write of a whole register. -/
def State.regPut (s : State) (a : Accessor) (u : RegUnit) (r : Reg) (v : Nat) : State :=
  match u, r with
  | .dev, _ => s.putDev a r v
  | .port n, .fence => s.devWrite a fun x => x.fence n (word v)
  | .port n, .lnkCtl => s.portWrite a n fun x => x.lnkCtl n (word v)
  | .port n, .portCtr c => s.clearBy a v fun x => x.modPort n fun y => { y with ctr := SMap.put 0 y.ctr c.idx 0 }
  | .stack k, .marlRef => s.devWrite a fun x => x.modStack k fun y => { y with force2x := flag (word v) 1 }
  | .stack k, .stackCtr c => s.clearBy a v fun x => x.modStack k fun y =>
      { y with ctr := SMap.put 0 y.ctr c.idx (if c = .swpSlack then 0xFFFFFFFF else 0) }
  | .chan c, _ => s.clearBy a v fun x => x.modDev fun d => { d with clrCe := SMap.put 0 d.clrCe c 0 }
  | .room k, .roomCtr c => s.clearBy a v fun x => x.modRoom k fun y => { y with ctr := SMap.put 0 y.ctr c.idx 0 }
  | .part p, _ => s.putPart a p r v
  | _, _ => s

/-! ## Accesses of 4 or 8 bytes (R470) -/

/-- An access keeps the form that R470 asks for. -/
def accessOk (o n : Nat) : Bool := decide ((n = 4 ∨ n = 8) ∧ o % n = 0)

/-- One word read from a register. The high word of MNT_COUNT reads as latched by the latest read of the low word alone (R238). -/
def State.regWordRd (s : State) (a : Accessor) (o : Nat) (whole : Bool) : Word × State :=
  match regAt o with
  | none => (0, s)
  | some (u, r, k) =>
    match s.regGate a u r with
    | .ok =>
      if r = .count && !whole then
        if k = 0 then (word s.now, s.modMnt fun m => { m with latch := word (m.now / 2 ^ 32) }) else (s.mnt.latch, s)
      else (word (s.regVal u r / 2 ^ (32 * k)), s)
    | g => (0, s.gateMiss g)

/-- A read of the register and table region. -/
def State.regionRd (s : State) (a : Accessor) (o n : Nat) : List Byte × State :=
  if !accessOk o n then (zeros n, s)
  else match s.tableRd a o n with
    | some (.ok, bs) => (bs, s)
    | some (g, _) => (zeros n, s.gateMiss g)
    | none =>
      let x := s.regWordRd a o (n = 8)
      if n = 4 then (toLE 4 x.1.toNat, x.2)
      else
        let y := x.2.regWordRd a (o + 4) true
        (toLE 4 x.1.toNat ++ toLE 4 y.1.toNat, y.2)

/-- The value that a write of a part of a register keeps the rest of: where a write waits, what was written last. DESIGN CHOICE (log entry 30). -/
def State.regOld (s : State) (u : RegUnit) (r : Reg) : Nat :=
  let pend := fun (p : Nat) (x : ServReg) =>
    (((s.part p).serv.pend.reverse.find? fun e => decide (e.1 = x)).map fun e => e.2.toNat).getD (s.regVal u r)
  match u, r with
  | .dev, .wcM => s.mnt.wcPendM.toNat
  | .dev, .wcU => s.mnt.wcPendU.toNat
  | .part p, .oqBase hp => pend p (.oqBase hp)
  | .part p, .oringWpaddr hp => pend p (.oringWpaddr hp)
  | .part p, .oringBase hp => pend p (.oringBase hp)
  | .part p, .ldigBase => (((s.part p).aud.pendBase).getD (s.part p).aud.base).toNat
  | _, _ => s.regVal u r

/-- Write the words of one register: those that the access covers are replaced. -/
def State.regWords (s : State) (a : Accessor) (u : RegUnit) (r : Reg) (k : Nat) (ws : List Word) : State :=
  match s.regGate a u r with
  | .ok =>
    let old := s.regOld u r
    let lo := old % 2 ^ (32 * k)
    let hi := old / 2 ^ (32 * (k + ws.length))
    let mid := leNat (wordsToBytes ws)
    s.regPut a u r (lo + mid * 2 ^ (32 * k) + hi * 2 ^ (32 * (k + ws.length)))
  | g => s.gateMiss g

/-- A write to the register and table region. DESIGN CHOICE (log entry 30). -/
def State.regionWr (s : State) (a : Accessor) (o : Nat) (bs : List Byte) : State :=
  if !accessOk o bs.length then s
  else if (s.tableRd a o 4).isSome then s.tableWr a o bs
  else
    let w0 := wordAt bs 0
    let w1 := wordAt bs 1
    match regAt o with
    | none => if bs.length = 8 then (match regAt (o + 4) with
        | some (u, r, k) => s.regWords a u r k [w1]
        | none => s) else s
    | some (u, r, k) =>
      if bs.length = 4 then s.regWords a u r k [w0]
      else match regAt (o + 4) with
        | some (u2, r2, k2) => if u2 = u && r2 = r then s.regWords a u r k [w0, w1] else (s.regWords a u r k [w0]).regWords a u2 r2 k2 [w1]
        | none => s.regWords a u r k [w0]

end Sys2Proof.Machine
end

