-- ==== Sys2Proof/Machine/PlanImage.lean ====
section
/-! DEFINITION. A plan image in the Marl (R72, R73, Tables 2.11 to 2.15 and those that they name): its layout checks and its decoding. -/

namespace Sys2Proof.Machine

/-- A refusal: the status and the results of the reply (R457). -/
abbrev Refuse := Option (Nat × List Word)
def refuseAt (code : Nat) (i? : Option Nat) : Refuse := i?.map fun i => (code, [word i])
def firstRefusal : List Refuse → Refuse
  | [] => none
  | some r :: _ => some r
  | none :: l => firstRefusal l

/-- `n` words of memory. -/
def State.rdWords (s : State) (a n : Nat) : List Word := bytesToWords (s.rd a (4 * n)) n

/-- An entry of a section's directory. -/
structure Sect where
  typ : Nat
  off : Nat
  len : Nat
  cnt : Nat
  deriving DecidableEq, Repr

/-- What PLAN_LOAD reads of an image: its header, directory and section headers, and the tables of the device's own section. -/
structure Image where
  ia    : Nat
  size  : Nat
  hdr   : List Word
  dirs  : List (List Word)
  slens : List Nat
  /-- directory index and words of the own section's header, its directory, and its tables' bytes by type -/
  own   : Option Nat
  sec   : List Word
  sdirs : List (List Word)
  tabs  : List (Nat × List Byte)
  deriving DecidableEq, Repr

def Sect.of (ws : List Word) : Sect := { typ := fld (wd ws 0) 0 16, off := (wd ws 1).toNat, len := (wd ws 2).toNat, cnt := (wd ws 3).toNat }
def low48 (ws : List Word) (i : Nat) : Nat := wd64 ws i % 2 ^ 48
def high16 (ws : List Word) (i : Nat) : Bool := decide (2 ^ 48 ≤ wd64 ws i)
def allZero (ws : List Word) (i n : Nat) : Bool := (List.range n).all fun j => decide (wd ws (i + j) = 0)

/-- Read an image of `size` bytes at an address. DESIGN CHOICE (log entry 84). -/
def State.readImage (s : State) (ia size : Nat) : Image :=
  let hdr := s.rdWords ia 64
  let dirs := (List.range (fld (wd hdr 3) 0 13)).map fun i => s.rdWords (ia + 256 + 16 * i) 4
  let own := dirs.findIdx? fun d => decide (fld (wd d 0) 0 16 = s.me)
  let so := ia + low48 (dirs.getD (own.getD 0) []) 2
  let sec := s.rdWords so 16
  let sdirs := (List.range (fld (wd sec 0) 0 8)).map fun i => s.rdWords (so + 64 + 16 * i) 4
  { ia := ia, size := size, hdr := hdr, dirs := dirs, slens := dirs.map fun d => wd64 (s.rdWords (ia + low48 d 2) 16) 1, own := own, sec := sec,
    sdirs := sdirs, tabs := sdirs.map fun d => ((Sect.of d).typ, s.rd (so + (Sect.of d).off) (Sect.of d).len) }

def Image.ilen (m : Image) : Nat := wd64 m.hdr 10
def Image.secs (m : Image) : List Sect := m.sdirs.map Sect.of
def Image.has (m : Image) (t : Nat) : Bool := m.secs.any fun x => decide (x.typ = t)
def Image.cnt (m : Image) (t : Nat) : Nat := ((m.secs.find? fun x => decide (x.typ = t)).map (·.cnt)).getD 0
/-- The bytes of a table, and its entries of `n` words. -/
def Image.bytes (m : Image) (t : Nat) : List Byte := ((m.tabs.find? fun x => decide (x.1 = t)).map (·.2)).getD []
def Image.ents (m : Image) (t n : Nat) : List (List Word) := (chunks (4 * n) (m.cnt t) (m.bytes t)).map fun c => bytesToWords c n

/-! ## Layout (status 0x2D) -/

/-- Table 2.11. DESIGN CHOICE (log entries 84, 85). -/
def Image.hdrBad (m : Image) : Bool :=
  let h := m.hdr
  let one := decide (fld (wd h 3) 0 13 = 1)
  let sh := flag (wd h 2) 2
  decide (wd h 0 ≠ 0x4C505A4D) || decide (fld (wd h 1) 0 16 ≠ 1) || decide (fld (wd h 2) 3 29 ≠ 0) ||
  decide (fld (wd h 3) 0 13 = 0) || decide (4096 < fld (wd h 3) 0 13) || decide (fld (wd h 3) 13 19 ≠ 0) || (!sh && decide (wd h 5 ≠ 0xFFFFFFFF)) ||
  high16 h 6 || high16 h 8 || (one && decide (wd64 h 6 ≠ 0 ∨ wd64 h 8 ≠ 0)) || !allZero h 12 52 ||
  decide (m.ilen < 256 + 16 * fld (wd h 3) 0 13) || decide (m.size < m.ilen + 5376)

/-- Table 2.12, and the place of each section. DESIGN CHOICE (log entry 85). -/
def Image.dirBad (m : Image) (i : Nat) : Bool :=
  let d := m.dirs.getD i []
  let o := low48 d 2
  let n := m.slens.getD i 0
  let id := fun j => fld (wd (m.dirs.getD j []) 0) 0 16
  decide (fld (wd d 0) 16 16 ≠ 0) || high16 d 2 || decide (o % 256 ≠ 0) || decide (0 < i ∧ id i ≤ id (i - 1)) ||
  decide (o < 256 + 16 * m.dirs.length) || decide (n < 64) || decide (m.ilen < o + n) ||
  (List.range i).any fun j =>
    let p := low48 (m.dirs.getD j []) 2
    decide (o < p + m.slens.getD j 0 ∧ p < o + n)

/-- Bytes of an entry, for the tables of fixed entries. -/
def entSize : Nat → Option Nat
  | 1 => some 32 | 2 => some 16 | 4 => some 16 | 5 => some 16 | 6 => some 32 | 7 => some 4 | 8 => some 4 | 9 => some 64 | 10 => some 32
  | 11 => some 16 | 12 => some 256 | 13 => some 32 | 14 => some 4 | 17 => some 16 | _ => none
/-- The number of entries where a table fixes it. -/
def entCount : Nat → Option Nat
  | 8 => some 16 | 10 => some 16 | 11 => some 8 | 12 => some 1 | 17 => some 1 | _ => none

/-- The blocks of a memory-initialisation table: header words and data; and what is left over. -/
def memBlocks : Nat → List Byte → List (List Word × List Byte) × List Byte
  | 0, bs => ([], bs)
  | n + 1, bs =>
    let h := bytesToWords bs 4
    let len := (wd h 2).toNat
    let r := memBlocks n (bs.drop (16 + len))
    ((h, (bs.drop 16).take len) :: r.1, r.2)
def Image.blocks (m : Image) : List (List Word × List Byte) := (memBlocks (m.cnt 3) (m.bytes 3)).1

/-- DESIGN CHOICE (log entries 84, 85). -/
def Image.sdirBad (m : Image) (i : Nat) : Bool :=
  let d := m.sdirs.getD i []
  let x := Sect.of d
  let slen := m.slens.getD (m.own.getD 0) 0
  let lenBad := match entSize x.typ with
    | some n => decide (x.len ≠ n * x.cnt)
    | none =>
      if x.typ = 15 then decide (x.len ≠ 32 + 32 * x.cnt)
      else if x.typ = 3 then
        let r := memBlocks x.cnt (m.bytes 3)
        !r.2.isEmpty || r.1.any (fun b => decide (b.2.length ≠ (wd b.1 2).toNat)) || decide (x.len ≠ r.1.foldl (fun n b => n + 16 + b.2.length) 0)
      else (m.ents 16 4).any (fun h => decide (x.len < (wd h 2).toNat + 8 * (wd h 1).toNat)) || decide (x.len < 16 * x.cnt)
  decide (x.typ = 0 ∨ 17 < x.typ) || decide (fld (wd d 0) 16 16 ≠ 0) || decide (x.off % 16 ≠ 0) || decide (slen < x.off + x.len) ||
  (List.range i).any (fun j => decide ((Sect.of (m.sdirs.getD j [])).typ = x.typ)) || lenBad ||
  (entCount x.typ).any fun n => decide (x.cnt ≠ n)

/-- A table that R73 requires is missing. -/
def Image.lacks (m : Image) : Bool :=
  !m.has 1 || !m.has 2 || (m.has 6 && !(m.has 7 && m.has 8)) || (m.has 7 && !m.has 8) || (m.has 12 != m.has 13) ||
  (m.has 15 && m.has 13 && !m.has 14)

/-- Ranges of the image overlap. -/
def Image.overlaps (m : Image) (a n : Nat) : Bool := decide (a < m.ia + m.size ∧ m.ia < a + n)

/-- An address range lies in a Landing. -/
def State.touchesLanding (s : State) (a n : Nat) : Bool :=
  match s.region a with
  | .loft _ off => inLanding off n
  | _ => false

/-- The layout refusal of an image, if any. -/
def State.layoutBad (s : State) (m : Image) : Refuse :=
  let bad := fun i? : Option Nat => refuseAt 0x2D i?
  if m.hdrBad then some (0x2D, [0])
  else match (List.range m.dirs.length).find? m.dirBad with
  | some i => some (0x2D, [word i])
  | none =>
    if m.own.isNone then some (0x2D, [0xFFFFFFFF])
    else if decide (fld (wd m.sec 0) 0 8 = 0) || decide (32 < fld (wd m.sec 0) 0 8) || decide (fld (wd m.sec 0) 8 24 ≠ 0) || !allZero m.sec 3 13 then
      some (0x2D, [0])
    else match (List.range m.sdirs.length).find? m.sdirBad with
    | some i => some (0x2D, [word i])
    | none =>
      if m.lacks then some (0x2D, [0]) else
      let cs := m.ents 1 8
      let ts := m.ents 2 4
      let rs := m.ents 7 1
      firstRefusal [
        bad ((List.range cs.length).find? fun i => decide ((wd (cs.getD i []) 0).toNat ≠ i)),
        bad ((List.range ts.length).find? fun i =>
          let e := ts.getD i []
          decide (fld (wd e 0) 8 7 = 0) || decide (fld (wd e 0) 15 17 ≠ 0) || high16 e 1 || decide (low48 e 1 % 256 ≠ 0) || decide (wd e 3 ≠ 0) ||
          (List.range i).any fun j => decide (fld (wd (ts.getD j []) 0) 0 8 = fld (wd e 0) 0 8)),
        bad (m.blocks.findIdx? fun b =>
          let a := low48 b.1 0
          high16 b.1 0 || decide (wd b.1 3 ≠ 0) || decide (a % 256 ≠ 0) || decide (b.2.length % 256 ≠ 0) || m.overlaps a b.2.length || s.touchesLanding a b.2.length),
        bad ((m.ents 4 4).findIdx? fun e =>
          high16 e 0 || decide (low48 e 0 % 8 ≠ 0) || m.overlaps (low48 e 0) 8 || s.touchesLanding (low48 e 0) 8),
        bad ((List.range rs.length).find? fun i =>
          decide (fld (wd (rs.getD i []) 0) 20 12 ≠ 0) || decide (0 < i ∧ fld (wd (rs.getD i []) 0) 0 16 ≤ fld (wd (rs.getD (i - 1) []) 0) 0 16)),
        bad ((m.ents 5 4).findIdx? fun e => (wordsToBytes e).any fun b => decide (bits b.toNat 1 6 ≠ 0)),
        (if s.nTiles < m.cnt 5 then some (0x2D, [word s.nTiles]) else none),
        bad ((m.ents 8 1).findIdx? fun e => decide (fld (wd e 0) 13 19 ≠ 0)),
        bad ((m.ents 16 4).findIdx? fun e => decide (fld (wd e 0) 12 20 ≠ 0) || decide (wd e 3 ≠ 0)),
        (if m.has 17 && (high16 ((m.ents 17 4).getD 0 []) 0 || decide (fld (wd ((m.ents 17 4).getD 0 []) 2) 16 16 ≠ 0) ||
            decide (wd ((m.ents 17 4).getD 0 []) 3 ≠ 0)) then some (0x2D, [0]) else none)]

/-! ## Decoding -/

def courseOfWords (e : List Word) : Course :=
  { len := fld (wd e 1) 0 24, rsv := fld (wd e 2) 0 24, guard := fld (wd e 2) 24 8, maint := fld (wd e 3) 0 24, start := wd64 e 4,
    peak := fld (wd e 6) 0 16, avg := fld (wd e 6) 16 16 }
def depOfWords (e : List Word) : Dep :=
  { frame := (wd e 0).toNat, pos := fld (wd e 1) 0 10, port := fld (wd e 1) 10 4, ns := fld (wd e 1) 14 2 + 1, epoch := fld (wd e 1) 16 8,
    dst := fld (wd e 2) 0 16, dtile := fld (wd e 2) 16 8, dslot := fld (wd e 2) 24 8, toff := (wd e 3).toNat }
def sweepOfWords (e : List Word) : SweepEnt :=
  { sid := fld (wd e 0) 0 16, stack := fld (wd e 0) 16 3, kfmt := fld (wd e 0) 19 2, dc := fld (wd e 0) 21 2, rm1 := fld (wd e 0) 23 4,
    course := (wd e 1).toNat, tstart := (wd e 2).toNat, deadline := (wd e 3).toNat, win := fld (wd e 4) 0 24, layer := fld (wd e 5) 0 16,
    hg0 := fld (wd e 5) 16 8, hgn := fld (wd e 5) 24 8, qbase := low48 e 6, rbase := low48 e 8, sc := wd e 10, bpmax := fld (wd e 11) 0 24 }
def rafterOfWords (e : List Word) : RafterEnt :=
  { loc := fld (wd e 0) 0 9, nch := fld (wd e 0) 9 5, parent := fld (wd e 1) 0 16, upw := low48 e 2, genw := low48 e 4 }
def maskOfWords (e : List Word) : MaskEnt := { mask := BitVec.ofNat 64 (wd64 e 0), grp := fld (wd e 2) 0 2 }
def servOfWords (e : List Word) : ServDesc :=
  { lead := fld (wd e 0) 0 16, nmem := fld (wd e 0) 16 16, mtile := fld (wd e 1) 0 8, shm1 := fld (wd e 1) 8 4, layers := fld (wd e 1) 12 12,
    cwin := (wd e 2).toNat, midx := fld (wd e 3) 0 12, ordq := low48 e 4,
    stks := (List.range 8).map fun k => ({ pool := low48 e (8 + 4 * k), hgs := fld (wd e (9 + 4 * k)) 16 8, dirbase := low48 e (10 + 4 * k),
                                           manbase := low48 e (40 + 2 * k) } : ServStack) }
def shapeOfWords (e : List Word) : Shape :=
  { tb := fld (wd e 0) 0 16 + 1, nc := fld (wd e 0) 16 12, firstc := fld (wd e 1) 0 16, lanes := fld (wd e 1) 16 5, pgblk := fld (wd e 1) 21 3,
    win := fld (wd e 2) 0 24, dur := (wd e 3).toNat, cmax := fld (wd e 4) 0 17, lctx := fld (wd e 5) 0 24, maxent := fld (wd e 6) 0 12 }
def wentOfWords (e : List Word) : WEnt :=
  { layer := fld (wd e 0) 0 12, stack := fld (wd e 0) 12 3, live := low48 e 1, stage := low48 e 3, len := fld (wd e 5) 0 24 }

/-- Header words and entries of the weight map. -/
def Image.wmapHdr (m : Image) : List Word := bytesToWords (m.bytes 15) 8
def Image.wmapEnts (m : Image) : List (List Word) := (chunks 32 (m.cnt 15) ((m.bytes 15).drop 32)).map fun c => bytesToWords c 8
def Image.wmap (m : Image) : Option WMap :=
  if m.has 15 then some { nlayers := fld (wd m.wmapHdr 0) 0 13, repl := flag (wd m.wmapHdr 1) 0, wctl := low48 m.wmapHdr 2, ents := m.wmapEnts.map wentOfWords }
  else none

/-- The digest lists. -/
def Image.digLists (m : Image) : List DigList :=
  (m.ents 16 4).map fun h =>
    let bs := (m.bytes 16).drop (wd h 2).toNat
    { tile := fld (wd h 0) 0 8, shape := fld (wd h 0) 8 4,
      ents := (chunks 8 (wd h 1).toNat bs).map fun c => (bits (leNat c) 0 12, bits (leNat c) 12 36) }

/-- The plan that an image describes for this device. DESIGN CHOICE (log entry 84). -/
def State.imagePlan (s : State) (m : Image) : Plan :=
  let h := m.hdr
  { pdig := digest256 (s.rd m.ia m.ilen), tcv := fld (wd h 1) 16 16, reduced := flag (wd h 2) 0, invariant := flag (wd h 2) 1, shadow := flag (wd h 2) 2,
    shw := fld (wd h 5) 0 16, shs := fld (wd h 5) 16 16, ndev := fld (wd h 3) 0 13, f := (wd h 4).toNat, notebase := low48 h 6, collbase := low48 h 8,
    iaddr := m.ia, ilen := m.ilen, devs := m.dirs.map (fun d => fld (wd d 0) 0 16), classid := (wd (m.dirs.getD (m.own.getD 0) []) 1).toNat,
    courses := (m.ents 1 8).map courseOfWords,
    tiles := (m.ents 2 4).map (fun e => { tile := fld (wd e 0) 0 8, preload := fld (wd e 0) 8 7, entry := low48 e 1 }),
    init := m.blocks.map (fun b => { addr := low48 b.1 0, data := b.2 }),
    sync := (m.ents 4 4).map (fun e => (low48 e 0, dword (wd64 e 2))), paths := chunks 16 (m.cnt 5) (m.bytes 5),
    deps := (m.ents 6 8).map depOfWords, routes := (m.ents 7 1).map (fun e => (fld (wd e 0) 0 16, fld (wd e 0) 16 4)),
    links := (m.ents 8 1).map (fun e => (fld (wd e 0) 0 12, flag (wd e 0) 12)), sweeps := (m.ents 9 16).map sweepOfWords,
    rafter := (m.ents 10 8).map rafterOfWords, masks := (m.ents 11 4).map maskOfWords,
    serv := if m.has 12 then some (servOfWords ((m.ents 12 64).getD 0 [])) else none, shapes := (m.ents 13 8).map shapeOfWords,
    reads := (m.ents 14 1).map (fun e => (fld (wd e 0) 0 16, fld (wd e 0) 16 16)), wmap := m.wmap, digs := m.digLists,
    larder := if m.has 17 then some (low48 ((m.ents 17 4).getD 0 []) 0, fld (wd ((m.ents 17 4).getD 0 []) 2) 0 16) else none }

end Sys2Proof.Machine
end

