-- ==== Sys2Proof/Machine/HostIf.lean ====
section
/-! DEFINITION. The host interface (spec/16): command slots and submission (R451, R452), the taking of packets (R450) and their checks
(R453, R454, R456), the reply ring (R455), the aperture (R469, R470), the CMD_ registers (R474) and writes of registers (R5, R471). -/

namespace Sys2Proof.Machine

/-! ## Submission -/

/-- Bytes written into words of a slot from a byte offset. -/
def Fn.poke (f : Fn) (base off : Nat) (bs : List Byte) : Fn :=
  let old := bytesToWords [] 64
  let ws := old.mapIdx fun i _ => SMap.get 0 f.slots (base + i)
  let img := wordsToBytes ws
  let new := img.take off ++ bs ++ img.drop (off + bs.length)
  { f with slots := SMap.putList 0 f.slots base (bytesToWords new 64) }

/-- The 64 words of a slot. -/
def Fn.slot (f : Fn) (base : Nat) : List Word := (List.range 64).map fun i => SMap.get 0 f.slots (base + i)
def Fn.zeroSlot (f : Fn) (base : Nat) : Fn := { f with slots := SMap.clear f.slots base 64 }

/-- No packet waits on either port. DESIGN CHOICE (log entry 87). -/
def Cmd.idle (c : Cmd) : Bool := (List.range 2).all fun n => (SMap.get HostPort.reset c.ports n).q.isEmpty

/-- Submit a packet: past 256 outstanding commands of the port it is discarded (R452). Of packets that arrive at an idle processor in one
tick, that of HP0 is taken first (R450). DESIGN CHOICE (log entry 87). -/
def State.submit (s : State) (hp fn : Nat) (ws : List Word) (badLen : Bool) : State :=
  let s1 := s.fnCount hp fn .submitted
  if 256 ≤ (s1.hport hp).outst then (s1.fnCount hp fn .dropOvf).modFn hp fn fun f => { f with ovf := true }
  else
    let s2 := if s1.cmd.idle then s1.modCmd fun c => { c with lastPort := 1 } else s1
    s2.modHport hp fun v => { v with q := v.q ++ [{ fn := fn, words := ws, badLen := badLen }], outst := v.outst + 1 }

/-- A write into one slot, at a byte offset of it. DESIGN CHOICE (log entry 87). -/
def State.slotWrite (s : State) (hp fn slot off : Nat) (bs : List Byte) : State :=
  let base := 64 * slot
  let s1 := s.modFn hp fn fun f => f.poke base off bs
  let ws := (s1.fn hp fn).slot base
  let len := fld (wd ws 0) 16 16
  let done := s1.modFn hp fn fun f => f.zeroSlot base
  if bs.isEmpty then s
  else if len < 3 ∨ 64 < len then (if off < 4 then done.submit hp fn (ws.take 3) true else s1)
  else if off ≤ 4 * (len - 1) ∧ 4 * len ≤ off + bs.length then done.submit hp fn (ws.take len) false
  else s1

/-- COMMAND_SLOT_WRITE: a write that passes the end of a slot goes on in the next. -/
def execCommandSlotWrite (hp fn off : Nat) (bytes : List (BitVec 8)) (s : State) : Host.Outcome State Fault Refusal :=
  .next (if !s.fnUp hp fn then s
    else
      let first := 256 - off % 256
      (List.range (bytes.length / 256 + 2)).foldl (fun u i =>
        let o := if i = 0 then off else off - off % 256 + 256 * i
        let bs := if i = 0 then bytes.take first else (bytes.drop (first + 256 * (i - 1))).take 256
        if o < 0x10000 then u.slotWrite hp fn (o / 256) (o % 256) bs else u) s)

/-! ## Taking a packet -/

/-- A packet that has been taken. -/
structure Pkt where
  ref : CmdRef
  ws  : List Word
  bad : Bool
  deriving DecidableEq, Repr

def Pkt.w (k : Pkt) (i : Nat) : Word := wd k.ws i
def Pkt.w64 (k : Pkt) (i : Nat) : Nat := wd64 k.ws i
def Pkt.opc (k : Pkt) : Nat := k.ref.opc
def Pkt.part (k : Pkt) : Nat := k.ref.part
def Pkt.scope (k : Pkt) : Nat := fld (k.w 2) 8 2
/-- The packet comes from the PF. -/
def Pkt.pf (k : Pkt) : Bool := decide (k.ref.fn = 0)

def pktOf (hp : Nat) (b : Submitted) : Pkt :=
  { ref := { hp := hp, fn := b.fn, tag := wd b.words 1, opc := fld (wd b.words 0) 0 8, irq := flag (wd b.words 0) 8, part := fld (wd b.words 2) 0 6 },
    ws := b.words, bad := b.badLen }

/-- The port whose packet is taken next: the ports alternate (R450). DESIGN CHOICE (log entry 6). -/
def Cmd.nextPort (c : Cmd) : Option Nat :=
  let has := fun n : Nat => !(SMap.get HostPort.reset c.ports n).q.isEmpty
  if has (1 - c.lastPort) then some (1 - c.lastPort) else if has c.lastPort then some c.lastPort else none

/-- The command processor runs: the device is neither in reset nor quiesced for power-off (R539). -/
def State.cmdRuns (s : State) : Bool := !s.pwr.inReset && !s.pwr.quiesced

/-- The packet taken next, and the state without it. DESIGN CHOICE (log entry 6). -/
def State.front (s : State) : Option (Pkt × State) :=
  if !s.cmdRuns then none
  else match s.cmd.nextPort with
    | none => none
    | some n => match (s.hport n).q with
      | [] => none
      | b :: r => some (pktOf n b, (s.modCmd fun c => { c with lastPort := n }).modHport n fun v => { v with q := r })

/-- Take the next packet if it carries an operation code. DESIGN CHOICE (log entries 2, 6). -/
def State.takeOpc (s : State) (opc : Nat) (f : State → Pkt → State) : State :=
  match s.front with
  | some (k, u) => if k.opc = opc then f u k else s
  | none => s

/-! ## Checks (R453, R454, R456, R483, R494, R495, R519) -/

/-- A refusal that locates a field. -/
def offend (code w b : Nat) : Nat × List Word := (code, [word (w + b * 256)])
def offendIf (bad : Bool) (code w b : Nat) : Refuse := if bad then some (offend code w b) else none
def stop (bad : Bool) (code : Nat) : Refuse := if bad then some (code, []) else none

/-- A reserved field: word, lowest bit, width. -/
abbrev Rsv := Nat × Nat × Nat
def Pkt.rsvBad (k : Pkt) (r : Rsv) : Refuse := offendIf (decide (fld (k.w r.1) r.2.1 r.2.2 ≠ 0)) 0x01 r.1 r.2.1

/-- What a command fixes: its length; 0 partition scope, 1 device scope, 2 either; its reserved fields; and whether it needs the Marl,
the Cellar or Mantel time (R519). -/
structure Form where
  len   : Nat
  scope : Nat
  rsv   : List Rsv
  late  : Bool
  deriving DecidableEq, Repr

/-- Scope, function and partition (R453). -/
def Pkt.scopeBad (k : Pkt) (scope : Nat) : Refuse :=
  if (scope = 0 ∧ k.scope ≠ 0) ∨ (scope = 1 ∧ k.scope ≠ 1) then some (offend 0x06 2 8)
  else if k.scope = 1 then (if !k.pf then some (offend 0x06 2 8) else offendIf (decide (k.part ≠ 0)) 0x06 2 0)
  else offendIf (!k.pf && decide (k.ref.fn ≠ k.part + 1)) 0x06 2 0

/-- What the recovery ROM, the lifecycle and the power state let through; DBG_PHYS in Returned under device debug (Table 17.8). -/
def State.gateBad (s : State) (k : Pkt) : Refuse :=
  let o := k.opc
  if s.hrt.recov && !(decide (o = 0x01 ∨ o = 0x27) || (decide (o = 0x23) && !flag (k.w 3) 0)) then some (0x43, [])
  else if s.hrt.lc = 3 ∧ ¬(o = 0x01 ∨ o = 0x29 ∨ o = 0x24 ∨ o = 0x25 ∨ o = 0x26 ∨ o = 0x27 ∨ (o = 0x18 ∧ s.hrt.dbgDev = true)) then some (0x43, [])
  else if s.hrt.lc = 0 ∧ (o = 0x20 ∨ o = 0x21 ∨ o = 0x03 ∨ o = 0x22) then some (0x43, [])
  else if s.pwr.state = 3 ∧ ¬(o = 0x01 ∨ o = 0x29 ∨ o = 0x23) then some (0x46, [])
  else if s.pwr.state = 2 ∧ (o = 0x15 ∨ o = 0x16) then some (0x46, [])
  else none

/-- Stage 8 has not ended, or stages 6 and 7 run again (R519, R523). DEDUCED (log entry 88). -/
def State.early (s : State) : Bool := decide (s.pwr.stage < 8) || s.pwr.rerun.isSome

/-- A command that needs what bring-up has not made ready is refused by a check of the state, after those of ranges and
addresses (R454, R519). DEDUCED (log entry 88). -/
def State.lateBad (s : State) (f : Form) : Refuse := stop (f.late && s.early) 0x07

/-- The checks that every command has, in the order of R454: length, reserved fields and codes, scope, and the gates. DEDUCED (log entry 88). -/
def State.formBad (s : State) (k : Pkt) (f : Form) (codes : List Refuse) : Refuse :=
  firstRefusal ([offendIf (k.bad || decide (k.ws.length ≠ f.len)) 0x02 0 16, k.rsvBad (0, 9, 7), k.rsvBad (2, 6, 2),
    offendIf (decide (1 < k.scope)) 0x01 2 8, k.rsvBad (2, 10, 22)] ++ codes ++ f.rsv.map k.rsvBad ++
    [k.scopeBad f.scope, s.gateBad k])

/-- Reply with a refusal, or act. DEDUCED (log entry 88). -/
def State.decideOn (s : State) (k : Pkt) (checks : List Refuse) (act : State) : State :=
  match firstRefusal checks with
  | some (st, res) => s.reply k.ref st res
  | none => act

/-- Form a reply of status 0. -/
def State.done (s : State) (k : Pkt) (res : List Word) : State := s.reply k.ref 0 res

/-- NOP. -/
def nopForm : Form := { len := 3, scope := 2, rsv := [], late := false }
def execNop (s : State) : Host.Outcome State Fault Refusal :=
  .next (s.takeOpc 0x01 fun u k => u.decideOn k [u.formBad k nopForm []] (u.done k []))

/-- The operation codes of Tables 16.7, 17.9 and 18.8. -/
def opcodes : List Nat :=
  [0x01, 0x02, 0x03, 0x04, 0x05, 0x06, 0x07, 0x08, 0x09, 0x0A, 0x0B, 0x10, 0x11, 0x12, 0x13, 0x14, 0x15, 0x16, 0x18, 0x20, 0x21, 0x22, 0x23,
   0x24, 0x25, 0x26, 0x27, 0x28, 0x29, 0x2A, 0x30, 0x31, 0x32, 0x33, 0x34, 0x35]

/-- UNDEFINED_COMMAND: an undefined code fails the second check of R454, in the recovery ROM too (R483's 0x43 answers a defined one). -/
def execUndefinedCommand (s : State) : Host.Outcome State Fault Refusal :=
  .next (match s.front with
    | none => s
    | some (k, u) =>
      if opcodes.contains k.opc then s
      else u.decideOn k [offendIf k.bad 0x02 0 16] (u.reply k.ref 0x01 [0]))

/-! ## Replies (R455, R474) -/

/-- The 16 words of a reply entry (Table 16.4). -/
def Reply.words (r : Reply) (phase : Bool) : List Word :=
  ([r.tag, word (r.opc + r.status * 2 ^ 8 + put1 phase 16), word r.part] ++ lohi r.mtick ++ r.res ++ List.replicate 11 0).take 16

def Fn.full (f : Fn) : Bool := decide ((f.wp + 1) % 2 ^ f.rsz = f.rp)

/-- The next place of the ring. -/
def Fn.advance (f : Fn) : Fn :=
  let n := (f.wp + 1) % 2 ^ f.rsz
  { f with wp := n, phase := if n = 0 then !f.phase else f.phase, held := f.held.drop 1 }

/-- REPLY_RING_WRITE: the oldest reply is written; vector 0 becomes pending where the packet asked for it (R473). After the reply to a
successful FW_UPDATE the recovery ROM will reset the device (R483). -/
def execReplyRingWrite (hp fn : Nat) (s : State) : Host.Outcome State Fault Refusal :=
  .next (let f := s.fn hp fn
    match f.held with
    | [] => s
    | r :: _ =>
      if !f.en || f.full || !(s.hport hp).up then s
      else
        let s1 := (s.hostWr (f.base.toNat + 64 * f.wp) (wordsToBytes (r.words f.phase))).modFn hp fn Fn.advance
        let s2 := s1.modHport hp fun v => { v with outst := v.outst - 1 }
        let s3 := if r.irq then s2.irq hp fn 0 else s2
        if s.hrt.recov && decide (r.opc = 0x27 ∧ r.status = 0) then s3.modCmd fun c => { c with romReset := some (s.mnt.up + 10000000) } else s3)

/-- The CMD_ registers of a function are reached by that function alone. -/
def State.cmdWrite (s : State) (hp fn : Nat) (f : Fn → Fn) : State := if s.fnUp hp fn then s.modFn hp fn f else s

/-- CMD_RRING_CFG: while EN = 1 only a write that sets EN to 0 is taken; RSZ outside 9 to 16 is ignored. DEDUCED (log entry 88). -/
def Fn.ringCfg (f : Fn) (v : Word) : Fn :=
  let en := flag v 31
  if f.en && en then f
  else
    let z := fld v 0 5
    let f1 := { f with rsz := if 9 ≤ z ∧ z ≤ 16 then z else f.rsz, en := en }
    if en then { f1 with wp := 0, rp := 0, phase := true } else f1

def execCmdRringCfgWrite (hp fn : Nat) (v : BitVec 32) (s : State) : Host.Outcome State Fault Refusal :=
  .next (s.cmdWrite hp fn fun f => f.ringCfg v)

def Fn.setRp (f : Fn) (v : Nat) : Fn := if v < 2 ^ f.rsz then { f with rp := v } else f
/-- CMD_RRING_RP. -/
def execCmdRringRpWrite (hp fn : Nat) (v : BitVec 32) (s : State) : Host.Outcome State Fault Refusal :=
  .next (s.cmdWrite hp fn fun f => f.setRp v.toNat)

def Fn.setAp (f : Fn) (v : Nat) : Fn := { f with apBase := dword (bits v 30 18 * 2 ^ 30) }
/-- CMD_AP_BASE: bits 47:30. -/
def execCmdApBaseWrite (hp fn : Nat) (v : BitVec 64) (s : State) : Host.Outcome State Fault Refusal :=
  .next (s.cmdWrite hp fn fun f => f.setAp v.toNat)

/-- A write to any other register of Table 16.11, or to one of the three above at its offset. Counters clear on a PF write of 0.
DESIGN CHOICE (log entry 30). -/
def State.cmdReg (s : State) (hp fn o : Nat) (v : DWord) : State :=
  let w := word v.toNat
  let pf := decide (fn = 0)
  let clr := fun c : FnCtr => if pf && decide (v = 0) then s.modFn hp fn fun f => { f with ctr := SMap.put 0 f.ctr c.idx 0 } else s
  match o with
  | 0x004 => if flag w 0 then s.modFn hp fn fun f => { f with ovf := false } else s
  | 0x008 => s.modFn hp fn fun f => if f.en then f else { f with base := dword (v.toNat / 4096 * 4096) }
  | 0x010 => s.modFn hp fn fun f => f.ringCfg w
  | 0x018 => s.modFn hp fn fun f => f.setRp w.toNat
  | 0x020 => s.modFn hp fn fun f => f.setAp v.toNat
  | 0x028 => s.modFn hp fn fun f => { f with twBase := word (fld w 19 13 * 2 ^ 19) }
  | 0x02C => if pf then s.modFn hp fn fun f => { f with psel := fld w 0 6 } else s.regViol
  | 0x030 => s.modFn hp fn fun f => { f with irqMask := word (fld w 0 3) }
  | 0x034 => s.modFn hp fn fun f => { f with irqStat := f.irqStat &&& ~~~w }
  | 0x038 => clr .submitted
  | 0x040 => clr .rejected
  | 0x044 => clr .dropOvf
  | 0x048 => if !pf then s.regViol else if v = 0 then s.modCmd fun c => { c with apViol := 0 } else s
  | 0x04C => if !pf then s.regViol else if v = 0 then s.modCmd fun c => { c with regViol := 0 } else s
  | _ => s

/-! ## BAR2 (R471) -/

/-- The region offset that a BAR2 offset of a function reaches. -/
def State.bar2 (s : State) (hp fn o : Nat) : Option Nat :=
  if o < 0x100 then none
  else if o < 0x70000 then some o
  else if o < 0x80000 then some (0x01000000 + 0x10000 * (if fn = 0 then (s.fn hp fn).psel else fn - 1) + (o - 0x70000))
  else some ((s.fn hp fn).twBase.toNat + (o - 0x80000))

/-- Bytes of a register write: eight where the address is that of a register wider than 32 bits. -/
def regBytes (o : Nat) (v : DWord) : List Byte :=
  let wide := o % 8 = 0 && (match regAt o, regAt (o + 4) with
    | some (u, r, 0), some (u2, r2, _) => decide (u = u2 ∧ r = r2)
    | _, _ => false)
  toLE (if wide then 8 else 4) v.toNat

/-- REGISTER_WRITE: a BAR2 offset for a function; a local address from 0x0300_0000_0000 on for the aperture and the sideband. -/
def execRegisterWrite (acc : Accessor) (addr : Nat) (v : BitVec 64) (s : State) : Host.Outcome State Fault Refusal :=
  .next (if !s.accUp acc then s
    else if 0x030000000000 ≤ addr then
      (if addr < 0x030100000000 then s.regionWr acc (addr - 0x030000000000) (regBytes (addr - 0x030000000000) v) else s)
    else match acc with
      | .host hp fn =>
        if 0x100000 ≤ addr then s
        else match s.bar2 hp fn addr with
          | none => s.cmdReg hp fn addr v
          | some o => s.regionWr acc o (regBytes o v)
      | .sideband => s)

/-! ## Aperture (R469, R470, R475) -/

/-- What a host access to an address meets. -/
inductive HostAt where
  | mem | loft (t off : Nat) | regs (o : Nat) | clearing | denied | hole
  deriving DecidableEq, Repr

/-- KIND and index of the unit at a place. -/
def State.unitAt (s : State) (a : Nat) : Option (Nat × Nat) :=
  match s.region a with
  | .marl k o => some (1, 48 * k + o / 2 ^ 30)
  | .cellar o => some (2, o / 2 ^ 34)
  | .loft t _ => some (0, t)
  | _ => none

def State.hostAt (s : State) (fn a : Nat) : HostAt :=
  match s.region a with
  | .regs o => .regs o
  | .hole => .hole
  | r =>
    match s.unitAt a with
    | none => .hole
    | some (kind, i) =>
      if fn ≠ 0 then (if s.owner kind i = some (fn - 1) then (match r with
        | .loft t off => .loft t off
        | _ => .mem) else .denied)
      else if s.clearing kind i then .clearing
      else match r with
        | .loft t off => .loft t off
        | _ => .mem

def State.hostMiss (s : State) : HostAt → State
  | .clearing => s.devCount .xpartMem 1
  | .denied => s.modCmd fun c => { c with apViol := satAdd 32 c.apViol 1 }
  | _ => s

/-- One piece of an aperture write. DESIGN CHOICE (log entry 91). -/
def State.apWr (s : State) (hp fn a : Nat) (bs : List Byte) : State :=
  match s.hostAt fn a with
  | .mem => (s.svcPut a bs).2
  | .loft t off => s.svcJoin t off bs ((s.tile t).svc.length + 1)
  | .regs o => s.regionWr (.host hp fn) o bs
  | x => s.hostMiss x

/-- One piece of an aperture read: an uncorrectable word is a memory fault of its owner, and what the host is given is open.
DESIGN CHOICE (log entry 91). -/
def State.apRd (s : State) (hp fn a n : Nat) : List Byte × State :=
  match s.hostAt fn a with
  | .mem => s.blockRead a n
  | .loft .. => s.blockRead a n
  | .regs o => s.regionRd (.host hp fn) o n
  | x => (zeros n, s.hostMiss x)

/-- HOST_APERTURE_ACCESS. DESIGN CHOICE (log entry 91). -/
def execHostApertureAccess (hp fn off size : Nat) (wr : Option (List (BitVec 8))) (s : State) : Host.Outcome State Fault Refusal :=
  .next (if !s.fnUp hp fn then s
    else
      let a := (s.fn hp fn).apBase.toNat + off
      match wr with
      | some bs => if 2 ^ 48 ≤ a then s
        else (mibPieces a bs.length).foldl (fun u x => u.apWr hp fn x.1 ((bs.drop (x.1 - a)).take x.2)) s
      | none => if 2 ^ 48 ≤ a then s.readReply (zeros size)
        else
          let r := (mibPieces a size).foldl (fun (r : List Byte × State) x =>
            let y := r.2.apRd hp fn x.1 x.2
            (r.1 ++ y.1, y.2)) ([], s)
          r.2.readReply r.1)

end Sys2Proof.Machine
end

