-- ==== Sys2Proof/Machine/PlanCheck.lean ====
section
/-! DEFINITION. The checks of a plan image at load (R39, R457): Table 2.2, Table 7.5, Table 12.3, Table 14.2, R263, R337, R342, R487, R527. -/

namespace Sys2Proof.Machine

/-- What the checks see: the partition, the image, and the plan it describes. -/
structure Load where
  p  : Nat
  m  : Image
  pl : Plan
  deriving DecidableEq, Repr

/-- The first entry of a list that fails, and its index. -/
def firstBad {α : Type} (l : List α) (bad : α → Bool) : Option Nat := l.findIdx? bad

/-! ## Verification and class (R487, R527) -/

/-- DESIGN CHOICE (log entry 86). -/
def State.verifyBad (s : State) (x : Load) : Refuse :=
  let key := (s.part x.p).pkdig
  let cause := fun n : Nat => some (0x2C, [word n])
  if key = 0 then (if s.hrt.lc = 2 then cause 3 else none)
  else
    let t := x.m.ia + x.m.ilen
    let pk := s.rd t 1952
    if !Config.mldsaVerify pk (toLE 32 x.pl.pdig.toNat) (s.rd (t + 1952) 3309) then cause 1
    else if digest256 pk ≠ key then cause 2
    else none

def State.profileBad (s : State) (x : Load) : Refuse :=
  if (if x.pl.reduced then s.pwr.rsvc else s.pwr.full) then none else some (7, [])

/-- The tile in whose Loft window an address lies. -/
def loftTile (a : Nat) : Option Nat := if loftAddr 0 0 ≤ a ∧ a < loftAddr 256 0 then some ((a - loftAddr 0 0) / 2 ^ 20) else none

/-- Stacks that an image names. -/
def Load.stks (x : Load) : List Nat :=
  x.pl.sweeps.map (·.stack) ++ ((x.pl.wmap.map (·.ents)).getD []).map (·.stack) ++
  (x.pl.init.filter fun b => decide (b.addr < marlEnd)).map (fun b => b.addr / stackSize) ++
  ((x.pl.serv.map (·.stks)).getD []).zipIdx.filterMap fun (k, i) => if k.pool = 0 ∧ k.hgs = 0 then none else some i

/-- Tiles that an image names. -/
def Load.tiles (x : Load) : List Nat :=
  x.pl.tiles.map (·.tile) ++ x.pl.digs.map (·.tile) ++ (x.pl.serv.map (·.mtile)).toList ++
  (x.pl.init.map (·.addr) ++ x.pl.sync.map (·.1)).filterMap loftTile ++
  x.pl.masks.flatMap fun k => ((List.range 64).filter fun i => k.mask.getLsbD i).map fun i => 64 * k.grp + i

/-- Ports that an image names. -/
def Load.ports (x : Load) : List Nat := x.pl.linkPorts ++ x.pl.routes.map (·.2)

/-- Marl areas that an image names: address and length. -/
def Load.areas (x : Load) : List (Nat × Nat) :=
  x.pl.init.map (fun b => (b.addr, b.data.length)) ++ x.pl.sync.map (fun w => (w.1, 8)) ++
  x.pl.tiles.map (fun e => (e.entry, 256 * e.preload)) ++
  (match x.pl.serv with
    | some d => d.stks.zipIdx.flatMap (fun (k, i) => ((List.range 48).filter fun r => bit k.pool r).map fun r => (i * stackSize + r * 2 ^ 30, 2 ^ 30)) ++
        d.stks.flatMap (fun k => [(k.dirbase, 1), (k.manbase, 1)]) ++ [(d.ordq, 0x20000)]
    | none => []) ++
  match x.pl.wmap with
  | some m => (m.wctl, 0x80000) :: m.ents.flatMap fun e => [(e.live, 16384 * e.len), (e.stage, 16384 * e.len)]
  | none => []

/-- Marl regions that an image names, as 48 x stack + region. -/
def Load.regions (x : Load) : List Nat :=
  (x.areas.filter fun a => decide (0 < a.1 ∧ 0 < a.2 ∧ a.1 < marlEnd)).flatMap fun a =>
    let r := fun b : Nat => 48 * (b / stackSize) + b % stackSize / 2 ^ 30
    (List.range (r (a.1 + a.2 - 1) + 1 - r a.1)).map fun i => r a.1 + i

/-- Class, contract and units (Table 19.7). A device of no grade, or whose retirement list is full, accepts no load (R509).
DESIGN CHOICE (log entry 81). -/
def State.gradeBad (s : State) (x : Load) : Refuse :=
  let own := word (x.m.own.getD 0)
  let unit := fun chk kind i : Nat => some (0x10, [own, word chk, word (kind * 2 ^ 16 + i)])
  if x.pl.classid ≠ s.classId ∨ s.hrt.id.grade = 0xFF ∨ s.hrt.full = true then some (0x10, [own, 1, 0xFFFFFFFF])
  else if 1 < x.pl.tcv then some (0x10, [own, 2, 0xFFFFFFFF])
  else firstRefusal [
    (((x.pl.tiles.map (·.tile) ++ x.pl.digs.map (·.tile) ++ (x.pl.init.map (·.addr) ++ x.pl.sync.map (·.1)).filterMap loftTile).find? fun t =>
      decide (s.nTiles ≤ t)).bind fun t => unit 3 0 t),
    ((x.pl.init.find? fun b => decide (b.addr < marlEnd ∧ s.nStacks ≤ b.addr / stackSize)).bind fun b => unit 3 2 (b.addr / stackSize)),
    ((x.ports.find? fun n => decide (s.nPorts ≤ n)).bind fun n => unit 3 3 n),
    ((x.tiles.find? fun t => decide (t < s.nTiles) && s.hrt.retired.contains (0, s.physTile t)).bind fun t => unit 4 0 t),
    ((x.stks.find? fun k => decide (k < s.nStacks) && s.hrt.retired.contains (2, s.physStack k)).bind fun k => unit 4 2 k),
    ((x.regions.find? fun r => s.hrt.retired.contains (5, 48 * s.physStack (r / 48) + r % 48)).bind fun r => unit 4 2 (r / 48)),
    ((x.ports.find? fun n => s.hrt.retired.contains (3, s.physPort n)).bind fun n => unit 4 3 n)]

/-- A range lies in Marl regions or in the Loft of one tile of the partition (Table 2.15). -/
def State.inUnits (s : State) (p a n : Nat) : Bool :=
  decide (n = 0) || s.ownedMarl p a n ||
  match s.region a with
  | .loft t off => decide (s.owner 0 t = some p) && decide (off + n ≤ 0x100000)
  | _ => false

/-- A unit that is not bound to the partition (R74, R479, R487). -/
def State.unboundBad (s : State) (x : Load) : Refuse :=
  if x.pl.tiles.any (fun e => decide (s.owner 0 e.tile ≠ some x.p)) || x.pl.digs.any (fun e => decide (s.owner 0 e.tile ≠ some x.p)) ||
      x.ports.any (fun n => decide (s.owner 3 n ≠ some x.p)) ||
      x.pl.init.any (fun b => !s.inUnits x.p b.addr b.data.length) || x.pl.sync.any (fun w => !s.inUnits x.p w.1 8) then some (0x2C, [4])
  else none

/-! ## Courses (Table 2.2) -/

/-- Least spacing after a course, for a beat in tenths of a tick. DEDUCED (log entry 27). -/
def Course.spacing (b10 : Nat) (c : Course) : Nat := ceilDiv (b10 * c.span) 10 + 4

/-- The course of a run after which the spacing is too short, the last measured to an end if there is one. -/
def spacingBad (b10 : Nat) : List (Nat × Course) → Option Nat → Option Nat
  | [], _ => none
  | [(i, c)], fin => match fin with
    | some e => if e < c.start + c.spacing b10 then some i else none
    | none => none
  | (i, c) :: (j, d) :: r, fin => if d.start < c.start + c.spacing b10 then some i else spacingBad b10 ((j, d) :: r) fin

def Load.spacingBad (x : Load) : Option Nat :=
  (firstBad x.pl.courses fun c => decide (c.len = 0)).or (if x.pl.serv.isSome then none else Sys2Proof.Machine.spacingBad x.pl.beat10 (x.pl.runsOf.headD []) none)

def Course.maintBad (c : Course) : Bool := decide (c.maint < ceilDiv c.len 200 ∨ c.len < c.maint)

/-- DESIGN CHOICE (log entry 85). -/
def Load.reservedBad (x : Load) : Option Nat :=
  (firstBad (x.m.ents 1 8) fun e => decide (fld (wd e 1) 24 8 ≠ 0 ∨ fld (wd e 3) 24 8 ≠ 0 ∨ wd e 7 ≠ 0)).or
  (firstBad (x.m.ents 6 8) fun e => decide (fld (wd e 1) 24 8 ≠ 0) || !allZero e 4 4)

/-! ## Departures and links (R263, R52, R291, R314, R522) -/

/-- Spacings between the courses of a run, the last measured to an end if there is one. -/
def spacings : List (Nat × Course) → Option Nat → List Nat
  | [], _ => []
  | [(_, c)], fin => (fin.map fun e => e - c.start).toList
  | (_, c) :: (j, d) :: r, fin => (d.start - c.start) :: spacings ((j, d) :: r) fin

def Load.spacings (x : Load) : List Nat :=
  if x.pl.shapes.isEmpty then Sys2Proof.Machine.spacings (x.pl.runsOf.headD []) none
  else (x.pl.runsOf.zip x.pl.shapes).flatMap fun (l, h) => Sys2Proof.Machine.spacings l (some h.dur)

/-- End of a departure's last position after its course's start, in 1/640 t: positions are counted from frame 0. -/
def Dep.fin (d : Dep) : Nat :=
  let q := 1024 * d.frame + d.pos
  219 * (q + 4 * d.ns + (q % 16 + 4 * d.ns) / 15 + 1)
/-- The tick of R257. -/
def Dep.tick (d : Dep) : Nat := (1752 * 128 * d.frame + 219 * d.pos) / 640

/-- Logical tiles of a destination that the image's directory names: its section's class tells. DESIGN CHOICE (log entry 86). -/
def State.dstTiles (s : State) (x : Load) (dst : Nat) : Option Nat :=
  (x.m.dirs.find? fun e => decide (fld (wd e 0) 0 16 = dst)).map fun e =>
    if (wd e 1).toNat = s.classId then s.nTiles else Config.classTiles (wd e 1).toNat

/-- DESIGN CHOICE (log entry 86). -/
def State.depBad (s : State) (x : Load) (d : Dep) : Bool :=
  x.pl.reduced || decide (d.pos % 16 = 15) || !x.pl.linkPorts.contains d.port || decide (s.nPorts ≤ d.port) || decide (256 < d.dslot + d.ns) ||
  (s.dstTiles x d.dst).any (fun n => decide (n ≤ d.dtile)) ||
  decide (d.toff ≠ d.tick) || x.spacings.any fun n => decide (640 * n < d.fin)

def State.linkBad (s : State) (x : Load) (n : Nat) : Bool :=
  match x.pl.links[n]? with
  | some (c, true) =>
    let v := s.port n
    x.pl.reduced || decide (v.st ≠ .up) || decide (300 < c) || decide (v.delay + 10 ≤ 10 * c) || decide (10 * c < v.delay) || v.efence || v.lfence
  | _ => false

/-! ## Sweeps (Table 7.5) -/

def SweepEnt.dim (w : SweepEnt) : Nat := 32 * 2 ^ w.dc
def SweepEnt.width (w : SweepEnt) : Nat := if w.kfmt = 2 then 2 else 1

/-- The step shapes whose courses include a sweep: template 0 opens every step. -/
def Plan.shapesOf (pl : Plan) (w : SweepEnt) : List Shape :=
  pl.shapes.filter fun h => decide (w.course = 0 ∨ (h.firstc ≤ w.course ∧ w.course < h.firstc + h.nc))

/-- The query and result areas of a sweep (R204). -/
def Plan.sweepAreas (pl : Plan) (w : SweepEnt) : List (Nat × Nat) :=
  let rows := (pl.shapesOf w).foldl (fun n h => max n h.tb) 0 * w.hgn * (256 / (w.dim * w.width)) * (w.rm1 + 1)
  [(w.qbase, rows * (2 * w.dim)), (w.rbase, rows * (4 * w.dim + 16))]

def inStack (k a n : Nat) : Bool := decide (k * stackSize ≤ a ∧ a + n ≤ (k + 1) * stackSize)

def SweepEnt.late (w : SweepEnt) : Bool :=
  let d := w.deadline
  decide (1000 * d < 320000 + 1024 * (w.win + w.bpmax + ceilDiv d 80 + 1) + 160000 * (ceilDiv d 1920 + 1))

/-- A sweep's interval from its plan's or its step's start. -/
def Plan.sweepAt (pl : Plan) (w : SweepEnt) : Nat × Nat := (pl.sweepStart w, pl.sweepStart w + w.deadline)

/-- Two sweeps of one stack share a tick: in one step, or, for a serving plan, across a step's end. -/
def Plan.sweepsMeet (pl : Plan) (a b : SweepEnt) : Bool :=
  let x := pl.sweepAt a
  let y := pl.sweepAt b
  decide (x.1 ≤ y.2 ∧ y.1 ≤ x.2) && (pl.shapes.isEmpty || (pl.shapesOf a).any fun h => (pl.shapesOf b).contains h)
def Plan.sweepsCross (pl : Plan) (a b : SweepEnt) : Bool :=
  !(pl.shapesOf b).isEmpty && (pl.shapesOf a).any fun h => decide (h.dur + (pl.sweepAt b).1 ≤ (pl.sweepAt a).2)

def Plan.overlapBad (pl : Plan) : Option Nat :=
  (List.range pl.sweeps.length).find? fun i =>
    (List.range pl.sweeps.length).any fun j =>
      match pl.sweeps[i]?, pl.sweeps[j]? with
      | some a, some b => decide (a.stack = b.stack) && ((decide (i ≠ j) && pl.sweepsMeet a b) || pl.sweepsCross a b || pl.sweepsCross b a)
      | _, _ => false

/-- What a layer's sweeps map, as stack and head group. -/
def Plan.mapOf (pl : Plan) (l : Nat) : List (Nat × Nat) :=
  (pl.sweeps.filter fun w => decide (w.layer = l)).flatMap fun w => (List.range w.hgn).map fun i => (w.stack, w.hg0 + i)
def Plan.layersBad (pl : Plan) : Option Nat :=
  let m0 := pl.mapOf ((pl.sweeps.head?.map (·.layer)).getD 0)
  firstBad pl.sweeps fun w => let m := pl.mapOf w.layer; !(m.all m0.contains && m0.all m.contains)

/-- DESIGN CHOICE (log entry 85). -/
def sweepReserved (e : List Word) : Bool :=
  decide (fld (wd e 0) 27 5 ≠ 0 ∨ fld (wd e 4) 24 8 ≠ 0 ∨ fld (wd e 11) 24 8 ≠ 0) || high16 e 6 || high16 e 8 || !allZero e 12 4

def State.sweepChecks (s : State) (x : Load) : List Refuse :=
  let ws := x.pl.sweeps
  let all := fun w : SweepEnt => (List.range 48).all fun i => decide (s.owner 1 (48 * w.stack + i) = some x.p)
  [refuseAt 0x17 (firstBad ws fun w => x.pl.reduced || decide (s.nStacks ≤ w.stack)),
   refuseAt 0x18 (firstBad ws fun w => !all w),
   refuseAt 0x19 (firstBad ws fun w => decide (w.qbase % 256 ≠ 0 ∨ w.rbase % 256 ≠ 0) || (x.pl.sweepAreas w).any fun a => !inStack w.stack a.1 a.2),
   refuseAt 0x1A ((firstBad ws fun w => decide (256 < w.dim * w.width ∨ w.kfmt = 3 ∨ w.hgn = 0)).or (firstBad (x.m.ents 9 16) sweepReserved)),
   refuseAt 0x1B (firstBad ws fun w => (x.pl.shapesOf w).any fun h => decide (h.win ≠ w.win)),
   refuseAt 0x1C (firstBad ws SweepEnt.late),
   refuseAt 0x1D x.pl.overlapBad,
   refuseAt 0x1E x.pl.layersBad]

/-! ## Serving (Table 12.3) -/

def State.servFieldsBad (s : State) (x : Load) : Option Nat :=
  let e := (x.m.ents 12 64).getD 0 []
  match x.pl.serv with
  | none => none
  | some d =>
    let beyond := (List.range 8).any fun k => decide (s.nStacks ≤ k) && !(allZero e (8 + 4 * k) 4 && allZero e (40 + 2 * k) 2)
    let stk := (List.range 8).any fun k => decide (fld (wd e (9 + 4 * k)) 24 8 ≠ 0) || high16 e (10 + 4 * k) || high16 e (40 + 2 * k) ||
      decide (low48 e (40 + 2 * k) % 65536 ≠ 0)
    if decide (d.nmem = 0 ∨ 4096 < d.nmem ∨ d.layers = 0 ∨ d.nmem ≤ d.midx ∨ (d.lead = s.me ∧ d.midx ≠ 0) ∨ d.ordq % 65536 ≠ 0) ||
        decide (d.shm1 + 1 ≠ x.pl.shapes.length) || decide (fld (wd e 1) 24 8 ≠ 0 ∨ fld (wd e 3) 12 20 ≠ 0) || high16 e 4 || !allZero e 6 2 ||
        !allZero e 56 8 || beyond || stk then some 0
    else
      (firstBad x.pl.shapes fun h =>
        decide (h.tb < 256 ∨ h.nc = 0 ∨ h.firstc = 0 ∨ x.pl.courses.length < h.firstc + h.nc ∨ 16 < h.lanes ∨ h.maxent = 0 ∨ 4080 < h.maxent) ||
        (if h.lanes = 0 then decide (h.cmax ≠ 0) else decide (h.cmax % 64 ≠ 0 ∨ h.cmax < 128 ∨ h.tb < h.cmax))).or
      (firstBad (x.m.ents 13 8) fun w =>
        decide (fld (wd w 0) 28 4 ≠ 0 ∨ fld (wd w 1) 24 8 ≠ 0 ∨ fld (wd w 2) 24 8 ≠ 0 ∨ fld (wd w 4) 17 15 ≠ 0 ∨ fld (wd w 5) 24 8 ≠ 0 ∨
          fld (wd w 6) 12 20 ≠ 0 ∨ wd w 7 ≠ 0))

/-- The composition window. -/
def Load.windowBad (x : Load) (d : ServDesc) : Option Nat :=
  if d.cwin < 34000 then some 0
  else firstBad x.pl.shapes fun h =>
    match x.pl.courses[0]?, x.pl.courses[h.firstc]? with
    | some c, some f => decide (h.dur < d.cwin + (f.start - c.start))
    | _, _ => true

/-- A stack of which the serving descriptor names an area. -/
def ServStack.used (k : ServStack) : Bool := decide (k.pool ≠ 0 ∨ k.hgs ≠ 0 ∨ k.dirbase ≠ 0 ∨ k.manbase ≠ 0)
/-- Directory, manifest copy and parent area of a stack. -/
def ServDesc.areas (d : ServDesc) (k : ServStack) : List (Nat × Nat) :=
  if k.used then [(k.dirbase, 8 * 16384 * d.layers * k.hgs), (k.manbase, 0x20000)] else []

def State.poolBad (s : State) (x : Load) (d : ServDesc) : Option Nat :=
  (firstBad d.stks.zipIdx fun (k, i) =>
    (List.range 48).any (fun r => bit k.pool r && decide (s.owner 1 (48 * i + r) ≠ some x.p)) ||
    (d.areas k).any fun a => decide (a.2 ≠ 0) && !s.ownedMarl x.p a.1 a.2).or
  (if s.ownedMarl x.p d.ordq 0x20000 then none else some 0)

/-- DESIGN CHOICE (log entry 86). -/
def State.servChecks (s : State) (x : Load) : List Refuse :=
  match x.pl.serv with
  | none => []
  | some d =>
    [refuseAt 0x1F (s.servFieldsBad x),
     refuseAt 0x20 (x.windowBad d),
     refuseAt 0x21 ((x.pl.runsOf.zip x.pl.shapes).findSome? fun (l, h) => Sys2Proof.Machine.spacingBad x.pl.beat10 l (some h.dur)),
     refuseAt 0x23 (s.poolBad x d),
     refuseAt 0x24 (firstBad x.pl.sweeps fun w => decide (d.layers ≤ w.layer)),
     refuseAt 0x25 (if d.mtile < s.nTiles ∧ s.owner 0 d.mtile = some x.p then none else some 0)]

/-! ## Weights (Table 14.2, R426) -/

def WEnt.bytes (e : WEnt) : Nat := 16384 * e.len
def WEnt.areas (e : WEnt) : List (Nat × Nat) := (e.live, e.bytes) :: (if e.stage = 0 then [] else [(e.stage, e.bytes)])

def rangesMeet (a b : Nat × Nat) : Bool := decide (a.1 < b.1 + b.2 ∧ b.1 < a.1 + a.2)

/-- Areas that no weight area may touch. -/
def State.otherAreas (s : State) (x : Load) : List (Nat × Nat) :=
  let base := (s.part x.p).serv.stepBase.toNat
  x.pl.sweeps.flatMap x.pl.sweepAreas ++ (match x.pl.serv with
    | some d => d.stks.flatMap d.areas
    | none => []) ++
  (if base = 0 then [] else [(base, 0x400000)]) ++
  match x.pl.larder with
  | some (lbase, mib) => ((List.range 64).filter fun b => decide (s.owner 5 b = some x.p)).map fun b => (lbase + 16 * b * mib * 2 ^ 20, 16 * mib * 2 ^ 20)
  | none => []

def State.weightOverlap (s : State) (x : Load) (m : WMap) : Option Nat :=
  let other := s.otherAreas x
  let wctl := (m.wctl, 0x80000)
  (firstBad m.ents.zipIdx fun (e, i) =>
    e.areas.any (fun a => other.any (rangesMeet a) || rangesMeet a wctl ||
      (m.ents.zipIdx).any fun (f, j) => decide (i ≠ j) && f.areas.any (rangesMeet a)) ||
    (decide (e.stage ≠ 0) && rangesMeet (e.live, e.bytes) (e.stage, e.bytes))).or
  (if other.any (rangesMeet wctl) then some 0 else none)

/-- Ticks of a window that the sweeps of a stack leave free, in a step of shape `a` followed by one of shape `b`. -/
def Plan.freeTicks (pl : Plan) (stk : Nat) (a b : Shape) (w0 w1 : Nat) : Int :=
  let of := fun (h : Shape) (o : Nat) => (pl.sweeps.filter fun w => decide (w.stack = stk) && (pl.shapesOf w).contains h).map fun w =>
    min w1 (o + (pl.sweepAt w).2) - max w0 (o + (pl.sweepAt w).1)
  ((w1 : Int) - w0) - (((of a 0 ++ of b a.dur).foldl (fun n k => n + k) 0 : Nat) : Int)

/-- The rewrite check of one layer's area in one stack. -/
def Plan.rewriteBad (pl : Plan) (m : WMap) (e : WEnt) : Bool :=
  let rd := fun i : Nat => ((pl.reads[i * m.nlayers + e.layer]?).filter fun r => decide (r.1 ≠ 0xFFFF))
  let start := fun i : Nat => ((pl.courses[i]?).map (·.start)).getD 0
  pl.shapes.zipIdx.any fun (a, i) => pl.shapes.zipIdx.any fun (b, j) =>
    match rd j with
    | none => false
    | some (f, _) =>
      let w0 := match rd i with
        | none => 0
        | some (_, l) => if a.firstc + a.nc ≤ l + 1 then a.dur else start (l + 1)
      decide (pl.freeTicks e.stack a b w0 (a.dur + start f) < (ceilDiv e.bytes 20000 + 1000 : Nat))

/-- A layer read names templates of its shape in order, or is 0xFFFF in both fields (R406). -/
def Shape.readOk (h : Shape) (r : Nat × Nat) : Bool :=
  decide ((r.1 = 0xFFFF ∧ r.2 = 0xFFFF) ∨ (h.firstc ≤ r.1 ∧ r.1 ≤ r.2 ∧ r.2 < h.firstc + h.nc))

/-- DESIGN CHOICE (log entry 86). -/
def State.weightChecks (s : State) (x : Load) : List Refuse :=
  match x.pl.wmap with
  | none => []
  | some m =>
    let h := x.m.wmapHdr
    [refuseAt 0x26 ((firstBad m.ents fun e => e.areas.any fun a => decide (a.2 ≠ 0) && !(inStack e.stack a.1 a.2 && s.ownedMarl x.p a.1 a.2)).or
       (if s.ownedMarl x.p m.wctl 0x80000 then none else some 0)),
     refuseAt 0x27 (s.weightOverlap x m),
     refuseAt 0x28 (if !m.repl then none else if x.pl.reduced then some 0 else
       (firstBad m.ents fun e => decide (e.stage = 0) || x.pl.rewriteBad m e).or (firstBad x.pl.shapes fun g => decide (g.dur < 200000))),
     refuseAt 0x29 (if m.nlayers = 0 ∨ 4096 < m.nlayers ∨ m.wctl % 65536 ≠ 0 ∨ 32768 < m.ents.length ∨ fld (wd h 0) 13 19 ≠ 0 ∨ fld (wd h 1) 1 31 ≠ 0 then some 0
       else if high16 h 2 || !allZero h 4 4 || (!x.pl.shapes.isEmpty && decide (x.pl.reads.length ≠ x.pl.shapes.length * m.nlayers)) then some 0
       else if (List.range x.pl.reads.length).any fun i => !(((x.pl.shapes[i / m.nlayers]?).bind fun h => (x.pl.reads[i]?).map h.readOk).getD true) then some 0
       else (firstBad m.ents.zipIdx fun (e, i) =>
           decide (m.nlayers ≤ e.layer ∨ e.live % 16384 ≠ 0 ∨ e.stage % 16384 ≠ 0 ∨ e.len = 0 ∨ s.nStacks ≤ e.stack) ||
           (m.ents.take i).any fun f => decide (f.layer = e.layer ∧ f.stack = e.stack)).or
         (firstBad x.m.wmapEnts fun e => decide (fld (wd e 0) 15 17 ≠ 0 ∨ fld (wd e 5) 24 8 ≠ 0) || high16 e 1 || high16 e 3 || !allZero e 6 2))]

/-! ## Barriers (R337, R342) -/

def State.rafterEntBad (s : State) (p : Nat) (w : List Word) : Bool :=
  let e := rafterOfWords w
  decide (fld (wd w 0) 14 18 ≠ 0 ∨ fld (wd w 1) 16 16 ≠ 0) || high16 w 2 || high16 w 4 || !allZero w 6 2 ||
  (if e.loc = 0 ∧ e.nch = 0 then !allZero w 0 8
   else decide (16 < e.nch ∨ 256 < e.loc ∨ e.upw % 8 ≠ 0 ∨ e.genw % 8 ≠ 0 ∨ e.upw = e.genw) || !s.ownedMarl p e.upw 8 || !s.ownedMarl p e.genw 8)

def State.maskEntBad (s : State) (p : Nat) (w : List Word) : Bool :=
  let e := maskOfWords w
  decide (fld (wd w 2) 2 30 ≠ 0 ∨ wd w 3 ≠ 0) || (List.range 64).any fun i => e.mask.getLsbD i && decide (s.owner 0 (64 * e.grp + i) ≠ some p)

/-! ## All the checks, in order -/

/-- DESIGN CHOICE (log entry 86). -/
def State.loadChecks (s : State) (x : Load) : List Refuse :=
  [s.verifyBad x, s.profileBad x, s.gradeBad x, s.unboundBad x,
   refuseAt 0x11 x.spacingBad,
   refuseAt 0x12 (firstBad x.pl.courses Course.maintBad),
   refuseAt 0x13 x.reservedBad,
   (s.powerFails x.p x.pl).map fun (c, i) => (0x14, [word i, word c]),
   refuseAt 0x15 (firstBad x.pl.deps (s.depBad x)),
   refuseAt 0x16 ((List.range 16).find? (s.linkBad x))] ++
  s.sweepChecks x ++ s.servChecks x ++ s.weightChecks x ++
  [refuseAt 0x2A (firstBad (x.m.ents 10 8) (s.rafterEntBad x.p)),
   refuseAt 0x2B (firstBad (x.m.ents 11 4) (s.maskEntBad x.p))]

/-- The refusal of an image, if any, and otherwise the plan. DESIGN CHOICE (log entry 86). -/
def State.loadOutcome (s : State) (p ia size : Nat) : Sum (Nat × List Word) Plan :=
  let m := s.readImage ia size
  match s.layoutBad m with
  | some r => .inl r
  | none =>
    let pl := s.imagePlan m
    if pl.reduced && decide (pl.ndev ≠ 1) then .inl (0x2D, [0])
    else match firstRefusal (s.loadChecks { p := p, m := m, pl := pl }) with
      | some r => .inl r
      | none => .inr pl

end Sys2Proof.Machine
end

