-- ==== Sys2Proof/Machine/PlanCmds.lean ====
section
/-! DEFINITION. The plan and memory commands of Table 16.7: DMA_COPY (R459), PLAN_LOAD and PLAN_UNLOAD (R460, R74), LAUNCH and
LAUNCH_CANCEL (R461), PAUSE and RESUME (R462), CTX_RESET (R467, R506), SYNC_WAIT and SYNC_OP (R463). -/

namespace Sys2Proof.Machine

/-! ## DMA_COPY -/

/-- The range lies in Marl or Cellar regions of the partition, or in Loft windows of its tiles. -/
def State.dmaOk (s : State) (p a n : Nat) : Bool :=
  s.owned p a n || (decide (0x020000000000 ≤ a ∧ a + n ≤ 0x020010000000) &&
    (List.range (n / 2 ^ 20 + 2)).all fun i =>
      let x := min (a + n - 1) (a + i * 2 ^ 20)
      decide (s.owner 0 ((x - 0x020000000000) / 2 ^ 20) = some p))

def dmaForm : Form := { len := 9, scope := 0, rsv := [(3, 1, 31), (7, 16, 16)], late := true }
def Pkt.dma (k : Pkt) : Dma := { ref := k.ref, toHost := flag (k.w 3) 0, haddr := k.w64 4, laddr := k.w64 6 % 2 ^ 48, nu := (k.w 8).toNat }

/-- A copy is queued on its port. -/
def State.startDma (s : State) (d : Dma) : State :=
  s.modCmd fun c => { c with dma := SMap.put [] c.dma d.ref.hp (SMap.get [] c.dma d.ref.hp ++ [d]) }

def State.dmaChecks (s : State) (k : Pkt) : List Refuse :=
  let d := k.dma
  [s.formBad k dmaForm [],
   offendIf (decide (d.haddr % 256 ≠ 0)) 0x03 4 0, offendIf (decide (d.laddr % 256 ≠ 0)) 0x03 6 0,
   offendIf (decide (d.nu = 0 ∨ 0x01000000 < d.nu)) 0x03 8 0, offendIf (!s.dmaOk k.part d.laddr (256 * d.nu)) 0x0A 6 0, s.lateBad dmaForm]

/-- DMA_COPY. -/
def execDmaCopy (s : State) : Host.Outcome State Fault Refusal :=
  .next (s.takeOpc 0x02 fun u k => u.decideOn k (u.dmaChecks k) (u.startDma k.dma))

/-- One unit of a copy into the device: service blocks, or a write that joins the service buffer of a Loft (R78, R172). DESIGN CHOICE (log
entry 91). -/
def State.dmaIn (s : State) (p : Nat) (d : Dma) (i : Nat) : State :=
  let bs := s.hostRd (d.haddr + 256 * i) 256
  match s.svcAt p (d.laddr + 256 * i) with
  | .mem => (s.svcPut (d.laddr + 256 * i) bs).2
  | .loft t off => s.svcJoin t off bs ((s.tile t).svc.length + 1)
  | x => s.svcMiss x

/-- One unit of a copy to the host: the address of an uncorrectable read, or the unit copied. DESIGN CHOICE (log entry 91). -/
def State.dmaOut (s : State) (p : Nat) (d : Dma) (i : Nat) : State × Option Nat :=
  let a := d.laddr + 256 * i
  match s.svcRead p a 256 with
  | (some bs, u) => (u.hostWr (d.haddr + 256 * i) bs, none)
  | (none, u) => (u, some ((s.badRead a 256).getD a))

def State.dmaOutAll (s : State) (p : Nat) (d : Dma) : State × Option Nat :=
  (List.range d.nu).foldl (fun r i => match r.2 with
    | some _ => r
    | none => r.1.dmaOut p d i) (s, none)

/-- The units of its check code that a copy reads and the row names as corrected: the first `n`, each counted where it lies. DESIGN
CHOICE (log entry 91). -/
def State.dmaCorrected (s : State) (d : Dma) (n : Nat) : State :=
  (List.range n).foldl (fun u i => u.countCe (d.laddr + (u.checkUnit d.laddr).2 * i) 1) s

/-- DMA_COPY_DONE: the oldest copy of the port ends; an uncorrectable local read ends it with status 0x0D. -/
def execDmaCopyDone (hp : Nat) (ecc : EccEvent) (s : State) : Host.Outcome State Fault Refusal :=
  .next (match SMap.get [] s.cmd.dma hp with
    | [] => s
    | d :: r =>
      let s1 := s.modCmd fun c => { c with dma := SMap.put [] c.dma hp r }
      let out := fun u : State => match u.dmaOutAll d.ref.part d with
        | (v, none) => v.reply d.ref 0 []
        | (v, some a) => v.reply d.ref 0x0D (lohi a)
      if !d.toHost then ((List.range d.nu).foldl (fun u i => u.dmaIn d.ref.part d i) s1).reply d.ref 0 []
      else match ecc with
        | .uncorrectable first =>
          let a := d.laddr + (s.checkUnit d.laddr).2 * first % (256 * d.nu)
          ((s1.markBad a).svcBad a).reply d.ref 0x0D (lohi a)
        | .corrected n => out (s1.dmaCorrected d n)
        | .clean => out s1)

/-! ## Tiles and partitions made fresh (R59, R74, R100, R134, R343, R345) -/

/-- A tile at plan load and at a context reset: registers, queues, waits, monitors, barrier counts, slab sets and instruction cache as
after reset, tags 0x00; its store, counters and clocks stand, and service writes still wait. -/
def Tile.fresh (v : Tile) : Tile :=
  { Tile.reset with opnd := v.opnd, nextId := v.nextId, icUse := v.icUse, svc := v.svc, wback := v.wback, kat := v.kat, katAt := v.katAt,
                    tim := { TileTime.reset with cb := v.tim.cb, pb := v.tim.pb }, ctr := v.ctr, drained := true }

/-- What a partition's serving engine keeps from run to run: its registers, rings, counters and submission count. -/
def Serv.fresh (v : Serv) : Serv :=
  { Serv.reset with tgt := v.tgt, ptmo := v.ptmo, sz := v.sz, cshare := v.cshare, peerout := v.peerout, peers := v.peers, pend := v.pend,
                    cfgRej := v.cfgRej, stepBase := v.stepBase, aseq := v.aseq, outs := v.outs, pgUsed := v.pgUsed,
                    clrUsed := v.clrUsed, ctr := v.ctr }

/-- A launch that a new plan or an unload leaves without its plan is abandoned, and stays to be answered at its cut-off; any other state
stands, and so does T (R251). DESIGN CHOICE (log entry 89). -/
def Launch.orphan (l : Launch) : Launch :=
  let arm := decide (l.st = .armed ∨ l.st = .confirmed)
  let u := if arm then
      l.reply.map fun r => ({ lid := l.lid, t := l.t, status := 1, cancelled := l.cancelled, reply := r } : Unarmed)
    else none
  { Launch.reset with st := if arm then .abandoned else l.st, lid := l.lid, t := l.t, unarmed := u.or l.unarmed }

/-- A partition whose plan has been discarded. DESIGN CHOICE (log entry 89). -/
def Part.discard (v : Part) : Part :=
  { v with plan := none, launch := v.launch.orphan, run := Run.reset, kids := [], rgen := [], rsig := [], arrived := [], ph := [], sh := { Shadow.reset with wlayers := v.sh.wlayers } }

/-- Nothing decodes on the partition's tiles. -/
def State.tilesOff (s : State) (p : Nat) : State :=
  (s.tilesOf p).foldl (fun u t => u.modTile t fun v => { v with fe := FrontEnd.reset }) s

def State.discardPlan (s : State) (p : Nat) : State := ((s.modPart p Part.discard).tilesOff p).tdSettle

/-! ## PLAN_LOAD and PLAN_UNLOAD -/

def State.loadingIn (s : State) (p : Nat) : Bool := s.cmd.loads.any fun x => decide (x.part = p)

def planLoadForm : Form := { len := 6, scope := 0, rsv := [(4, 16, 16)], late := true }
def Pkt.iaddr (k : Pkt) : Nat := k.w64 3 % 2 ^ 48
def Pkt.isize (k : Pkt) : Nat := 256 * (k.w 5).toNat

def State.planLoadChecks (s : State) (k : Pkt) : List Refuse :=
  let v := s.part k.part
  [s.formBad k planLoadForm [],
   offendIf (decide (k.iaddr % 256 ≠ 0)) 0x03 3 0, offendIf (decide (k.isize = 0 ∨ 256 * 0x04000000 < k.isize)) 0x03 5 0,
   offendIf (!s.ownedMarl k.part k.iaddr k.isize) 0x0A 3 0, s.lateBad planLoadForm,
   stop (v.running || v.flt.resetting || s.loadingIn k.part) 0x07]

/-- A checked image is refused, or its load begins: the plan loaded before is discarded. -/
def State.beginLoad (s : State) (k : Pkt) : State :=
  match s.loadOutcome k.part k.iaddr k.isize with
  | .inl (st, res) => s.reply k.ref st res
  | .inr pl => (s.discardPlan k.part).modCmd fun c => { c with loads := c.loads ++ [{ ref := k.ref, part := k.part, plan := pl }] }

/-- PLAN_LOAD. DESIGN CHOICE (log entry 89). -/
def execPlanLoad (s : State) : Host.Outcome State Fault Refusal :=
  .next (s.takeOpc 0x03 fun u k => u.decideOn k (u.planLoadChecks k) (u.beginLoad k))

/-- The weight state table at a load: empty, but on S the layers that match what W sent stand (R408, R515). -/
def Weights.loaded (w : Weights) (sh : Shadow) : Weights :=
  let keep := w.tab.filter fun kv => match SMap.find sh.wlayers kv.1 with
    | some (g, d) => decide (kv.2.lgen = g ∧ kv.2.ldig = d)
    | none => false
  { Weights.reset with tab := keep.map fun kv => (kv.1, { WState.reset with lgen := kv.2.lgen, lstate := kv.2.lstate, ldig := kv.2.ldig }),
                       cur := if keep.isEmpty then 0 else w.cur }

/-- A tile entry: PRELOAD lines from ENTRY, locked until the end of course 0. -/
def State.preload (s : State) (e : TileEnt) : State :=
  let l := e.entry / 256
  let fill := fun (v : Tile) (i : Nat) => v.icFill (l + i) (s.rd (256 * (l + i)) 256) (some 0)
  s.modTile e.tile fun v =>
    let w := (List.range e.preload).foldl fill v
    { w with fe := { FrontEnd.reset with on := true, pc := e.entry } }

/-- The words that plan load declares with the value 0 (R336). -/
def Plan.rafterWords (pl : Plan) : List Nat := (pl.rafter.filter fun e => decide (e.loc ≠ 0 ∨ e.nch ≠ 0)).flatMap fun e => [e.upw, e.genw]

/-- A load finishes (R74): memory blocks, sync words, tags and tile state, preloads. -/
def State.finishLoad (s : State) (x : Loading) : State :=
  let p := x.part
  let pl := x.plan
  let s1 := pl.init.foldl (fun u b => u.wr b.addr b.data) s
  let s2 := pl.rafterWords.foldl (fun u a => u.wrW a 0) (pl.sync.foldl (fun u w => u.wrW w.1 w.2) s1)
  let s3 := ((s2.tilesOf p).foldl (fun u t => u.modTile t Tile.fresh) s2).tagsGood (s2.tilesOf p)
  let s4 := pl.tiles.foldl State.preload s3
  s4.modPart p fun v => { v with plan := some pl, run := Run.reset, kids := [], rgen := [], rsig := [], arrived := [], ph := [], serv := v.serv.fresh,
                                 wts := v.wts.loaded v.sh, sh := Shadow.reset }

/-- PLAN_LOAD_DONE. -/
def execPlanLoadDone (p : Nat) (s : State) : Host.Outcome State Fault Refusal :=
  .next (match s.cmd.loads.find? fun x => decide (x.part = p) with
    | none => s
    | some x => ((s.modCmd fun c => { c with loads := c.loads.filter fun y => decide (y.part ≠ p) }).finishLoad x).reply x.ref 0 [])

/-- PLAN_UNLOAD; with no plan loaded it does nothing. -/
def planUnloadForm : Form := { len := 3, scope := 0, rsv := [], late := false }
/-- DESIGN CHOICE (log entry 89). -/
def execPlanUnload (s : State) : Host.Outcome State Fault Refusal :=
  .next (s.takeOpc 0x04 fun u k =>
    u.decideOn k [u.formBad k planUnloadForm [], stop (u.running k.part || (u.part k.part).flt.resetting || u.loadingIn k.part) 0x07]
      ((u.discardPlan k.part).done k []))

/-! ## LAUNCH and LAUNCH_CANCEL -/

/-- A plan may not run in the power state (R494). -/
def State.powerBad (s : State) (p : Nat) : Bool :=
  decide (2 ≤ s.pwr.state) || (s.part p).plan.any fun pl => decide (s.pwr.state ≠ if pl.reduced then 1 else 0)

def Launch.pending (l : Launch) : Bool := decide (l.st = .armed ∨ l.st = .confirmed) || l.unarmed.isSome

def launchForm : Form := { len := 6, scope := 0, rsv := [(5, 16, 16)], late := true }
def Pkt.lid (k : Pkt) (i : Nat) : Nat := fld (k.w i) 0 16

/-- The arm that a LAUNCH sends. -/
def State.armOf (s : State) (k : Pkt) : LMsg :=
  { typ := 0, part := k.part, status := 0, lid := k.lid 5, root := s.me, orig := 0, t := k.w64 3, pdig := ((s.part k.part).plan.map Plan.pdigLow).getD 0 }

def State.launchChecks (s : State) (k : Pkt) : List Refuse :=
  let v := s.part k.part
  [s.formBad k launchForm [], offendIf (decide (k.w64 3 < s.now + 20000 + (v.plan.map (·.f)).getD 0)) 0x03 3 0,
   s.lateBad launchForm, stop (!v.ltRoot || v.launch.pending) 0x07, stop (s.powerBad k.part) 0x46]

/-- LAUNCH. DESIGN CHOICE (log entry 51). -/
def execLaunch (s : State) : Host.Outcome State Fault Refusal :=
  .next (s.takeOpc 0x05 fun u k => u.decideOn k (u.launchChecks k) (u.takeArm k.part (u.armOf k) none (some k.ref)))

def launchCancelForm : Form := { len := 4, scope := 0, rsv := [(3, 16, 16)], late := false }

/-- The launch record after a cancel of a LID; none where no launch of it can be cancelled. -/
def Launch.cancel (l : Launch) (lid : Nat) : Option Launch :=
  if l.st = .armed ∧ l.parent = none ∧ l.reply.isSome ∧ l.lid = lid ∧ l.confSent = false then some { l with cancelled := true }
  else match l.unarmed with
    | some u => if u.lid = lid then some { l with unarmed := some { u with cancelled := true } } else none
    | none => none

/-- LAUNCH_CANCEL. -/
def execLaunchCancel (s : State) : Host.Outcome State Fault Refusal :=
  .next (s.takeOpc 0x06 fun u k =>
    u.decideOn k [u.formBad k launchCancelForm []]
      (match (u.part k.part).launch.cancel (k.lid 3) with
        | some l => (u.modPart k.part fun v => { v with launch := l }).done k []
        | none => u.reply k.ref 0x07 []))

/-! ## PAUSE and RESUME -/

def pauseForm : Form := { len := 5, scope := 0, rsv := [], late := true }

/-- PAUSE: the course start at which it takes effect writes the reply. DESIGN CHOICE (log entry 89). -/
def execPause (s : State) : Host.Outcome State Fault Refusal :=
  .next (s.takeOpc 0x07 fun u k =>
    let v := u.part k.part
    u.decideOn k [u.formBad k pauseForm [], offendIf (decide (k.w64 3 < u.now + 20000)) 0x03 3 0, u.lateBad pauseForm,
      stop (!v.running || v.run.halted || v.run.pause.isSome || v.run.paused.isSome) 0x07]
      (u.modPart k.part fun x => { x with run := { x.run with pause := some (k.w64 3, k.ref) } }))

/-- The tick at which a paused partition stopped. -/
def Part.pausePoint (v : Part) : Nat := (v.run.paused.bind v.startOf).getD 0

/-- RESUME. DESIGN CHOICE (log entry 89). -/
def execResume (s : State) : Host.Outcome State Fault Refusal :=
  .next (s.takeOpc 0x08 fun u k =>
    let v := u.part k.part
    u.decideOn k [u.formBad k pauseForm [], offendIf (decide (k.w64 3 < u.now + 20000 ∨ k.w64 3 < v.pausePoint)) 0x03 3 0,
      u.lateBad pauseForm,
      stop (v.run.paused.isNone || v.run.resume.isSome || decide (u.mnt.td ≠ .track)) 0x07, stop (u.powerBad k.part) 0x46]
      (u.modPart k.part fun x => { x with run := { x.run with resume := some (k.w64 3, k.ref) } }))

/-- Every later time of the partition moves by D; the Mantel count of the launch moves with them. -/
def Part.shift (v : Part) (d : Nat) : Part :=
  { v with run := { v.run with t0 := v.run.t0 + d, paused := none, resume := none }, launch := { v.launch with t := v.launch.t + d } }
def Staged.shift (p d : Nat) (x : Staged) : Staged := if x.part = p then { x with due := x.due + d } else x

/-- RESUME_RESTART. -/
def execResumeRestart (p : Nat) (s : State) : Host.Outcome State Fault Refusal :=
  .next (let v := s.part p
    match v.run.resume with
    | none => s
    | some (r, ref) =>
      if s.now < r then s
      else
        let d := r - v.pausePoint
        let s1 := s.setPart p (v.shift d)
        let s2 := (List.range 16).foldl (fun u n => u.modPort n fun x => { x with tx := { x.tx with dbuf := x.tx.dbuf.map (Staged.shift p d) } }) s1
        s2.reply ref 0 [])

/-! ## CTX_RESET (R506, Table 18.6) -/

def ctxForm : Form := { len := 3, scope := 0, rsv := [], late := false }

/-- The reset begins: a running plan that has not halted is halted by a host-stop fault. DESIGN CHOICE (log entry 90). -/
def State.beginReset (s : State) (k : Pkt) : State :=
  let p := k.part
  let v := s.part p
  let s1 := if v.flt.resetting then s
    else
      let s0 := if v.running && !v.run.halted then s.raise p (FInfo.dev 0x1D 0 []) else s
      s0.modFlt p fun f => { f with resetting := true }
  s1.modCmd fun c => { c with resets := c.resets ++ [(p, k.ref)] }

/-- CTX_RESET. -/
def execCtxReset (s : State) : Host.Outcome State Fault Refusal :=
  .next (s.takeOpc 0x09 fun u k => u.decideOn k [u.formBad k ctxForm []] (u.beginReset k))

/-- Plan work of a partition on a port: staged departures and link-position flits are discarded and counted. -/
def Port.dropWork (v : Port) (mine : Nat → Bool) : Port :=
  let n := (v.tx.dbuf.filter fun x => mine x.part && !x.void).length + ((v.tx.lq.filter fun x => mine x.part).map fun x => (x.hdr, x.t0)).eraseDups.length
  let w := { v with tx := { v.tx with dbuf := v.tx.dbuf.filter (fun x => !mine x.part), lq := v.tx.lq.filter (fun x => !mine x.part) } }
  w.count .planDrop n

def PlanIn.part (x : PlanIn) : Nat := (Hdr.dec x.pkt.hdr).part

/-- A result digest entry, and a Larder slot, after a context reset (R438, R402). -/
def ResDig.cut (d : ResDig) : ResDig := { d with valid := false }
def LSlot.afterReset (x : LSlot) : LSlot :=
  if x.state = 4 then LSlot.reset else { x with refc := 0, state := if x.state = 1 then 3 else x.state }

/-- Values of the keys that a partition owns are changed; what becomes the default leaves the map. -/
def mapOwned {α : Type} [DecidableEq α] (d : α) (mine : Nat → Bool) (f : α → α) (m : SMap α) : SMap α :=
  m.filterMap fun (k, x) => if mine k then (if f x = d then none else some (k, f x)) else some (k, x)

/-- Every record of the partition becomes idle without output; its result digest is invalid. -/
def State.recordsReset (s : State) (p : Nat) : State :=
  let blk := fun r : Nat => decide (s.owner 4 (r / 256) = some p)
  { s with recs := mapOwned Record.reset blk (fun _ => Record.reset) s.recs,
           resd := mapOwned ResDig.reset blk ResDig.cut s.resd,
           larder := mapOwned LSlot.reset (fun n => decide (s.owner 5 (n / 16) = some p)) LSlot.afterReset s.larder }

/-- Counters that a context reset clears: those of Tables 12.14, 13.9 and 15.7, not those of Table 14.11 (R428). DESIGN CHOICE (log entry 90). -/
def keptCtrs (m : SMap Nat) : SMap Nat := m.filter fun kv => decide (ServCtr.wdBytes.idx ≤ kv.1 ∧ kv.1 ≤ ServCtr.whold.idx)

/-- A partition after a context reset. -/
def Part.afterReset (v : Part) : Part :=
  { v with launch := { Launch.reset with lid := v.launch.lid, t := v.launch.t }, run := { Run.reset with spent := v.plan.isSome },
           kids := [], rgen := [], rsig := [], arrived := [], ph := [], serv := { v.serv.fresh with ctr := keptCtrs v.serv.ctr },
           wts := { v.wts with ready := [], sched := [], reply := none, mgen := 0, mstep := 0, begun := [], dists := [], ordIn := [], confIn := [], repIn := [],
                               ringIn := [] },
           aud := { v.aud with wev := [], own := [], peer := [], lostOwn := [], lostPeer := [], peerIn := [], mans := [] },
           flt := { v.flt with resetting := false, first := none, held := none, secondary := false, noteSent := false, reported := false, notes := [],
                               repIn := [], hangDue := false },
           sh := { Shadow.reset with wlayers := v.sh.wlayers } }

/-- Commands of the partition that wait are answered with status 0x09. DESIGN CHOICE (log entry 90). -/
def State.endCommands (s : State) (p : Nat) : State :=
  let v := s.part p
  let refs := (s.cmd.waits.filter fun h => decide (h.ref.part = p)).map (·.ref) ++
    (s.cmd.dma.flatMap fun kv => (kv.2.filter fun d => decide (d.ref.part = p)).map (·.ref)) ++
    (s.cmd.loads.filter fun x => decide (x.part = p)).map (·.ref) ++
    v.launch.reply.toList ++ (v.launch.unarmed.map (·.reply)).toList ++ (v.run.pause.map (·.2)).toList ++ (v.run.resume.map (·.2)).toList ++
    v.wts.dists.filterMap (·.reply) ++ v.sh.start.toList ++ (v.sh.promote.bind (·.2)).toList
  let s1 := s.modCmd fun c => { c with waits := c.waits.filter fun h => decide (h.ref.part ≠ p),
                                       loads := c.loads.filter fun x => decide (x.part ≠ p),
                                       dma := (c.dma.map fun kv => (kv.1, kv.2.filter fun d => decide (d.ref.part ≠ p))).filter fun kv => !kv.2.isEmpty }
  refs.foldl (fun u r => u.reply r 0x09 []) s1

/-- Marl blocks of the partition's tiles leave their channels. -/
def Chan.drop (c : Chan) (mine : Nat → Bool) : Chan :=
  { c with plan := c.plan.filter (fun b => !mine b.tile), again := c.again.filter fun b => !mine b.1.tile }

/-- Removal of the partition's work (Table 18.6), and of its page lists (R360). -/
def State.removeWork (s : State) (p : Nat) : State :=
  let ts := s.tilesOf p
  let s9 : State := match s.servDesc p with
    | some d => ((s.part p).serv.npairs.map (·.1)).foldl (fun (u : State) r => u.freeRequest p r d) s
    | none => s
  let s0 := (s9.part p).wts.dists.foldl (fun u d => if d.refused then u else u.dropIntake p d) (s9.failSwap p)
  let s1 := (s0.endCommands p).recordsReset p
  let s2 := (ts.foldl (fun u t => u.modTile t fun v => { v.fresh with ctr := [] }) s1).tagsGood ts
  let s3 := (List.range 16).foldl (fun u n => u.modPort n fun v =>
    let w := v.dropWork (fun q => decide (q = p))
    { w with rx := { w.rx with planIn := w.rx.planIn.filter fun x => decide (x.part ≠ p) } }) s2
  let s4 := (List.range 8).foldl (fun u k => u.modStack k fun v =>
    { v with sweep := v.sweep.filter (fun w => decide (w.part ≠ p)), back := v.back.filter (fun x => !ts.contains x.blk.tile), chans := SMap.mapVals (fun c => c.drop ts.contains) v.chans }) s3
  let s5 := s4.modFab fun f => { f with onDie := f.onDie.filter fun x => decide (x.part ≠ p) }
  (s5.modPart p Part.afterReset).tdSettle

/-- CONTEXT_RESET_DONE: RES0 is the length of the hang record. DESIGN CHOICE (log entry 90). -/
def execContextResetDone (p : Nat) (s : State) : Host.Outcome State Fault Refusal :=
  .next (if !(s.part p).flt.resetting then s
    else
      let s1 := if (s.part p).flt.hangDue then s.collectHang p else s
      let n := (((s1.part p).flt.hang.map List.length).getD 0)
      let due := s1.cmd.resets.filter fun x => decide (x.1 = p)
      let s2 := s1.removeWork p
      due.foldl (fun u x => u.reply x.2 0 [word n]) (s2.modCmd fun c => { c with resets := c.resets.filter fun x => decide (x.1 ≠ p) }))

/-! ## SYNC_WAIT and SYNC_OP -/

/-- A sync word of the partition's Marl, or of a Loft of one of its tiles outside the Landing. -/
def State.syncPlace (s : State) (p a : Nat) : Bool :=
  match s.region a with
  | .marl .. => decide (s.ownerAt a = some p)
  | .loft t off => decide (s.owner 0 t = some p) && !inLanding off 8
  | _ => false

def Pkt.addr3 (k : Pkt) : Nat := k.w64 3 % 2 ^ 48
def syncWaitForm : Form := { len := 9, scope := 0, rsv := [(4, 16, 16), (7, 1, 31)], late := true }
def State.syncChecks (s : State) (k : Pkt) (f : Form) : List Refuse :=
  [s.formBad k f [], offendIf (decide (k.addr3 % 8 ≠ 0)) 0x03 3 0, offendIf (!s.syncPlace k.part k.addr3) 0x0A 3 0, s.lateBad f]

def State.waitOf (s : State) (k : Pkt) : HostWait :=
  let tmo := (k.w 8).toNat
  { ref := k.ref, addr := k.addr3, val := dword (k.w64 5), eq := flag (k.w 7) 0, till := if tmo = 0 then none else some (s.now + 1000 * tmo) }

/-- A wait that its word satisfies already is answered at once. -/
def State.startWait (s : State) (h : HostWait) : State :=
  let v := s.rdW h.addr
  if h.met v then s.reply h.ref 0 (lohi v.toNat) else s.modCmd fun c => { c with waits := c.waits ++ [h] }

/-- SYNC_WAIT. -/
def execSyncWait (s : State) : Host.Outcome State Fault Refusal :=
  .next (s.takeOpc 0x0A fun u k => u.decideOn k (u.syncChecks k syncWaitForm) (u.startWait (u.waitOf k)))

/-- HOST_SYNC_WAIT_TIMEOUT of wait `i`. -/
def execHostSyncWaitTimeout (i : Nat) (s : State) : Host.Outcome State Fault Refusal :=
  .next (match s.cmd.waits[i]? with
    | none => s
    | some h =>
      if h.till.any fun t => decide (t ≤ s.now) then
        (s.modCmd fun c => { c with waits := c.waits.eraseIdx i }).reply h.ref 0x0C []
      else s)

def syncOpForm : Form := { len := 8, scope := 0, rsv := [(4, 16, 16), (7, 1, 31)], late := true }

/-- The operation of a SYNC_OP at its word, ordered as a service packet (R324): its read of the word is checked (R182, R185), and after an
error it fails. The prior value is returned. DESIGN CHOICE (log entry 91). -/
def State.doSyncOp (s : State) (k : Pkt) : State :=
  let sset := flag (k.w 7) 0
  let g := s.syncGate k.addr3 sset
  if !g.1 then g.2.reply k.ref 0x0D []
  else
    let old := (g.2.rdW k.addr3).toNat
    (g.2.syncDo (some k.part) { kind := (if sset then 1 else 0), addr := k.addr3, x := dword (k.w64 5), y := 0 }).done k (lohi old)

/-- SYNC_OP: it waits at the front while an update of its word by a tile is due before it. -/
def execSyncOp (s : State) : Host.Outcome State Fault Refusal :=
  .next (s.takeOpc 0x0B fun u k =>
    u.decideOn k (u.syncChecks k syncOpForm) (if u.syncBehind k.addr3 then s else u.doSyncOp k))

end Sys2Proof.Machine
end

