-- ==== Sys2Proof/Machine/ServCmds.lean ====
section
/-! DEFINITION. The serving, Larder and weight commands of Table 16.7 (R464 to R466), taken on the lead or the head. -/

namespace Sys2Proof.Machine

/-! ## SRV_SUBMIT (R358, R389, R400) -/

/-- Word `i` of the record that a submit carries. -/
def Pkt.img (k : Pkt) (i : Nat) : Word := k.w (4 + i)
def Pkt.rcd (k : Pkt) : Nat := fld (k.w 3) 0 14

def submitForm : Form :=
  { len := 36, scope := 0, late := true,
    rsv := [(3, 14, 18), (4, 25, 7), (13, 16, 16), (15, 16, 16), (26, 11, 21), (27, 7, 1), (27, 15, 1), (27, 19, 1), (27, 23, 9), (35, 2, 30)] }

/-- Finite FP32 numbers: positive, and of either sign. -/
def finPos (w : Word) : Bool := decide (0 < w.toNat ∧ w.toNat < 0x7F800000)
def finite (w : Word) : Bool := decide (fld w 23 8 ≠ 0xFF)
def isZero (w : Word) : Bool := decide (w.toNat % 2 ^ 31 = 0)

/-- Fields out of range (Tables 12.4, 13.5), and fields of the device that are not 0, in the order of their words. DESIGN CHOICE (log entry 92). -/
def Pkt.fieldsBad (k : Pkt) : List Refuse :=
  let at_ := fun (bad : Bool) (w b : Nat) => offendIf bad 0x03 (4 + w) b
  let nz := fun w lo n : Nat => at_ (decide (fld (k.img w) lo n ≠ 0)) w lo
  [nz 0 0 3, nz 0 21 4, nz 2 0 32, nz 3 0 32, at_ (decide ((k.img 4).toNat = 0 ∨ 0xFFFF0000 < (k.img 4).toNat)) 4 0, at_ (decide (k.img 5 = 0)) 5 0,
   nz 6 0 32, nz 7 0 32, at_ (decide (fld (k.img 8) 0 8 ≠ 0)) 8 0, at_ (decide (fld (k.img 10) 0 8 ≠ 0)) 10 0,
   at_ (!(isZero (k.img 16) || finPos (k.img 16))) 16 0, at_ (decide (k.img 17 = 0 ∨ 0x3F800000 < (k.img 17).toNat)) 17 0,
   at_ (!(isZero (k.img 18) || decide ((k.img 18).toNat < 0x3F800000))) 18 0, at_ (!finPos (k.img 19)) 19 0, at_ (!finite (k.img 20)) 20 0,
   at_ (!finite (k.img 21)) 21 0, at_ (decide (1024 < fld (k.img 22) 0 11)) 22 0, at_ (decide (64 < fld (k.img 23) 0 7)) 23 0,
   nz 23 8 7, nz 23 16 3, nz 23 20 3, nz 28 0 32, nz 29 0 32, nz 30 0 32, nz 31 0 2]

/-- The record that an accepted submit makes. -/
def Pkt.newRecord (k : Pkt) (aseq : Nat) : Record :=
  let w0 := k.img 0
  { Record.reset with
    state := 1, cls := fld w0 3 3, dcls := fld w0 6 3, oport := fld w0 9 1, adpen := flag w0 10, adp := fld w0 11 10, tag := k.img 1, aseq := aseq,
    plen := (k.img 4).toNat, maxnew := (k.img 5).toNat, tmax := fld (k.img 23) 0 7,
    img := ((List.range 15).map (fun i => 8 + i) ++ (List.range 4).map (fun i => 24 + i)).foldl (fun m i => SMap.put 0 m i (k.img i)) [] }

def Pkt.adp (k : Pkt) : Nat := fld (k.img 0) 11 10
def Pkt.adpen (k : Pkt) : Bool := flag (k.img 0) 10

/-- DESIGN CHOICE (log entry 92). -/
def State.submitChecks (s : State) (k : Pkt) : List Refuse :=
  let p := k.part
  [s.formBad k submitForm [], offendIf (decide (s.owner 4 (k.rcd / 256) ≠ some p)) 0x06 3 0,
   offendIf (k.adpen && decide (s.owner 5 (k.adp / 16) ≠ some p)) 0x06 4 11] ++ k.fieldsBad ++
  [offendIf (!s.ownedMarl p (wd64 k.ws 12 % 2 ^ 48) (4 * (k.img 4).toNat)) 0x0A 12 0,
   offendIf (!s.ownedMarl p (wd64 k.ws 14 % 2 ^ 48) 0x6000) 0x0A 14 0,
   s.lateBad submitForm, stop (!s.isLead p || decide ((s.record k.rcd).state ≠ 0)) 0x07]

/-- The slot takes no submit. -/
def State.slotShut (s : State) (k : Pkt) : Bool := k.adpen && decide ((s.lslot k.adp).state ≠ 1 ∧ (s.lslot k.adp).state ≠ 2)

def LSlot.bind (x : LSlot) : LSlot := { x with refc := x.refc + 1 }

/-- The record is queued, its slot has one more request, its result digest is invalid, its mirror is written. DEDUCED (log entry 70). -/
def State.queueRecord (s : State) (k : Pkt) : State :=
  let p := k.part
  let n := (s.part p).serv.aseq
  let s1 := s.setRecord k.rcd (k.newRecord n)
  let s2 := s1.setResDig k.rcd { s1.resDig k.rcd with valid := false }
  let s3 := if k.adpen then s2.setLslot k.adp (s2.lslot k.adp).bind else s2
  ((s3.modServ p fun v => { v with aseq := (n + 1) % 2 ^ 32 }).writeMirror p k.rcd).done k [word n]

/-- SRV_SUBMIT. -/
def execSrvSubmit (s : State) : Host.Outcome State Fault Refusal :=
  .next (s.takeOpc 0x10 fun u k => u.decideOn k (u.submitChecks k)
    (if u.slotShut k then (u.servCount k.part .ldrBindRej 1).reply k.ref 0x07 [] else u.queueRecord k))

/-! ## SRV_CANCEL and SRV_RELEASE -/

def recordForm : Form := { len := 4, scope := 0, rsv := [(3, 14, 18)], late := true }
/-- A record command: its block is the partition's, and the device is the lead. -/
def State.recordChecks (s : State) (k : Pkt) : List Refuse :=
  [s.formBad k recordForm [], offendIf (decide (s.owner 4 (k.rcd / 256) ≠ some k.part)) 0x06 3 0, s.lateBad recordForm,
   stop (!s.isLead k.part) 0x07]

/-- SRV_CANCEL: applied at the next commit. -/
def execSrvCancel (s : State) : Host.Outcome State Fault Refusal :=
  .next (s.takeOpc 0x11 fun u k =>
    let st := (u.record k.rcd).state
    u.decideOn k (u.recordChecks k ++ [stop (decide (st = 0 ∨ 4 < st)) 0x07])
      ((u.modServ k.part fun v => { v with cancels := v.cancels ++ [k.rcd] }).done k []))

/-- SRV_RELEASE: a record that is done becomes idle. -/
def execSrvRelease (s : State) : Host.Outcome State Fault Refusal :=
  .next (s.takeOpc 0x12 fun u k =>
    u.decideOn k (u.recordChecks k ++ [stop (decide ((u.record k.rcd).state ≠ 6)) 0x07])
      ((u.setRecord k.rcd Record.reset).done k []))

/-! ## LDR_LOAD and LDR_RETIRE (R399, R401) -/

def Pkt.slot (k : Pkt) : Nat := fld (k.w 3) 0 10
def ldrLoadForm : Form := { len := 13, scope := 0, rsv := [(3, 10, 22), (4, 24, 8)], late := true }
/-- The slot's size of the partition's plan, in units of 64 KiB. -/
def State.slotUnits (s : State) (p : Nat) : Nat := (((s.part p).plan.bind (·.larder)).map fun l => 16 * l.2).getD 0

def Pkt.newSlot (k : Pkt) (refc : Nat) : LSlot :=
  { state := 1, refc := refc, len := fld (k.w 4) 0 24, dig := BitVec.ofNat 256 (leNat (wordsToBytes ((k.ws.drop 5).take 8))), good := false }

def State.ldrLoadChecks (s : State) (k : Pkt) : List Refuse :=
  let st := (s.lslot k.slot).state
  [s.formBad k ldrLoadForm [], offendIf (decide (s.owner 5 (k.slot / 16) ≠ some k.part)) 0x06 3 0,
   offendIf (decide (fld (k.w 4) 0 24 = 0) || (s.isLead k.part && decide (s.slotUnits k.part < fld (k.w 4) 0 24))) 0x03 4 0,
   s.lateBad ldrLoadForm, stop (!s.isLead k.part || decide (st ≠ 0 ∧ st ≠ 3)) 0x07]

/-- LDR_LOAD: the slot is loading until the distribution has reported. -/
def execLdrLoad (s : State) : Host.Outcome State Fault Refusal :=
  .next (s.takeOpc 0x13 fun u k => u.decideOn k (u.ldrLoadChecks k) ((u.setLslot k.slot (k.newSlot (u.lslot k.slot).refc)).done k []))

def ldrRetireForm : Form := { len := 4, scope := 0, rsv := [(3, 10, 22)], late := true }
def LSlot.retire (x : LSlot) : LSlot := if x.refc = 0 then LSlot.reset else { x with state := 4 }

/-- LDR_RETIRE: the slot is retired, or empty at once where no request holds it. -/
def execLdrRetire (s : State) : Host.Outcome State Fault Refusal :=
  .next (s.takeOpc 0x14 fun u k =>
    let st := (u.lslot k.slot).state
    u.decideOn k [u.formBad k ldrRetireForm [], offendIf (decide (u.owner 5 (k.slot / 16) ≠ some k.part)) 0x06 3 0,
      u.lateBad ldrRetireForm, stop (!u.isLead k.part || decide (st = 0 ∨ st = 4)) 0x07]
      ((u.setLslot k.slot (u.lslot k.slot).retire).done k []))

/-! ## WDIST and WSWAP (R465, R466) -/

def wdistForm : Form := { len := 5, scope := 0, rsv := [(4, 16, 16)], late := true }
/-- Bytes of the descriptor at an address. -/
def State.descBytes (s : State) (a : Nat) : Nat := 0x4040 + 80 * fld (wordAt (s.rd a 16) 2) 0 24

/-- WDIST. -/
def execWdist (s : State) : Host.Outcome State Fault Refusal :=
  .next (s.takeOpc 0x15 fun u k =>
    u.decideOn k [u.formBad k wdistForm [], offendIf (!(u.owned k.part k.addr3 16 && u.owned k.part k.addr3 (u.descBytes k.addr3))) 0x0A 3 0,
      u.lateBad wdistForm]
      (u.headDist k.part k.addr3 k.ref))

def wswapForm : Form := { len := 4, scope := 0, rsv := [(3, 16, 16)], late := true }

/-- A swap begins: the members are asked, or, with no plan running, told to copy at once. DESIGN CHOICE (log entry 74). -/
def State.startSwap (s : State) (k : Pkt) : State :=
  let p := k.part
  let g := k.lid 3
  let run := s.running p
  (s.modWts p fun w => { w with swst := (if run then 1 else 3), gnew := g, s := 0, ready := [], sched := [], reply := some k.ref }).swapOrder p
    (if run then 1 else 2) g 0

/-- WSWAP; a plan without a weight map cannot replace, and fails with the member status 3. DESIGN CHOICE (log entry 74). -/
def execWswap (s : State) : Host.Outcome State Fault Refusal :=
  .next (s.takeOpc 0x16 fun u k =>
    u.decideOn k [u.formBad k wswapForm [], offendIf (decide (k.lid 3 = 0)) 0x03 3 0, u.lateBad wswapForm, stop (!u.isLead k.part) 0x07,
      stop (decide ((u.part k.part).wts.swst ≠ 0)) 0x08]
      (if (u.wmapOf k.part).isNone then u.reply k.ref 0x0D [3, 0] else u.startSwap k))

end Sys2Proof.Machine
end

