-- ==== Sys2Proof/Machine/Binding.lean ====
section
/-! DEFINITION. BIND (R476 to R479): which units are held, the clear, and the binding. -/

namespace Sys2Proof.Machine

/-! ## What a plan names -/

/-- Ranges of memory that a plan names on this device. DESIGN CHOICE (log entry 94). -/
def State.planAreas (s : State) (p : Nat) (pl : Plan) : List (Nat × Nat) :=
  pl.init.map (fun b => (b.addr, b.data.length)) ++ pl.sync.map (fun w => (w.1, 8)) ++ pl.rafterWords.map (fun a => (a, 8)) ++
  pl.tiles.map (fun e => (e.entry, 256 * e.preload)) ++ pl.sweeps.flatMap pl.sweepAreas ++
  (if pl.ndev ≤ 1 then [] else [(pl.notebase, 0x1000), (pl.collbase, if (s.part p).ltRoot then 0x40000 else 0)]) ++
  (match pl.serv with
    | some d => (d.ordq, 0x20000) :: d.stks.flatMap d.areas
    | none => []) ++
  (match pl.wmap with
    | some m => (m.wctl, 0x80000) :: m.ents.flatMap WEnt.areas
    | none => []) ++
  match pl.larder with
  | some (b, mib) => ((List.range 64).filter fun i => decide (s.owner 5 i = some p)).map fun i => (b + 16 * i * mib * 2 ^ 20, 16 * mib * 2 ^ 20)
  | none => []

/-- A range touches Marl region `i`, or the Loft of tile `t`. -/
def touchesRegion (i : Nat) (a : Nat × Nat) : Bool := decide (a.1 < (i + 1) * 2 ^ 30 ∧ i * 2 ^ 30 < a.1 + a.2)
def touchesLoft (t : Nat) (a : Nat × Nat) : Bool := decide (a.1 < loftAddr (t + 1) 0 ∧ loftAddr t 0 < a.1 + a.2)

/-- The plan names a unit. -/
def State.planNames (s : State) (p : Nat) (pl : Plan) (kind i : Nat) : Bool :=
  match kind with
  | 0 => (pl.tiles.any fun e => decide (e.tile = i)) || (pl.serv.any fun d => decide (d.mtile = i)) ||
      (pl.masks.any fun m => decide (m.grp = i / 64) && m.mask.getLsbD (i % 64)) || (s.planAreas p pl).any (touchesLoft i)
  | 1 => (s.planAreas p pl).any (touchesRegion i) || (pl.serv.any fun d => (d.stks[i / 48]?).any fun k => bit k.pool (i % 48))
  | 3 => pl.linkPorts.contains i || pl.routes.any fun r => decide (r.2 = i)
  | _ => false

/-- Plans of a partition: loaded, and in load. -/
def State.plansIn (s : State) (p : Nat) : List Plan := (s.part p).plan.toList ++ (s.cmd.loads.filter fun x => decide (x.part = p)).map (·.plan)

/-- A loaded plan sweeps the stack (R218). -/
def State.sweptStack (s : State) (k : Nat) : Bool := s.parts.any fun kv => kv.2.plan.any fun pl => pl.sweeps.any fun w => decide (w.stack = k)

/-- A unit is held (R477). -/
def State.held (s : State) (kind i : Nat) : Bool :=
  match s.owner kind i with
  | none => decide (kind = 1) && s.sweptStack (i / 48)
  | some p =>
    (s.plansIn p).any (fun pl => s.planNames p pl kind i) || (decide (kind = 1) && s.sweptStack (i / 48)) ||
    (decide (kind = 1) && (s.part p).wts.swapping && (s.wmapOf p).any fun m => ((m.wctl, 0x80000) :: m.ents.flatMap WEnt.areas).any (touchesRegion i)) ||
    (decide (kind = 2 ∨ kind = 4 ∨ kind = 5) && (s.part p).plan.any fun pl => pl.serv.isSome)

/-- The retirement list holds a unit of a KIND. -/
def State.retiredUnit (s : State) (kind i : Nat) : Bool :=
  match kind with
  | 0 => s.hrt.retired.contains (0, s.physTile i)
  | 1 => s.hrt.retired.contains (2, s.physStack (i / 48)) || s.hrt.retired.contains (5, 48 * s.physStack (i / 48) + i % 48)
  | 2 => s.hrt.retired.contains (6, i)
  | 3 => s.hrt.retired.contains (3, s.physPort i)
  | _ => false

/-! ## BIND -/

def bindForm : Form := { len := 6, scope := 1, rsv := [(3, 4, 4), (3, 14, 18), (4, 16, 16), (5, 16, 16)], late := false }
def Pkt.kind (k : Pkt) : Nat := fld (k.w 3) 0 3
def Pkt.unb (k : Pkt) : Bool := flag (k.w 3) 3
def Pkt.tpart (k : Pkt) : Nat := fld (k.w 3) 8 6
def Pkt.first (k : Pkt) : Nat := fld (k.w 4) 0 16
def Pkt.count (k : Pkt) : Nat := fld (k.w 5) 0 16
/-- The logical units that a BIND names. -/
def Pkt.units (k : Pkt) : List Nat := (List.range k.count).map fun i => k.first + i

def State.bindChecks (s : State) (k : Pkt) : List Refuse :=
  let n := s.unitCount k.kind
  [s.formBad k bindForm [offendIf (decide (5 < k.kind)) 0x01 3 0],
   offendIf (decide (n ≤ k.first)) 0x04 4 0, offendIf (decide (n < k.first + k.count)) 0x04 5 0, offendIf (decide (k.count = 0)) 0x03 5 0,
   stop (decide (k.kind = 1 ∨ k.kind = 2) && s.early) 0x07,
   stop (k.units.any fun i => s.clearing k.kind i || s.retiredUnit k.kind i) 0x07, stop (k.units.any fun i => s.held k.kind i) 0x08]

/-- CLR = 1 and BOUND = 0. DESIGN CHOICE (log entry 94). -/
def State.startClear (s : State) (kind i : Nat) : State := s.setBind kind i (s.bindEntry kind i % 64 + 128)

/-- Every unit named that is not already as asked begins to be cleared. -/
def State.beginBind (s : State) (k : Pkt) : State :=
  let us := k.units.filter fun i => k.unb || decide (s.owner k.kind i ≠ some k.tpart)
  let s1 := us.foldl (fun u i => u.startClear k.kind i) s
  s1.modCmd fun c => { c with binds := c.binds ++ [{ ref := k.ref, units := us.map fun i => (k.kind, i), tpart := k.tpart, unb := k.unb }] }

/-- BIND. -/
def execBind (s : State) : Host.Outcome State Fault Refusal :=
  .next (s.takeOpc 0x20 fun u k => u.decideOn k (u.bindChecks k) (u.beginBind k))

/-! ## The clear (Table 17.1) -/

/-- A tile after its clear: as after reset, but for the clocks it counts. -/
def Tile.cleared (v : Tile) : Tile :=
  { Tile.reset with tim := { TileTime.reset with cb := v.tim.cb, pb := v.tim.pb }, kat := v.kat, katAt := v.katAt, drained := true }

def State.clearUnit (s : State) (kind i : Nat) : State :=
  match kind with
  | 0 => ((s.clearMem (loftAddr i 0) 0x100000).modTile i Tile.cleared).tagsGood [i]
  | 1 => s.clearMem (i * 2 ^ 30) (2 ^ 30)
  | 2 =>
    let s1 := s.clearMem (cellarAddr (i * 2 ^ 34)) (2 ^ 34)
    { s1 with valid := SMap.clear s1.valid (i * 2 ^ 18) (2 ^ 18) }
  | 3 => s.modPort i fun v => v.dropWork fun _ => true
  | 4 =>
    let mine := fun r : Nat => decide (r / 256 = i)
    { s with recs := mapOwned Record.reset mine (fun _ => Record.reset) s.recs, resd := mapOwned ResDig.reset mine ResDig.cut s.resd }
  | _ => { s with larder := SMap.clear s.larder (16 * i) 16 }

/-- A cleared unit takes its binding. DESIGN CHOICE (log entry 94). -/
def State.finishUnit (s : State) (b : Binding) (x : Nat × Nat) : State :=
  (s.clearUnit x.1 x.2).setBind x.1 x.2 (b.tpart + put1 (!b.unb) 6)

/-- BIND_CLEAR_DONE: the oldest BIND completes. DESIGN CHOICE (log entry 94). -/
def execBindClearDone (s : State) : Host.Outcome State Fault Refusal :=
  .next (match s.cmd.binds with
    | [] => s
    | b :: r => (b.units.foldl (fun u x => u.finishUnit b x) (s.modCmd fun c => { c with binds := r })).reply b.ref 0 [word b.units.length])

end Sys2Proof.Machine
end

