-- ==== Sys2Proof/Machine/Security.lean ====
section
/-! DEFINITION. The Hearth commands (spec/17): keys, identity and reports, debug, firmware, lifecycle, power states, and DBG_PHYS. -/

namespace Sys2Proof.Machine

/-! ## Keys -/

def pkeyForm : Form := { len := 11, scope := 0, rsv := [], late := false }
/-- 256 bits from word `i` of a packet. -/
def Pkt.w256 (k : Pkt) (i : Nat) : BitVec 256 := BitVec.ofNat 256 (leNat (wordsToBytes ((k.ws.drop i).take 8)))
/-- A plan is loaded in the partition, or in load. -/
def State.hasPlan (s : State) (p : Nat) : Bool := (s.part p).plan.isSome || s.loadingIn p

/-- PKEY_SET (R488): the partition debug unlock ends. -/
def execPkeySet (s : State) : Host.Outcome State Fault Refusal :=
  .next (s.takeOpc 0x21 fun u k =>
    u.decideOn k [u.formBad k pkeyForm [], offendIf (!k.pf) 0x06 2 8, stop (u.hasPlan k.part) 0x07]
      ((u.modPart k.part fun v => { v with pkdig := k.w256 3, dbg := false }).done k []))

/-! ## Identity and reports (R484 to R486) -/

def State.cdi (s : State) : BitVec 256 :=
  digest256 (toLE 32 Config.uds.toNat ++ toLE 32 s.hrt.fwdig.toNat ++ [byte s.hrt.lc] ++ toLE 2 s.hrt.svnRun)
/-- The seed of the Alias key: SHAKE256(CDI, "ALIAS"). -/
def State.aliasSeed (s : State) : BitVec 256 := digest256 (toLE 32 s.cdi.toNat ++ [0x41, 0x4C, 0x49, 0x41, 0x53])

/-- The binding table as a partition sees it. -/
def State.bindView (s : State) (p : Nat) : List Byte :=
  (List.range 0x390).map fun i =>
    let e := (SMap.get 0 s.hrt.bind i).toNat
    if bit e 6 && decide (bits e 0 6 = p) then byte e else 0

/-- Bytes 0 to 207 of an attestation report (Table 17.4); without a partition its fields are 0. -/
def State.reportHead (s : State) (p? : Option Nat) (nonce : BitVec 256) : List Byte :=
  let p := p?.getD 0
  let dbg := if s.hrt.dbgDev then 2 else if p?.any fun q => (s.part q).dbg then 1 else 0
  let w32 := toLE 4
  let plan := ((p?.bind fun q => (s.part q).plan).map fun pl => pl.pdig.toNat).getD 0
  let key := (p?.map fun q => (s.part q).pkdig.toNat).getD 0
  let bnd := (p?.map fun q => (digest256 (s.bindView q)).toNat).getD 0
  w32 1 ++ w32 (s.hrt.lc + dbg * 2 ^ 2 + s.pwr.state * 2 ^ 4 + p * 2 ^ 8) ++ toLE 32 nonce.toNat ++ toLE 16 Config.serial.toNat ++
  w32 (s.hrt.id.grade + Config.stepping.toNat * 2 ^ 8 + 2 ^ 16) ++ w32 (s.hrt.svnRun + s.hrt.svnFloor * 2 ^ 16) ++ toLE 32 s.hrt.fwdig.toNat ++
  toLE 32 plan ++ toLE 32 key ++ toLE 32 bnd ++ toLE 8 s.now ++ zeros 8

/-- The whole report, signed with the Alias key. -/
def State.report (s : State) (p? : Option Nat) (nonce : BitVec 256) : List Byte :=
  let h := s.reportHead p? nonce
  fit 3584 (h ++ fit 3309 (Config.mldsaSign s.aliasSeed h))

def attestForm : Form := { len := 13, scope := 2, rsv := [], late := false }
/-- ATTEST. -/
def execAttest (s : State) : Host.Outcome State Fault Refusal :=
  .next (s.takeOpc 0x22 fun u k =>
    u.decideOn k [u.formBad k attestForm [], offendIf (decide (k.w64 11 % 256 ≠ 0)) 0x03 11 0]
      ((u.hostWr (k.w64 11) (u.report (if k.scope = 1 then none else some k.part) (k.w256 3))).done k []))

/-- The certificate that WHICH names. -/
def State.cert (s : State) (isAlias : Bool) : List Byte := if isAlias then Config.certAlias s.hrt.fwdig s.hrt.svnRun s.hrt.lc else Config.certDevice
def certForm : Form := { len := 6, scope := 2, rsv := [(3, 1, 31)], late := false }
/-- CERT_GET. -/
def execCertGet (s : State) : Host.Outcome State Fault Refusal :=
  .next (s.takeOpc 0x23 fun u k =>
    let c := u.cert (flag (k.w 3) 0)
    u.decideOn k [u.formBad k certForm [], offendIf (decide (k.w64 4 % 256 ≠ 0)) 0x03 4 0] ((u.hostWr (k.w64 4) c).done k [word c.length]))

/-! ## Debug (R490, R491, R468) -/

def levelForm (level : Nat) : Form := { len := 4, scope := level, rsv := [(3, 1, 31)], late := false }
/-- Set or consume the challenge of a level. -/
def State.setChal (s : State) (level p : Nat) (c : Option (BitVec 256)) : State :=
  if level = 1 then s.modHrt fun h => { h with chal := c } else s.modPart p fun v => { v with chal := c }
def State.chal (s : State) (level p : Nat) : Option (BitVec 256) := if level = 1 then s.hrt.chal else (s.part p).chal

/-- DBG_CHAL: a fresh nonce replaces the challenge of its level and PART. -/
def execDbgChal (s : State) : Host.Outcome State Fault Refusal :=
  .next (s.takeOpc 0x24 fun u k =>
    let level := fld (k.w 3) 0 1
    let n := Config.nonce u.free
    u.decideOn k [u.formBad k (levelForm level) []]
      ((({ u with free := u.free + 1 }).setChal level k.part (some n)).done k (bytesToWords (toLE 32 n.toNat) 8)))

/-- The status of a token of 5,440 bytes for a level and a partition (R490). DESIGN CHOICE (log entry 93). -/
def State.tokenBad (s : State) (tok : List Byte) (level p : Nat) : Nat :=
  let h := tok.take 64
  let pk := (tok.drop 64).take 1952
  let sig := (tok.drop (64 + 1952)).take 3309
  let key := if level = 1 then Config.dbgKeyDig else (s.part p).pkdig
  if s.chal level p ≠ some (BitVec.ofNat 256 (natAt h 20 32)) then 0x44
  else if natAt h 4 16 ≠ Config.serial.toNat ∨ fld (wordAt h 0) 8 6 ≠ p then 0x45
  else if digest256 pk ≠ key then 0x41
  else if !Config.mldsaVerify pk h sig then 0x40
  else 0

/-- A reserved bit of a token's header is not 0. -/
def tokenReserved (tok : List Byte) : Bool :=
  decide (fld (wordAt tok 0) 1 7 ≠ 0 ∨ fld (wordAt tok 0) 14 18 ≠ 0 ∨ natAt tok 52 12 ≠ 0)

/-- An unlock of a level. -/
def State.setDebug (s : State) (level p : Nat) (on : Bool) : State :=
  if level = 1 then s.modHrt fun h => { h with dbgDev := on } else s.modPart p fun v => { v with dbg := on }

def unlockForm (level : Nat) : Form := { len := 5, scope := level, rsv := [], late := false }
/-- DBG_UNLOCK: the challenge is consumed whether the token passes or fails. DESIGN CHOICE (log entry 93). -/
def execDbgUnlock (s : State) : Host.Outcome State Fault Refusal :=
  .next (s.takeOpc 0x25 fun u k =>
    let tok := u.hostRd (k.w64 3) 5440
    let level := fld (wordAt tok 0) 0 1
    let st := u.tokenBad tok level k.part
    let u1 := u.setChal level k.part none
    u.decideOn k [u.formBad k (unlockForm level) [], offendIf (decide (k.w64 3 % 256 ≠ 0)) 0x03 3 0, offendIf (tokenReserved tok) 0x01 3 0,
      stop (decide (level = 1 ∧ u.hrt.lc = 2) && u.anyPlan) 0x08]
      (if st ≠ 0 then u1.reply k.ref st [] else (u1.setDebug level k.part true).done k []))

/-- DBG_LOCK. -/
def execDbgLock (s : State) : Host.Outcome State Fault Refusal :=
  .next (s.takeOpc 0x26 fun u k =>
    let level := fld (k.w 3) 0 1
    u.decideOn k [u.formBad k (levelForm level) []] ((u.setDebug level k.part false).done k []))

/-- Every unlock ends (Table 17.8). -/
def State.endUnlocks (s : State) : State :=
  { s.modHrt (fun h => { h with dbgDev := false }) with parts := mapOwned Part.reset (fun _ => true) (fun v => { v with dbg := false }) s.parts }

def physForm : Form := { len := 5, scope := 1, rsv := [(3, 3, 29), (4, 8, 24)], late := false }
/-- Physical units of a KIND. -/
def physCount : Nat → Nat
  | 0 => 256 | 1 => 16 | 2 => 8 | 3 => 16 | _ => 48

def State.fused (s : State) (kind i : Nat) : Bool :=
  match kind with
  | 0 => s.hrt.fuseT.contains i
  | 2 => s.hrt.fuseS.contains i
  | 3 => s.hrt.fuseP.contains i
  | _ => false

/-- The logical number of a physical unit, if it is usable. -/
def State.logicalOf (s : State) (kind i : Nat) : Option Nat :=
  let at_ := fun (l : List Nat) (k : Nat) => if s.hrt.retired.contains (k, i) then none else l.findIdx? fun x => decide (x = i)
  match kind with
  | 0 => at_ s.hrt.id.tiles 0
  | 1 => some i
  | 2 => at_ s.hrt.id.stks 2
  | 3 => at_ s.hrt.id.ports 3
  | _ => if s.hrt.id.badDoors.contains i ∨ s.hrt.retired.contains (4, i) then none else some i

/-- DBG_PHYS. DESIGN CHOICE (log entry 93). -/
def execDbgPhys (s : State) : Host.Outcome State Fault Refusal :=
  .next (s.takeOpc 0x18 fun u k =>
    let kind := fld (k.w 3) 0 3
    let i := fld (k.w 4) 0 8
    u.decideOn k [u.formBad k physForm [offendIf (decide (4 < kind)) 0x01 3 0], offendIf (!u.hrt.dbgDev) 0x06 0 0,
      offendIf (decide (physCount kind ≤ i)) 0x03 4 0, stop (u.fused kind i) 0x05]
      (u.done k (match u.logicalOf kind i with
        | some n => [word n, 0]
        | none => [0xFFFFFFFF, 1])))

/-! ## Firmware (R481 to R483) -/

def fwForm : Form := { len := 6, scope := 1, rsv := [], late := false }
/-- An image less its trailer; its digest; its SVN. -/
def imageBody (img : List Byte) : List Byte := img.take (img.length - 5376)
def imageSvn (img : List Byte) : Nat := natAt img 8 2

/-- Stage 4 of Table 17.3 and the SVN floor: the status of an image, 0 if it passes. DESIGN CHOICE (log entry 93). -/
def fwStatus (img : List Byte) (floor : Nat) : Nat :=
  let t := img.drop (img.length - 5376)
  let pk := t.take 1952
  let dig := toLE 32 (digest256 (imageBody img)).toNat
  if !Config.mldsaVerify pk dig ((t.drop 1952).take 3309) then 0x40
  else if digest256 pk ≠ Config.fwKeyDig then 0x41
  else if imageSvn img < floor then 0x42
  else 0

/-- FW_UPDATE: the image is verified before anything is erased; then the flash is written. -/
def execFwUpdate (s : State) : Host.Outcome State Fault Refusal :=
  .next (s.takeOpc 0x27 fun u k =>
    let n := (k.w 5).toNat
    let img := u.hostRd (k.w64 3) (256 * n)
    let st := fwStatus img u.hrt.svnFloor
    u.decideOn k [u.formBad k fwForm [], offendIf (decide (k.w64 3 % 256 ≠ 0)) 0x03 3 0, offendIf (decide (n < 22 ∨ 0x20000 < n)) 0x03 5 0,
      stop (u.anyPlan || !u.cmd.loads.isEmpty || u.cmd.fwup.isSome) 0x08]
      (if st ≠ 0 then u.reply k.ref st []
       else (u.modCmd fun c => { c with fwup := some (k.ref, img) }).modHrt fun h => { h with torn := true }))

/-- FW_FLASH_WRITE_DONE. -/
def execFwFlashWriteDone (ok : Bool) (s : State) : Host.Outcome State Fault Refusal :=
  .next (match s.cmd.fwup with
    | none => s
    | some (ref, img) =>
      let s1 := s.modCmd fun c => { c with fwup := none }
      if ok then (s1.modHrt fun h => { h with image := img, torn := false }).reply ref 0 [] else s1.reply ref 0x47 [])

def svnForm : Form := { len := 3, scope := 1, rsv := [], late := false }
/-- SVN_COMMIT: the floor never falls. -/
def execSvnCommit (s : State) : Host.Outcome State Fault Refusal :=
  .next (s.takeOpc 0x2A fun u k =>
    u.decideOn k [u.formBad k svnForm []] ((u.modHrt fun h => { h with svnFloor := max h.svnFloor h.svnRun }).done k []))

/-! ## Lifecycle (R489) -/

def lcForm : Form := { len := 6, scope := 1, rsv := [(3, 2, 30)], late := false }
/-- The lifecycle state may be left for the target. -/
def lcLeaves (lc target : Nat) : Bool := decide ((lc = 1 ∧ (target = 2 ∨ target = 3)) ∨ (lc = 2 ∧ target = 3))

/-- LC_ADVANCE: the transition is fused and takes effect at the next device reset. DESIGN CHOICE (log entry 93). -/
def execLcAdvance (s : State) : Host.Outcome State Fault Refusal :=
  .next (s.takeOpc 0x28 fun u k =>
    let t := fld (k.w 3) 0 2
    let st := u.tokenBad (u.hostRd (k.w64 4) 5440) 1 0
    let u1 := if t = 3 then u.setChal 1 0 none else u
    u.decideOn k [u.formBad k lcForm [offendIf (decide (t < 2)) 0x01 3 0], offendIf (decide (t = 3) && tokenReserved (u.hostRd (k.w64 4) 5440)) 0x01 4 0,
      offendIf (decide (t = 2 ∧ k.w64 4 ≠ 0)) 0x03 4 0,
      stop (!lcLeaves u.hrt.lc t) 0x43, stop (decide (u.hrt.pend ≠ 0)) 0x07]
      (if t = 3 ∧ fld (wordAt (u.hostRd (k.w64 4) 4) 0) 0 1 ≠ 1 then u1.reply k.ref 0x45 []
       else if t = 3 ∧ st ≠ 0 then u1.reply k.ref st []
       else (u1.modHrt fun h => { h with pend := t }).done k []))

/-! ## Power states (R493, R494, R521) -/

/-- No partition runs a plan but is paused. -/
def State.allPaused (s : State) : Bool := s.parts.all fun kv => !kv.2.running || kv.2.run.paused.isSome

/-- The entry condition of a power state does not hold. -/
def State.powerHeld (s : State) (st : Nat) : Bool :=
  let cur := s.pwr.state
  if st = cur then false
  else if (cur = 2 ∨ cur = 3) ∧ st ≠ 0 then true
  else match st with
    | 0 => s.pwr.rsvc || !s.pwr.full
    | 1 => s.anyRunning
    | 2 => !s.allPaused
    | 3 => s.anyPlan || !s.cmd.loads.isEmpty
    | _ => false

/-- A tile whose Room is off: only its Loft is retained (Table 17.7), and what waits for it. DEDUCED (log entry 25). -/
def Tile.off (v : Tile) : Tile := { v.cleared with svc := v.svc, wback := v.wback }

/-- Entering P3: tiles off, ports DOWN, discipline UNLOCKED, unlocks ended. DEDUCED (log entry 25). -/
def State.enterP3 (s : State) : State :=
  let s0 := (List.range s.nTiles).foldl (fun u t => u.modTile t Tile.off) s
  let s1 := (List.range 16).foldl (fun u n => u.enterDown n 7) s0
  (s1.modMnt fun m => { m with td := .unlocked, altUse := false, okRun := 0 }).endUnlocks
/-- Leaving P3: ports train again, and discipline begins again. DEDUCED (log entry 25). -/
def State.leaveP3 (s : State) : State :=
  let s1 := (List.range 16).foldl (fun u n => u.enterTrain n) s
  (s1.modMnt Mnt.masterTrack).tdSettle
/-- PWR_SET 4: the device is quiesced and asks for power-off (R539). DEDUCED (log entry 25). -/
def State.enterP4 (s : State) : State :=
  (s.modPwr fun w => { w with quiesced := true, offReq := true, offAt := s.mnt.up }).endUnlocks

/-- Enter a power state. DEDUCED (log entry 25). -/
def State.powerTo (s : State) (st : Nat) : State :=
  let was := s.pwr.state
  let s1 := s.modPwr fun w => { w with state := st }
  if st = was then s
  else if st = 3 then s1.enterP3
  else if st = 4 then s1.enterP4
  else if was = 3 then s1.leaveP3
  else s1

def pwrForm : Form := { len := 4, scope := 1, rsv := [(3, 3, 29)], late := false }
/-- PWR_SET. -/
def execPwrSet (s : State) : Host.Outcome State Fault Refusal :=
  .next (s.takeOpc 0x29 fun u k =>
    let st := fld (k.w 3) 0 3
    u.decideOn k [u.formBad k pwrForm [offendIf (decide (4 < st)) 0x01 3 0], stop (u.powerHeld st) 0x08] ((u.powerTo st).done k []))

end Sys2Proof.Machine
end

