-- ==== Sys2Proof/Machine/RecovCmds.lean ====
section
/-! DEFINITION. The fault and recovery commands of Table 18.8: hang records (R505), self-tests by command (R508), the retirement list
(R509), and the commands of shadowing (R512 to R515). -/

namespace Sys2Proof.Machine

/-! ## HANG_GET, SELFTEST, RETIRE_GET -/

def hangForm : Form := { len := 5, scope := 0, rsv := [], late := false }
/-- HANG_GET: the latest hang record of the partition goes to host memory; 0x60 if there is none. -/
def execHangGet (s : State) : Host.Outcome State Fault Refusal :=
  .next (s.takeOpc 0x30 fun u k =>
    u.decideOn k [u.formBad k hangForm [], offendIf (decide (k.w64 3 % 256 ≠ 0)) 0x03 3 0]
      (match (u.part k.part).flt.hang with
        | some h => (u.hostWr (k.w64 3) h).done k [word h.length]
        | none => u.reply k.ref 0x60 []))

/-- A KIND of DBG_PHYS as the self-tests and the retirement list number it (Table 18.7). -/
def testKind : Nat → Option Nat
  | 0 => some 5
  | 2 => some 6
  | 3 => some 7
  | 4 => some 4
  | _ => none

/-- Units that SELFTEST may name: logical tiles, Rooms, stacks, ports, Doorways. -/
def State.testCount (s : State) : Nat → Nat
  | 0 => s.nTiles
  | 1 => 16
  | 2 => s.nStacks
  | 3 => s.nPorts
  | _ => 48

/-- The unit is one that a running plan uses. Every running plan uses the Doorways. DESIGN CHOICE (log entry 80). -/
def State.inUse (s : State) (kind i : Nat) : Bool :=
  let byOwner := fun k n : Nat => (s.owner k n).any s.running
  match kind with
  | 0 => byOwner 0 i
  | 1 => (List.range s.nTiles).any fun t => decide (s.roomOf t = i) && byOwner 0 t
  | 2 => (List.range 48).any fun r => byOwner 1 (48 * i + r)
  | 3 => byOwner 3 i
  | _ => s.anyRunning

/-- The outcome of a commanded test: counted by no counter of errors; a unit that fails is repaired or retired as Table 18.7 sets.
DESIGN CHOICE (log entry 80). -/
def State.testOutcome (s : State) (kind i : Nat) (pass : Bool) : State :=
  let s1 := s.writeEvent 0 (if pass then 1 else 2) [word ((testKind kind).getD 8), word i]
  match testKind kind with
  | some n => if pass then s1 else s1.repair n i
  | none => s1

def selftestForm : Form := { len := 5, scope := 1, rsv := [(3, 3, 29), (4, 16, 16)], late := false }
/-- SELFTEST: RES0 is 0 for a pass and 1 for a fail. DESIGN CHOICE (log entry 80). -/
def execSelftest (pass : Bool) (s : State) : Host.Outcome State Fault Refusal :=
  .next (s.takeOpc 0x31 fun u k =>
    let kind := fld (k.w 3) 0 3
    let i := fld (k.w 4) 0 16
    u.decideOn k [u.formBad k selftestForm [offendIf (decide (4 < kind)) 0x01 3 0], offendIf (decide (u.testCount kind ≤ i)) 0x04 4 0,
      stop (u.inUse kind i) 0x08]
      ((u.testOutcome kind i pass).done k [if pass then 0 else 1]))

/-- The retirement list as RETIRE_GET writes it: 256 entries of 8 B, whose coding the manual does not give. DESIGN CHOICE (log entry 81). -/
def Hearth.retireBytes (h : Hearth) : List Byte :=
  (List.range 256).flatMap fun i => toLE 8 (Config.retireEntry (h.retired[i]?)).toNat

def retireForm : Form := { len := 5, scope := 1, rsv := [], late := false }
/-- RETIRE_GET: RES0 is the number of entries used. DESIGN CHOICE (log entry 81). -/
def execRetireGet (s : State) : Host.Outcome State Fault Refusal :=
  .next (s.takeOpc 0x32 fun u k =>
    u.decideOn k [u.formBad k retireForm []] ((u.hostWr (k.w64 3) u.hrt.retireBytes).done k [word u.hrt.retired.length]))

/-! ## Shadowing -/

/-- The partition's plan names this device as S and another as W. -/
def State.spareOfPair (s : State) (p w : Nat) : Bool :=
  match (s.part p).plan with
  | some pl => pl.shadow && decide (pl.shs = s.me) && decide (pl.shw = w)
  | none => false

/-- S asks W to be shadowed. -/
def State.shadowAsk (s : State) (p w : Nat) (r : CmdRef) : State :=
  (s.modSh p fun h => { h with start := some r, peer := w, mat := 0, verified := false, own := [], other := [], otherIn := [], wlayers := [] }).shadowSend
    p w false [4, 0]

def shadowStartForm : Form := { len := 4, scope := 0, rsv := [(3, 16, 16)], late := false }
/-- SHADOW_START: the reply comes after W acknowledges. -/
def execShadowStart (s : State) : Host.Outcome State Fault Refusal :=
  .next (s.takeOpc 0x33 fun u k =>
    let w := fld (k.w 3) 0 16
    let v := u.part k.part
    u.decideOn k [u.formBad k shadowStartForm [], stop (!u.spareOfPair k.part w) 0x63,
      stop (v.running || decide (v.sh.role ≠ 0) || v.sh.start.isSome) 0x07] (u.shadowAsk k.part w k.ref))

/-- The pinned start of K is too near, or is past, or the plan has no course K. A serving plan's K may yet be composed.
DESIGN CHOICE (log entry 77). -/
def Part.promoteLate (v : Part) (now k : Nat) : Bool :=
  match v.startOf k with
  | some b => decide (b < now + 100000)
  | none => decide (k < v.run.course) || !(v.plan.any fun pl => pl.serv.isSome)

/-- S asks W for the promotion at K. -/
def State.promoteAsk (s : State) (p k : Nat) (r : CmdRef) : State :=
  (s.modSh p fun h => { h with promote := some (k, some r), acked := false }).shadowSend p (s.part p).sh.peer true [2, word k]

def shadowPromoteForm : Form := { len := 5, scope := 0, rsv := [], late := false }
/-- SHADOW_PROMOTE: the reply comes at K, or at refusal. DESIGN CHOICE (log entry 77). -/
def execShadowPromote (s : State) : Host.Outcome State Fault Refusal :=
  .next (s.takeOpc 0x34 fun u k =>
    let c := k.w64 3
    let v := u.part k.part
    u.decideOn k [u.formBad k shadowPromoteForm [], stop (decide (v.sh.role ≠ 1 ∧ v.sh.role ≠ 2)) 0x63, offendIf (v.promoteLate u.now c) 0x03 3 0,
      stop (!v.sh.verified) 0x61, stop v.sh.promote.isSome 0x07, stop (v.run.halted) 0x62] (u.promoteAsk k.part c k.ref))

/-- Shadowing ends: a promotion that waits is refused, and the partner is told. After K the roles stand. -/
def State.shadowEnd (s : State) (p : Nat) : State :=
  let v := s.part p
  if v.sh.role = 3 ∨ v.sh.role = 5 then s
  else
    let s1 := match v.sh.promote with
      | some (_, some r) => s.reply r 0x61 []
      | _ => s
    (s1.shadowSend p v.sh.peer false [7, 0]).modSh p fun h => { h with role := 0, promote := none, acked := false }

def shadowStopForm : Form := { len := 3, scope := 0, rsv := [], late := false }
/-- SHADOW_STOP: answered on taking. -/
def execShadowStop (s : State) : Host.Outcome State Fault Refusal :=
  .next (s.takeOpc 0x35 fun u k =>
    u.decideOn k [u.formBad k shadowStopForm [], stop (decide ((u.part k.part).sh.role = 0)) 0x63] ((u.shadowEnd k.part).done k []))

end Sys2Proof.Machine
end

