-- ==== Sys2Proof/Machine/Bringup.lean ====
section
/-! DEFINITION. Resets and their causes (R480, R531, R538 to R540, R545), the stages of bring-up (R517 to R523), Hearth's boot (R480),
numbering and grades (R2, R16, R25, R509, R526), PERST# (R518, R531, R534), and telemetry (R530, R545). -/

namespace Sys2Proof.Machine

/-! ## Commands cut off by the reset of a host port (R531) -/

/-- A command whose port has been reset. -/
def CmdRef.cut (r : CmdRef) (hp : Nat) : CmdRef := if r.hp = hp then { r with hp := 2 } else r

def Part.cut (v : Part) (hp : Nat) : Part :=
  let c := fun r : CmdRef => r.cut hp
  { v with launch := { v.launch with reply := v.launch.reply.map c, unarmed := v.launch.unarmed.map fun u => { u with reply := c u.reply } },
           run := { v.run with pause := v.run.pause.map fun x => (x.1, c x.2), resume := v.run.resume.map fun x => (x.1, c x.2) },
           wts := { v.wts with reply := v.wts.reply.map c, dists := v.wts.dists.map fun d => { d with reply := d.reply.map c } },
           sh := { v.sh with start := v.sh.start.map c, promote := v.sh.promote.map fun x => (x.1, x.2.map c) } }

/-- The commands of a port that have been taken: waits, copies and loads are dropped; the effects of the others go on. -/
def Cmd.cut (m : Cmd) (hp : Nat) : Cmd :=
  let mine := fun r : CmdRef => decide (r.hp = hp)
  { m with waits := m.waits.filter fun h => !mine h.ref,
           dma := (m.dma.map fun kv => (kv.1, kv.2.filter fun d => !mine d.ref)).filter fun kv => !kv.2.isEmpty,
           binds := m.binds.map fun b => { b with ref := b.ref.cut hp },
           loads := m.loads.filter fun x => !mine x.ref,
           resets := m.resets.map fun x => (x.1, x.2.cut hp),
           fwup := m.fwup.map fun x => (x.1.cut hp, x.2) }

/-- The functions of a port at their reset. DESIGN CHOICE (log entry 23). -/
def Cmd.portReset (m : Cmd) (hp : Nat) : Cmd :=
  { m with fns := m.fns.filter fun kv => decide (kv.1 / 65 ≠ hp) }

/-- A host port is reset: its link, its functions, and its outstanding commands. DESIGN CHOICE (log entry 23). -/
def State.hostPortReset (s : State) (hp : Nat) (perst : Bool) : State :=
  let s1 := s.modCmd fun m => (m.cut hp).portReset hp
  ({ s1 with parts := SMap.mapVals (fun v : Part => v.cut hp) s1.parts }).modHport hp fun v => { HostPort.reset with perst := perst, x8 := v.x8 }

/-- PERST_ASSERT. DESIGN CHOICE (log entry 23). -/
def execPerstAssert (hp : Nat) (s : State) : Host.Outcome State Fault Refusal :=
  .next (if 2 ≤ hp then s else s.hostPortReset hp true)

/-- PERST_DEASSERT: the strap is sampled and the port trains. A port that comes out of PERST# after stage 5 is up with its PF. -/
def execPerstDeassert (hp : Nat) (x8 : Bool) (s : State) : Host.Outcome State Fault Refusal :=
  .next (if 2 ≤ hp || !(s.hport hp).perst then s
    else s.modHport hp fun v => { v with perst := false, x8 := x8, up := decide (5 ≤ s.pwr.stage) && !s.pwr.inReset })

/-! ## Device reset -/

/-- What Hearth's fuses and flash area hold through a reset (R480, R482, R489, R509, R526); a pending transition of the lifecycle takes
effect. DESIGN CHOICE (log entry 15). -/
def Hearth.kept (h : Hearth) : Hearth :=
  { Hearth.reset with lc := if h.pend = 0 then h.lc else h.pend, svnFloor := h.svnFloor, image := h.image, torn := h.torn, fuseT := h.fuseT,
                      fuseS := h.fuseS, fuseP := h.fuseP, retired := h.retired, full := h.full, pmap := h.pmap, red := h.red, presEn := h.presEn,
                      presRej := h.presRej, id := h.id }

/-- References that a reset keeps. DESIGN CHOICE (log entry 15). -/
def Mnt.kept (m : Mnt) (refs : Bool) : Mnt :=
  if refs then { Mnt.reset with refA := { m.refA with goodAt := 0 }, refB := { m.refB with goodAt := 0 }, active := m.active } else Mnt.reset

/-- The pins of the host ports stay as they are driven. DESIGN CHOICE (log entry 15). -/
def Cmd.kept (m : Cmd) : Cmd :=
  { Cmd.reset with host := m.host, rd := m.rd, sb := m.sb,
                   ports := m.ports.map fun kv => (kv.1, { HostPort.reset with perst := kv.2.perst, x8 := kv.2.x8 }) }

/-- Spares in use stay in use; where the memory keeps its contents it keeps its errors. DESIGN CHOICE (log entry 15). -/
def Dev.kept (d : Dev) (mem : Bool) : Dev :=
  if mem then { Dev.reset with spares := d.spares, bad := d.bad, badTag := d.badTag, soft := d.soft, softTag := d.softTag, crcBad := d.crcBad } else { Dev.reset with spares := d.spares }

/-- The device after a reset, with its memory contents or without, its references or without. A device that becomes Returned has its
memory cleared (Table 17.5). DESIGN CHOICE (log entry 15). -/
def State.afterReset (s : State) (mem refs : Bool) (w : Pwr) : State :=
  let keep := mem && decide (s.hrt.pend ≠ 3)
  { State.reset with pending := s.pending, cmd := s.cmd.kept, mnt := s.mnt.kept refs, hrt := s.hrt.kept, pwr := w, dev := s.dev.kept keep,
                     mem := if keep then s.mem else [], valid := if keep then s.valid else [], free := s.free }

/-- PWR_RST_CAUSE: of causes in one tick the first in the order of R540 is recorded. DESIGN CHOICE (log entry 16). -/
def State.causeOf (s : State) (c : Nat) (w : Word) : Word :=
  if s.mnt.up = 0 ∧ fld s.pwr.rst 0 3 < c then s.pwr.rst else w

/-- The power state of a device held in reset: PWR_TWARN is cleared by nothing but a write (R545). DESIGN CHOICE (log entry 16). -/
def State.heldPwr (s : State) (c : Nat) (extra : Nat) : Pwr :=
  { Pwr.reset with pwrOk := s.pwr.pwrOk, rst := s.causeOf c (word (c + extra)), twarn := s.pwr.twarn, sysFault := s.pwr.sysFault,
                   thermtrip := s.pwr.thermtrip }

/-- A reset holds the device already, from an earlier tick. DESIGN CHOICE (log entry 16). -/
def State.heldBefore (s : State) : Bool := s.pwr.inReset && decide (s.mnt.up ≠ 0)

/-- VDD_AUX_POWER_ON_RESET: the whole device is reset, PWR_TWARN and the pins it drives among it. -/
def execVddAuxPowerOnReset (s : State) : Host.Outcome State Fault Refusal := .next (s.afterReset false false Pwr.reset)

/-- POWER_GOOD: PWR_OK is asserted; bring-up starts. -/
def execPowerGood (s : State) : Host.Outcome State Fault Refusal :=
  .next (if s.pwr.pwrOk then s else s.modPwr fun w => { w with pwrOk := true, inReset := false })

/-- PWR_OK_DEASSERT: the device is reset, and a fault's hold ends. A device that has asked to be switched off records that (R540).
DEDUCED (log entry 17). DESIGN CHOICE (log entry 18). -/
def execPwrOkDeassert (s : State) : Host.Outcome State Fault Refusal :=
  .next (if !s.pwr.pwrOk then s
    else
      let c := if s.pwr.offReq ∧ s.pwr.offAt ≠ s.mnt.up then 5 else 1
      let w := s.heldPwr c 0
      let down := fun x : Pwr => { x with pwrOk := false, sysFault := false, thermtrip := false }
      if s.heldBefore then s.modPwr down else s.afterReset false false (down w))

/-- RAIL_FAULT: rails 1 to 7 are watched while PWR_OK is asserted. -/
def execRailFault (rail : Nat) (s : State) : Host.Outcome State Fault Refusal :=
  .next (if !s.pwr.pwrOk || s.heldBefore || decide (rail = 0 ∨ 7 < rail) then s
    else s.afterReset false false { s.heldPwr 2 (rail * 2 ^ 4) with sysFault := true })

/-- THERMAL_TRIP: THERMTRIP# and reset; the source is recorded. -/
def execThermalTrip (src stk : Nat) (s : State) : Host.Outcome State Fault Refusal :=
  .next (if !s.pwr.pwrOk || s.heldBefore then s
    else s.afterReset false false { s.heldPwr 3 (src % 4 * 2 ^ 8 + (if src = 3 then stk % 8 else 0) * 2 ^ 10) with thermtrip := true })

/-- A reset that keeps rails and references and restarts bring-up at stage 3 (R531). -/
def State.warmReset (s : State) (rst : Word) : State :=
  s.afterReset true true { Pwr.reset with pwrOk := s.pwr.pwrOk, inReset := false, stage := 2, rst := rst, twarn := s.pwr.twarn }

/-- OFF_REQUEST_TIMEOUT: PWR_OK stands 1 s after OFF_REQ#. -/
def execOffRequestTimeout (s : State) : Host.Outcome State Fault Refusal :=
  .next (if s.pwr.pwrOk && s.pwr.offReq && decide (s.pwr.offAt + 1000000000 ≤ s.mnt.up) then s.modPwr fun w => { w with offLate := true } else s)

/-- PWR_RST_CAUSE after a reset for which Table 20.4 has no cause: one of its causes, with that cause's fields, left open.
DESIGN CHOICE (log entry 19). -/
def openCause (x : Nat) : Word :=
  let c := x % 6
  word (c + (if c = 2 then (x / 8 % 7 + 1) * 2 ^ 4 else 0) + (if c = 3 then x / 8 % 4 * 2 ^ 8 else 0) +
    (if c = 3 ∧ x / 8 % 4 = 3 then x / 32 % 8 * 2 ^ 10 else 0))

/-- RECOVERY_ROM_RESET: 10 ms after the reply to a successful FW_UPDATE. DESIGN CHOICE (log entry 19). -/
def execRecoveryRomReset (s : State) : Host.Outcome State Fault Refusal :=
  .next (match s.cmd.romReset with
    | some t =>
      if t ≤ s.mnt.up then ({ s with free := s.free + 1 }).warmReset (openCause (Config.freeWord s.free).toNat) else s
    | none => s)

/-! ## Numbering and grades -/

/-- Usable Eloagal ports of a Porch die: ports 0 to 7 stand on die A, 8 to 15 on die B (Table 1.2). -/
def porchPorts (dieB : Bool) (ps : List Nat) : List Nat := ps.filter fun n => decide (8 ≤ n) == dieB

/-- The highest grade that the usable tiles, stacks and ports meet (Table 0.1): a ZM-M2C has six ports on each Porch die (R23).
DESIGN CHOICE (log entry 21). -/
def gradeOf (t k : Nat) (ps : List Nat) : Nat :=
  if 256 ≤ t ∧ 8 ≤ k ∧ 16 ≤ ps.length then 0
  else if 240 ≤ t ∧ 8 ≤ k ∧ 16 ≤ ps.length then 1
  else if 224 ≤ t ∧ 6 ≤ k ∧ 6 ≤ (porchPorts false ps).length ∧ 6 ≤ (porchPorts true ps).length then 2
  else 0xFF

/-- Units of a grade; a device of no grade keeps what it has. -/
def gradeTiles : Nat → Nat
  | 1 => 240 | 2 => 224 | _ => 256
def gradeStacks : Nat → Nat
  | 2 => 6 | _ => 8
/-- The ports that a grade numbers: on a ZM-M2C EL0 to EL5 on die A and EL6 to EL11 on die B (R23). -/
def gradePorts (g : Nat) (ps : List Nat) : List Nat :=
  if g = 2 then (porchPorts false ps).take 6 ++ (porchPorts true ps).take 6 else ps.take 16

/-- Physical units of a KIND that are neither fused off nor retired. -/
def Hearth.usable (h : Hearth) (kind n : Nat) (fused : List Nat) : List Nat :=
  (List.range n).filter fun i => !fused.contains i && !h.retired.contains (kind, i)

/-- Physical Doorways that are retired. -/
def Hearth.doorsOut (h : Hearth) : List Nat := (List.range 48).filter fun i => h.retired.contains (4, i)

/-- Units of the presentation map that it leaves usable. -/
def Hearth.mapped (h : Hearth) (lo n : Nat) : List Nat := (List.range n).filter fun i => !bit h.pmap.toNat (lo + i)

/-- Every unit that the presentation map leaves usable is usable on this unit (R526). DESIGN CHOICE (log entry 22). -/
def Hearth.mapFits (h : Hearth) : Bool :=
  (h.mapped 0 256).all (h.usable 0 256 h.fuseT).contains && (h.mapped 256 8).all (h.usable 2 8 h.fuseS).contains &&
  (h.mapped 264 16).all (h.usable 3 16 h.fuseP).contains && (h.mapped 280 48).all fun i => !h.doorsOut.contains i

/-- The identity for lists of usable tiles, stacks and ports and of Doorways out of use: numbered from 0, as many as the grade has. -/
def Hearth.identOf (h : Hearth) (ts ks ps ds : List Nat) (pres : Bool) : Ident :=
  let g := if h.full then 0xFF else gradeOf ts.length ks.length ps
  let ks1 := ks.take (gradeStacks g)
  { idgen := (h.id.idgen / 2 * 2 + 2) % 2 ^ 32, grade := g, tiles := ts.take (gradeTiles g), stks := ks1, ports := gradePorts g ps, badDoors := ds,
    holeM := (List.range (48 * ks1.length)).filter fun r => h.retired.contains (5, 48 * ks1.getD (r / 48) 0 + r % 48),
    holeC := (List.range 128).filter fun r => h.retired.contains (6, r), pres := pres }

/-- Fuse map, retirement list and presentation applied (Table 19.1, stage 3). DESIGN CHOICE (log entry 21). -/
def Hearth.number (h : Hearth) : Hearth :=
  if h.presEn && h.mapFits then
    { h with id := h.identOf (h.mapped 0 256) (h.mapped 256 8) (h.mapped 264 16) ((List.range 48).filter fun i => bit h.pmap.toNat (280 + i)) true,
             presRej := false }
  else
    { h with id := h.identOf (h.usable 0 256 h.fuseT) (h.usable 2 8 h.fuseS) (h.usable 3 16 h.fuseP) h.doorsOut false, presRej := h.presEn }

/-! ## Hearth's boot (R480, Table 17.3) -/

/-- The boot flash holds an image: its write was not interrupted, and it has a body and a trailer. -/
def Hearth.imageOk (h : Hearth) : Bool := !h.torn && decide (10 + 5376 ≤ h.image.length)

/-- HRT_BOOT.CAUSE for a status of the verification. DESIGN CHOICE (log entry 20). -/
def bootCause : Nat → Nat
  | 0 => 0 | 0x42 => 3 | _ => 2

/-- Stages 3 to 6 of Table 17.3: the image runs, or the recovery ROM. DESIGN CHOICE (log entry 20). -/
def Hearth.boot (h : Hearth) : Hearth :=
  if !h.imageOk then { h with recov := true, cause := 1, svnRun := 0, fwdig := 0 }
  else
    let st := fwStatus h.image h.svnFloor
    { h with recov := decide (st ≠ 0), cause := bootCause st, svnRun := if st = 0 then imageSvn h.image else 0, fwdig := digest256 (imageBody h.image) }

/-! ## Stages -/

/-- The first failure of bring-up is recorded (R520). -/
def Pwr.stageFail (w : Pwr) (stage cause : Nat) : Pwr := if w.fstage = 0 then { w with fstage := stage, fcause := cause } else w

/-- Stage 3. Where Hearth's own engines fail, the device is held in reset. DESIGN CHOICE (log entry 20). -/
def State.stageHearth (s : State) (r : StageResult) : State :=
  if !r.hearthKat then (s.modHrt fun h => { h with cause := 5 }).modPwr fun w => { w with inReset := true }
  else (s.modHrt fun h => h.boot.number).modPwr fun w => { w with stage := 3 }

/-- Stage 5: each port out of PERST# is up; the recovery ROM presents only PFs (R483). DESIGN CHOICE (log entries 21, 61). -/
def State.stageLinks (s : State) (r : StageResult) : State :=
  let one := fun (u : State) (hp n : Nat) => u.modHport hp fun v =>
    if v.perst then v else { v with up := true, vfs := if u.hrt.recov then 0 else min 64 n }
  ((one s 0 r.vfs0) |> fun u => one u 1 r.vfs1).modPwr fun w => { w with stage := 5 }

/-- A Cellar populated in a way of Table 6.8, with one of the capacities of Table 6.9: channels and capacity, zeros for any other (R186). -/
def cellarCfg (chpop dsz : Nat) : Nat × Nat :=
  if (chpop = 0xFF ∨ chpop = 0x33) ∧ 1 ≤ dsz ∧ dsz ≤ 6 then (chpop, dsz) else (0, 0)

/-- Stage 6: the stacks and channels that train serve; the others are retired and left unused. DESIGN CHOICE (log entry 21). -/
def State.stageMarl (s : State) (r : StageResult) : State :=
  let cc := cellarCfg r.chpop r.dsz
  let ks := (List.range s.nStacks).filter fun k => !s.hrt.retired.contains (2, s.physStack k)
  let cs := (List.range 8).filter fun c => bit cc.1 c && !s.hrt.retired.contains (7, c)
  let badK := ks.filter r.failedStacks.contains
  let badC := cs.filter r.failedCellar.contains
  let s1 := badK.foldl (fun u k => u.retire 2 (u.physStack k)) s
  let s2 := badC.foldl (fun u c => u.retire 7 c) s1
  s2.modPwr fun w =>
    let w1 := if badK.isEmpty && badC.isEmpty then w else w.stageFail 6 2
    { w1 with chpop := cc.1, dsz := cc.2, trained := ks.filter fun k => !badK.contains k, trainedC := cs.filter fun c => !badC.contains c }

/-- Stage 7: a Doorway that is not calibrated is retired and left unused; section 0x03 of the identity data is rewritten.
DESIGN CHOICE (log entry 21). -/
def State.stageDoors (s : State) (r : StageResult) : State :=
  let bad := (List.range 48).filter fun d => r.failedDoors.contains d && !s.hrt.id.badDoors.contains d
  let s1 := bad.foldl (fun u d => u.retire 4 d) s
  let s2 := s1.modHrt fun h => { h with id := { h.id with badDoors := h.id.badDoors ++ bad } }
  s2.idWrite.modPwr fun w => if bad.isEmpty then w else w.stageFail 7 3

/-- Stage 8: the Mantel count runs from 0, and the Rooms' clocks with it. In reduced service RSVC = 1 and the state is P1 (R521).
DESIGN CHOICE (log entry 21). -/
def State.stageMantel (s : State) : State :=
  let s1 := (List.range 16).foldl (fun u r => u.modRoom r fun x => { x with edge := 10 * s.mnt.up, beg := 10 * s.mnt.up }) s
  let s2 := s1.modMnt fun m => { m with now := 0, run := true }
  s2.modPwr fun w => { w with stage := 8, rsvc := s.hrt.red, state := if s.hrt.red then 1 else w.state }

/-- The full form of stages 6 and 7 has ended: reduced service ends, and every port with EN = 1 trains again (R523). DESIGN CHOICE (log entry 22). -/
def State.fullEnd (s : State) : State :=
  let s1 := s.modPwr fun w => { w with full := true, rsvc := false, rerun := none }
  (List.range 16).foldl (fun u n => if (u.port n).en then (u.enterDown n 7).enterTrain n else u) s1

/-- Ports with EN = 1. -/
def State.enabledPorts (s : State) : List Nat := (List.range s.nPorts).filter fun n => (s.port n).en

/-- A stage may end: after stage 2 one reference is good (R520). -/
def State.stageMayEnd (s : State) : Bool :=
  s.pwr.pwrOk && !s.pwr.inReset && !s.pwr.quiesced && (decide (s.pwr.stage = 0) || s.mnt.active.isSome)

def State.toStage (s : State) (n : Nat) : State := s.modPwr fun w => { w with stage := n }

/-- The stage in progress ends. DESIGN CHOICE (log entry 21). -/
def State.stageEnd (s : State) (r : StageResult) : State :=
  match s.pwr.stage with
  | 0 => s.toStage 1
  | 1 => s.toStage 2
  | 2 => s.stageHearth r
  | 3 => s.toStage 4
  | 4 => s.stageLinks r
  | 5 => (s.stageMarl r).toStage 6
  | 6 => (s.stageDoors r).modPwr fun w => { w with stage := 7, full := !s.hrt.red }
  | 7 => s.stageMantel
  | 8 => if !s.enabledPorts.isEmpty && s.enabledPorts.all fun n => decide ((s.port n).st = .up ∨ (s.port n).st = .down) then s.toStage 9 else s
  | 9 => if s.mnt.td = .track then s.toStage 10 else s
  | _ => s

/-- BRINGUP_STAGE_DONE. -/
def execBringupStageDone (r : StageResult) (s : State) : Host.Outcome State Fault Refusal :=
  .next (if !s.stageMayEnd then s
    else match s.pwr.rerun with
      | some 6 => (s.stageMarl r).modPwr fun w => { w with rerun := some 7 }
      | some _ => (s.stageDoors r).fullEnd
      | none => s.stageEnd r)

/-! ## Registers of bring-up -/

/-- PWR_BRG_CTL_FULLREQ. DESIGN CHOICE (log entry 22). -/
def execPwrBrgCtlFullreq (acc : Accessor) (s : State) : Host.Outcome State Fault Refusal := .next (s.devWrite acc State.fullReq)

/-- PWR_PRESENT_WRITE: EN is kept in the flash area and applied at the next device reset. DESIGN CHOICE (log entry 22). -/
def execPwrPresentWrite (acc : Accessor) (v : BitVec 32) (s : State) : Host.Outcome State Fault Refusal :=
  .next (s.devWrite acc fun u => u.modHrt fun h => { h with presEn := flag v 0 })

/-! ## Telemetry -/

/-- A junction or a stack is above its limit (R545). -/
def tooHot (core porchA porchB : Nat) (ks : List Nat) : Bool :=
  decide (105 < core) || decide (105 < porchA) || decide (105 < porchB) || ks.any fun t => decide (95 < t)

/-- TELEMETRY_UPDATE, every 1 ms. DESIGN CHOICE (log entry 26). -/
def execTelemetryUpdate (core porchA porchB : Nat) (stkTemps : List Nat) (avg1ms avg1s : Nat) (s : State) : Host.Outcome State Fault Refusal :=
  .next (if s.mnt.up < s.pwr.telAt + 1000000 then s
    else
      let ks := List.range s.nStacks
      let s1 := ks.foldl (fun u k => match stkTemps[k]? with
        | some t => u.modStack k fun x => { x with temp := t }
        | none => u) s
      let hist := (s.pwr.tokMs :: s.pwr.tokHist).take 1000
      s1.modPwr fun w =>
        { w with tCore := core, tPorchA := porchA, tPorchB := porchB, avg1ms := avg1ms, avg1s := avg1s, telAt := s.mnt.up, tokHist := hist, tokMs := 0,
                 tokPeak := hist.foldl max 0, twarn := if tooHot core porchA porchB (stkTemps.take s.nStacks) then satAdd 32 w.twarn 1 else w.twarn })

end Sys2Proof.Machine
end

