-- ==== Sys2Proof/Machine/Sideband.lean ====
section
/-! DEFINITION. The messages of the management sideband (R530, R531, Table 19.8). The response to the latest message is kept as a list of
words of 64 bits. A message that the device does not answer leaves everything as it is. -/

namespace Sys2Proof.Machine

/-- Status messages are answered from the end of stage 1. DESIGN CHOICE (log entry 24). -/
def State.sbStatusUp (s : State) : Bool := decide (1 ≤ s.pwr.stage)
/-- The other messages are answered from the end of stage 4, and not by a device that waits to be switched off (R539).
DESIGN CHOICE (log entry 24). -/
def State.sbUp (s : State) : Bool := decide (4 ≤ s.pwr.stage) && !s.pwr.inReset && !s.pwr.offLate

/-- The response to a message. DESIGN CHOICE (log entry 24). -/
def State.sbReply (s : State) (ws : List DWord) : State := s.modCmd fun c => { c with sb := ws }

/-- SB_STATUS. -/
def execSbStatus (s : State) : Host.Outcome State Fault Refusal :=
  .next (if !s.sbStatusUp then s
    else s.sbReply ((([Reg.brgStat, .hrtBoot, .pwrState] : List Reg).map fun r => dword (s.devReg r)) ++
      ((s.idHeader.drop 1).take 3).map fun w => dword w.toNat))

/-- SB_TELEMETRY. -/
def execSbTelemetry (s : State) : Host.Outcome State Fault Refusal :=
  .next (if !s.sbUp then s
    else
      let w := s.pwr
      s.sbReply ([dword s.now, dword w.tCore, dword (max w.tPorchA w.tPorchB)] ++
        ((List.range s.nStacks).map fun k => dword ((s.stack k).temp % 256)) ++ [dword w.avg1ms, dword w.avg1s, dword w.tokPeak]))

/-- The offset in the register and table region that a local address names. -/
def regionOff (addr : Nat) : Option Nat :=
  if 0x030000000000 ≤ addr ∧ addr < 0x030100000000 then some (addr - 0x030000000000) else none

/-- Bytes of the register at an offset: eight for one wider than 32 bits. -/
def regSpan (o : Nat) : Nat := (regBytes o 0).length

/-- The value read at a local address, with device-owner access; an address of no register reads as 0. -/
def State.sbRead (s : State) (addr : Nat) : State :=
  match regionOff addr with
  | some o =>
    let r := s.regionRd .sideband o (regSpan o)
    r.2.sbReply [dword (leNat r.1)]
  | none => s.sbReply [0]

/-- SB_REGISTER_READ. -/
def execSbRegisterRead (addr : Nat) (s : State) : Host.Outcome State Fault Refusal := .next (if !s.sbUp then s else s.sbRead addr)

/-- SB_REGISTER_WRITE: the response holds the value that the register then has. -/
def execSbRegisterWrite (addr : Nat) (v : BitVec 64) (s : State) : Host.Outcome State Fault Refusal :=
  .next (if !s.sbUp then s
    else (match regionOff addr with
      | some o => s.regionWr .sideband o (regBytes o v)
      | none => s).sbRead addr)

/-- SB_BUDGET (R69). -/
def execSbBudget (avg peak : Nat) (s : State) : Host.Outcome State Fault Refusal :=
  .next (if !s.sbUp then s
    else
      let s1 := s.setBudget avg peak
      s1.sbReply [dword (s1.devReg .budget), dword (put1 s1.pwr.rejB 0)])

/-- SB_FAULT_SUMMARY: on the root of a launch, with the job summary. -/
def execSbFaultSummary (p : Nat) (s : State) : Host.Outcome State Fault Refusal :=
  .next (if !s.sbUp then s
    else
      let v := s.part p
      s.sbReply ([dword v.pstat, dword v.flt.wp] ++ if v.launch.root = s.me then v.flt.sum.words.map (fun w => dword w.toNat) else []))

/-- SB_FAULT_RECORD: the record at slot n mod 256. -/
def execSbFaultRecord (p n : Nat) (s : State) : Host.Outcome State Fault Refusal :=
  .next (if !s.sbUp then s
    else s.sbReply ((SMap.get (List.replicate 16 0) (s.part p).flt.log (n % 256)).map fun w => dword w.toNat))

/-- The outcome of the rules of PWR_SET for a state. -/
def State.powerStatus (s : State) (st : Nat) : Nat :=
  if 4 < st then 0x01 else if s.hrt.recov then 0x43 else if s.powerHeld st then 0x08 else 0

/-- SB_POWER_STATE (R494). -/
def execSbPowerState (st : Nat) (s : State) : Host.Outcome State Fault Refusal :=
  .next (if !s.sbUp then s
    else
      let c := s.powerStatus st
      (if c = 0 then s.powerTo st else s).sbReply [dword c])

/-- The device is reset from the sideband: both host ports as by PERST#, every plan and unlock lost. -/
def State.sbReset (s : State) : State := s.warmReset (s.causeOf 4 (word 4))

/-- SB_DEVICE_RESET: the response is sent before the reset starts. -/
def execSbDeviceReset (s : State) : Host.Outcome State Fault Refusal := .next (if !s.sbUp then s else (s.sbReply []).sbReset)

end Sys2Proof.Machine
end

