-- ==== Sys2Proof/Machine/Dispatch.lean ====
section
/-! DEFINITION. The effect of every command on everything but the queue: one arm per row of the table. -/

namespace Sys2Proof.Machine

/-- The effect of a command. -/
def exec (i : Instr) (s : State) : Host.Outcome State Fault Refusal :=
  match i with
  | .shaleWordDecode t => Sys2Proof.Machine.execShaleWordDecode t s
  | .operationComplete t q => Sys2Proof.Machine.execOperationComplete t q s
  | .snop t => Sys2Proof.Machine.execSnop t s
  | .li t => Sys2Proof.Machine.execLi t s
  | .lih t => Sys2Proof.Machine.execLih t s
  | .add t => Sys2Proof.Machine.execAdd t s
  | .sub t => Sys2Proof.Machine.execSub t s
  | .and t => Sys2Proof.Machine.execAnd t s
  | .or t => Sys2Proof.Machine.execOr t s
  | .xor t => Sys2Proof.Machine.execXor t s
  | .shl t => Sys2Proof.Machine.execShl t s
  | .shr t => Sys2Proof.Machine.execShr t s
  | .sar t => Sys2Proof.Machine.execSar t s
  | .mul t => Sys2Proof.Machine.execMul t s
  | .setp t => Sys2Proof.Machine.execSetp t s
  | .plog t => Sys2Proof.Machine.execPlog t s
  | .loop t => Sys2Proof.Machine.execLoop t s
  | .cnti t => Sys2Proof.Machine.execCnti t s
  | .cmpc t => Sys2Proof.Machine.execCmpc t s
  | .vadd t => Sys2Proof.Machine.execVadd t s
  | .vsub t => Sys2Proof.Machine.execVsub t s
  | .vmul t => Sys2Proof.Machine.execVmul t s
  | .vfma t => Sys2Proof.Machine.execVfma t s
  | .vmax t => Sys2Proof.Machine.execVmax t s
  | .vmin t => Sys2Proof.Machine.execVmin t s
  | .vscl t => Sys2Proof.Machine.execVscl t s
  | .vfn t => Sys2Proof.Machine.execVfn t s
  | .vred t => Sys2Proof.Machine.execVred t s
  | .vcvt t => Sys2Proof.Machine.execVcvt t s
  | .vslb t => Sys2Proof.Machine.execVslb t s
  | .vsld t => Sys2Proof.Machine.execVsld t s
  | .vsclr t => Sys2Proof.Machine.execVsclr t s
  | .mxr t => Sys2Proof.Machine.execMxr t s
  | .warm t => Sys2Proof.Machine.execWarm t s
  | .mxcfg t => Sys2Proof.Machine.execMxcfg t s
  | .ldl t => Sys2Proof.Machine.execLdl t s
  | .ldg t => Sys2Proof.Machine.execLdg t s
  | .ldm t => Sys2Proof.Machine.execLdm t s
  | .lds t => Sys2Proof.Machine.execLds t s
  | .fetch t => Sys2Proof.Machine.execFetch t s
  | .stl t => Sys2Proof.Machine.execStl t s
  | .sta t => Sys2Proof.Machine.execSta t s
  | .stn t => Sys2Proof.Machine.execStn t s
  | .std t => Sys2Proof.Machine.execStd t s
  | .stm t => Sys2Proof.Machine.execStm t s
  | .sts t => Sys2Proof.Machine.execSts t s
  | .sadd t => Sys2Proof.Machine.execSadd t s
  | .sset t => Sys2Proof.Machine.execSset t s
  | .scas t => Sys2Proof.Machine.execScas t s
  | .swge t => Sys2Proof.Machine.execSwge t s
  | .sweq t => Sys2Proof.Machine.execSweq t s
  | .rbar t => Sys2Proof.Machine.execRbar t s
  | .rwait t => Sys2Proof.Machine.execRwait t s
  | .mbar t => Sys2Proof.Machine.execMbar t s
  | .engineCold t => Sys2Proof.Machine.execEngineCold t s
  | .insertedRampEnd t => Sys2Proof.Machine.execInsertedRampEnd t s
  | .icacheMissFill t => Sys2Proof.Machine.execIcacheMissFill t s
  | .monitorNotify t => Sys2Proof.Machine.execMonitorNotify t s
  | .syncPollRead t => Sys2Proof.Machine.execSyncPollRead t s
  | .rafterRelease t => Sys2Proof.Machine.execRafterRelease t s
  | .maskBarrierRelease p mid => Sys2Proof.Machine.execMaskBarrierRelease p mid s
  | .courseStart t => Sys2Proof.Machine.execCourseStart t s
  | .katSegment t pass => Sys2Proof.Machine.execKatSegment t pass s
  | .planCompletion p => Sys2Proof.Machine.execPlanCompletion p s
  | .droopDetect r level => Sys2Proof.Machine.execDroopDetect r level s
  | .stretchEcho r => Sys2Proof.Machine.execStretchEcho r s
  | .alarmArrival r => Sys2Proof.Machine.execAlarmArrival r s
  | .stepdownEnd r => Sys2Proof.Machine.execStepdownEnd r s
  | .sbnRestart r => Sys2Proof.Machine.execSbnRestart r s
  | .doorwayWordWrite door parityOk => Sys2Proof.Machine.execDoorwayWordWrite door parityOk s
  | .onDieLandingWrite t => Sys2Proof.Machine.execOnDieLandingWrite t s
  | .departureSend port => Sys2Proof.Machine.execDepartureSend port s
  | .landingPacket port => Sys2Proof.Machine.execLandingPacket port s
  | .hazardLandingRelease port => Sys2Proof.Machine.execHazardLandingRelease port s
  | .planPacketForward port => Sys2Proof.Machine.execPlanPacketForward port s
  | .servicePacketEgress port => Sys2Proof.Machine.execServicePacketEgress port s
  | .servicePacketForward port vc => Sys2Proof.Machine.execServicePacketForward port vc s
  | .writePacket ing vc => Sys2Proof.Machine.execWritePacket ing vc s
  | .readPacket ing vc => Sys2Proof.Machine.execReadPacket ing vc s
  | .readRspPacket ing vc => Sys2Proof.Machine.execReadRspPacket ing vc s
  | .writeCplPacket ing vc => Sys2Proof.Machine.execWriteCplPacket ing vc s
  | .errCplPacket ing vc => Sys2Proof.Machine.execErrCplPacket ing vc s
  | .saddPacket ing vc => Sys2Proof.Machine.execSaddPacket ing vc s
  | .ssetPacket ing vc => Sys2Proof.Machine.execSsetPacket ing vc s
  | .scasPacket ing vc => Sys2Proof.Machine.execScasPacket ing vc s
  | .msgPacket ing vc => Sys2Proof.Machine.execMsgPacket ing vc s
  | .nullPacket ing vc => Sys2Proof.Machine.execNullPacket ing vc s
  | .vestibuleTimeout src => Sys2Proof.Machine.execVestibuleTimeout src s
  | .linkGroupReceive port g fecOk => Sys2Proof.Machine.execLinkGroupReceive port g fecOk s
  | .controlFlitReceive port => Sys2Proof.Machine.execControlFlitReceive port s
  | .timeRequestReceive port t2 => Sys2Proof.Machine.execTimeRequestReceive port t2 s
  | .timeReplyReceive port t1 t4 => Sys2Proof.Machine.execTimeReplyReceive port t1 t4 s
  | .timeExchangeTimer port => Sys2Proof.Machine.execTimeExchangeTimer port s
  | .launchArmReceive port => Sys2Proof.Machine.execLaunchArmReceive port s
  | .launchAckReceive port => Sys2Proof.Machine.execLaunchAckReceive port s
  | .launchConfirmReceive port => Sys2Proof.Machine.execLaunchConfirmReceive port s
  | .launchConfirmDeadline p => Sys2Proof.Machine.execLaunchConfirmDeadline p s
  | .launchCutoff p => Sys2Proof.Machine.execLaunchCutoff p s
  | .launchFire p => Sys2Proof.Machine.execLaunchFire p s
  | .retrainRequestReceive port => Sys2Proof.Machine.execRetrainRequestReceive port s
  | .replayPositionSend port => Sys2Proof.Machine.execReplayPositionSend port s
  | .serviceReplayTimeout port => Sys2Proof.Machine.execServiceReplayTimeout port s
  | .planReplayTimeout port => Sys2Proof.Machine.execPlanReplayTimeout port s
  | .creditTimeout port vc => Sys2Proof.Machine.execCreditTimeout port vc s
  | .fecLockLost port => Sys2Proof.Machine.execFecLockLost port s
  | .trainingComplete port delay peer => Sys2Proof.Machine.execTrainingComplete port delay peer s
  | .trainingTimeout port => Sys2Proof.Machine.execTrainingTimeout port s
  | .retrainComplete port delay => Sys2Proof.Machine.execRetrainComplete port delay s
  | .retrainAttemptTimeout port => Sys2Proof.Machine.execRetrainAttemptTimeout port s
  | .autoTrainTick port => Sys2Proof.Machine.execAutoTrainTick port s
  | .peerTrainingDetect port => Sys2Proof.Machine.execPeerTrainingDetect port s
  | .marlPositionTransfer stk ch crcOk ecc => Sys2Proof.Machine.execMarlPositionTransfer stk ch crcOk ecc s
  | .marlBlockResend stk ch crcOk ecc => Sys2Proof.Machine.execMarlBlockResend stk ch crcOk ecc s
  | .marlRefreshWindow stk ch katPass => Sys2Proof.Machine.execMarlRefreshWindow stk ch katPass s
  | .stackTempChange stk temp => Sys2Proof.Machine.execStackTempChange stk temp s
  | .patrolScrub stk sector ecc => Sys2Proof.Machine.execPatrolScrub stk sector ecc s
  | .loftEccWriteback t => Sys2Proof.Machine.execLoftEccWriteback t s
  | .loftServiceWrite t => Sys2Proof.Machine.execLoftServiceWrite t s
  | .cellarRefresh ch => Sys2Proof.Machine.execCellarRefresh ch s
  | .sweepStart stk => Sys2Proof.Machine.execSweepStart stk s
  | .sweepComplete stk => Sys2Proof.Machine.execSweepComplete stk s
  | .sweepDeadline stk => Sys2Proof.Machine.execSweepDeadline stk s
  | .stepCommit p => Sys2Proof.Machine.execStepCommit p s
  | .stepCompose p => Sys2Proof.Machine.execStepCompose p s
  | .manifestRead p => Sys2Proof.Machine.execManifestRead p s
  | .pantryAllocExtend p => Sys2Proof.Machine.execPantryAllocExtend p s
  | .pantryPromote p => Sys2Proof.Machine.execPantryPromote p s
  | .pantryOrderReceive p => Sys2Proof.Machine.execPantryOrderReceive p s
  | .pantryConfirmReceive p => Sys2Proof.Machine.execPantryConfirmReceive p s
  | .outputRingCopy p hp => Sys2Proof.Machine.execOutputRingCopy p hp s
  | .wdDescriptorArrival p => Sys2Proof.Machine.execWdDescriptorArrival p s
  | .wdStreamForward p => Sys2Proof.Machine.execWdStreamForward p s
  | .wdPieceConvert p => Sys2Proof.Machine.execWdPieceConvert p s
  | .wdReportReceive p => Sys2Proof.Machine.execWdReportReceive p s
  | .wdDtmoTimeout p => Sys2Proof.Machine.execWdDtmoTimeout p s
  | .wdHeadTimeout p => Sys2Proof.Machine.execWdHeadTimeout p s
  | .wswapOrderReceive p => Sys2Proof.Machine.execWswapOrderReceive p s
  | .wswapConfirmReceive p => Sys2Proof.Machine.execWswapConfirmReceive p s
  | .weightRewriteStart p layer => Sys2Proof.Machine.execWeightRewriteStart p layer s
  | .rowCopyDone p layer stk ecc => Sys2Proof.Machine.execRowCopyDone p layer stk ecc s
  | .layerDigestClose p => Sys2Proof.Machine.execLayerDigestClose p s
  | .twinRecordReceive p => Sys2Proof.Machine.execTwinRecordReceive p s
  | .faultNoticeReceive p => Sys2Proof.Machine.execFaultNoticeReceive p s
  | .haltReportSend p => Sys2Proof.Machine.execHaltReportSend p s
  | .haltReportReceive p => Sys2Proof.Machine.execHaltReportReceive p s
  | .tileDrainEnd t => Sys2Proof.Machine.execTileDrainEnd t s
  | .hangRecordCollect p => Sys2Proof.Machine.execHangRecordCollect p s
  | .selfTestRun kind idx pass => Sys2Proof.Machine.execSelfTestRun kind idx pass s
  | .shadowDigestReceive p => Sys2Proof.Machine.execShadowDigestReceive p s
  | .shadowPromoteRequestReceive p => Sys2Proof.Machine.execShadowPromoteRequestReceive p s
  | .shadowAckReceive p => Sys2Proof.Machine.execShadowAckReceive p s
  | .shadowRoleSwitch p => Sys2Proof.Machine.execShadowRoleSwitch p s
  | .routeActivate => Sys2Proof.Machine.execRouteActivate s
  | .routeRetire => Sys2Proof.Machine.execRouteRetire s
  | .refclkWindowEnd ref w => Sys2Proof.Machine.execRefclkWindowEnd ref w s
  | .refclkMissingEdges ref => Sys2Proof.Machine.execRefclkMissingEdges ref s
  | .refRevertTimeout => Sys2Proof.Machine.execRefRevertTimeout s
  | .parentSilenceTimeout => Sys2Proof.Machine.execParentSilenceTimeout s
  | .holdoverLimit => Sys2Proof.Machine.execHoldoverLimit s
  | .resumeRestart p => Sys2Proof.Machine.execResumeRestart p s
  | .hostSyncWaitTimeout j => Sys2Proof.Machine.execHostSyncWaitTimeout j s
  | .replyRingWrite hp fn => Sys2Proof.Machine.execReplyRingWrite hp fn s
  | .dmaCopyDone hp ecc => Sys2Proof.Machine.execDmaCopyDone hp ecc s
  | .bindClearDone => Sys2Proof.Machine.execBindClearDone s
  | .fwFlashWriteDone ok => Sys2Proof.Machine.execFwFlashWriteDone ok s
  | .recoveryRomReset => Sys2Proof.Machine.execRecoveryRomReset s
  | .powerGood => Sys2Proof.Machine.execPowerGood s
  | .bringupStageDone r => Sys2Proof.Machine.execBringupStageDone r s
  | .perstDeassert hp x8 => Sys2Proof.Machine.execPerstDeassert hp x8 s
  | .pwrOkDeassert => Sys2Proof.Machine.execPwrOkDeassert s
  | .railFault rail => Sys2Proof.Machine.execRailFault rail s
  | .thermalTrip src stk => Sys2Proof.Machine.execThermalTrip src stk s
  | .offRequestTimeout => Sys2Proof.Machine.execOffRequestTimeout s
  | .commandSlotWrite hp fn off bytes => Sys2Proof.Machine.execCommandSlotWrite hp fn off bytes s
  | .undefinedCommand => Sys2Proof.Machine.execUndefinedCommand s
  | .nop => Sys2Proof.Machine.execNop s
  | .dmaCopy => Sys2Proof.Machine.execDmaCopy s
  | .planLoad => Sys2Proof.Machine.execPlanLoad s
  | .planUnload => Sys2Proof.Machine.execPlanUnload s
  | .launch => Sys2Proof.Machine.execLaunch s
  | .launchCancel => Sys2Proof.Machine.execLaunchCancel s
  | .pause => Sys2Proof.Machine.execPause s
  | .resume => Sys2Proof.Machine.execResume s
  | .ctxReset => Sys2Proof.Machine.execCtxReset s
  | .syncWait => Sys2Proof.Machine.execSyncWait s
  | .syncOp => Sys2Proof.Machine.execSyncOp s
  | .srvSubmit => Sys2Proof.Machine.execSrvSubmit s
  | .srvCancel => Sys2Proof.Machine.execSrvCancel s
  | .srvRelease => Sys2Proof.Machine.execSrvRelease s
  | .ldrLoad => Sys2Proof.Machine.execLdrLoad s
  | .ldrRetire => Sys2Proof.Machine.execLdrRetire s
  | .wdist => Sys2Proof.Machine.execWdist s
  | .wswap => Sys2Proof.Machine.execWswap s
  | .dbgPhys => Sys2Proof.Machine.execDbgPhys s
  | .bind => Sys2Proof.Machine.execBind s
  | .pkeySet => Sys2Proof.Machine.execPkeySet s
  | .attest => Sys2Proof.Machine.execAttest s
  | .certGet => Sys2Proof.Machine.execCertGet s
  | .dbgChal => Sys2Proof.Machine.execDbgChal s
  | .dbgUnlock => Sys2Proof.Machine.execDbgUnlock s
  | .dbgLock => Sys2Proof.Machine.execDbgLock s
  | .fwUpdate => Sys2Proof.Machine.execFwUpdate s
  | .lcAdvance => Sys2Proof.Machine.execLcAdvance s
  | .pwrSet => Sys2Proof.Machine.execPwrSet s
  | .svnCommit => Sys2Proof.Machine.execSvnCommit s
  | .hangGet => Sys2Proof.Machine.execHangGet s
  | .selftest pass => Sys2Proof.Machine.execSelftest pass s
  | .retireGet => Sys2Proof.Machine.execRetireGet s
  | .shadowStart => Sys2Proof.Machine.execShadowStart s
  | .shadowPromote => Sys2Proof.Machine.execShadowPromote s
  | .shadowStop => Sys2Proof.Machine.execShadowStop s
  | .sbStatus => Sys2Proof.Machine.execSbStatus s
  | .sbTelemetry => Sys2Proof.Machine.execSbTelemetry s
  | .sbRegisterRead addr => Sys2Proof.Machine.execSbRegisterRead addr s
  | .sbRegisterWrite addr v => Sys2Proof.Machine.execSbRegisterWrite addr v s
  | .sbBudget avg peak => Sys2Proof.Machine.execSbBudget avg peak s
  | .sbFaultSummary p => Sys2Proof.Machine.execSbFaultSummary p s
  | .sbFaultRecord p n => Sys2Proof.Machine.execSbFaultRecord p n s
  | .sbPowerState st => Sys2Proof.Machine.execSbPowerState st s
  | .sbDeviceReset => Sys2Proof.Machine.execSbDeviceReset s
  | .hostApertureAccess hp fn off size wr => Sys2Proof.Machine.execHostApertureAccess hp fn off size wr s
  | .pwrBudgetWrite acc v => Sys2Proof.Machine.execPwrBudgetWrite acc v s
  | .tilHzdCtlWrite acc v => Sys2Proof.Machine.execTilHzdCtlWrite acc v s
  | .fabGenArm acc v => Sys2Proof.Machine.execFabGenArm acc v s
  | .fabDevidWrite acc v => Sys2Proof.Machine.execFabDevidWrite acc v s
  | .mntWcCommit acc v => Sys2Proof.Machine.execMntWcCommit acc v s
  | .mntTdCtlWrite acc v => Sys2Proof.Machine.execMntTdCtlWrite acc v s
  | .lnkCtlTrain acc port v => Sys2Proof.Machine.execLnkCtlTrain acc port v s
  | .lnkCtlRetrain acc port v => Sys2Proof.Machine.execLnkCtlRetrain acc port v s
  | .lnkCtlForcedn acc port v => Sys2Proof.Machine.execLnkCtlForcedn acc port v s
  | .lnkCtlEnWrite acc port v => Sys2Proof.Machine.execLnkCtlEnWrite acc port v s
  | .fabFenceEfence acc port v => Sys2Proof.Machine.execFabFenceEfence acc port v s
  | .fabFenceLfence acc port v => Sys2Proof.Machine.execFabFenceLfence acc port v s
  | .mntLtCfgWrite acc p v => Sys2Proof.Machine.execMntLtCfgWrite acc p v s
  | .srvTwinWrite acc p base v => Sys2Proof.Machine.execSrvTwinWrite acc p base v s
  | .servingConfigWrite acc p r v => Sys2Proof.Machine.execServingConfigWrite acc p r v s
  | .srvStepBaseWrite acc p v => Sys2Proof.Machine.execSrvStepBaseWrite acc p v s
  | .srvWswapStatClear acc p v => Sys2Proof.Machine.execSrvWswapStatClear acc p v s
  | .cmdRringCfgWrite hp fn v => Sys2Proof.Machine.execCmdRringCfgWrite hp fn v s
  | .cmdRringRpWrite hp fn v => Sys2Proof.Machine.execCmdRringRpWrite hp fn v s
  | .cmdApBaseWrite hp fn v => Sys2Proof.Machine.execCmdApBaseWrite hp fn v s
  | .pwrBrgCtlFullreq acc => Sys2Proof.Machine.execPwrBrgCtlFullreq acc s
  | .pwrPresentWrite acc v => Sys2Proof.Machine.execPwrPresentWrite acc v s
  | .registerWrite acc addr v => Sys2Proof.Machine.execRegisterWrite acc addr v s
  | .controlPositionSend port => Sys2Proof.Machine.execControlPositionSend port s
  | .planLoadDone p => Sys2Proof.Machine.execPlanLoadDone p s
  | .contextResetDone p => Sys2Proof.Machine.execContextResetDone p s
  | .perstAssert hp => Sys2Proof.Machine.execPerstAssert hp s
  | .vddAuxPowerOnReset => Sys2Proof.Machine.execVddAuxPowerOnReset s
  | .mntCountLowRead acc => Sys2Proof.Machine.execMntCountLowRead acc s
  | .telemetryUpdate core porchA porchB stkTemps avg1ms avg1s => Sys2Proof.Machine.execTelemetryUpdate core porchA porchB stkTemps avg1ms avg1s s

end Sys2Proof.Machine
end

