-- ==== Sys2Proof/Machine/Tick.lean ====
section
/-! DEFINITION. What happens at a Mantel tick whatever is commanded, which is what a step on an empty queue does: time counts, the Rooms
begin beats (R223), pinned starts come (R38, R352, R462), the governor meters (R66, R71), and the counters of ticks count. -/

namespace Sys2Proof.Machine

/-! ## Clocks -/

/-- Device time, and the Mantel count once it runs. DESIGN CHOICE (log entry 54). -/
def Mnt.tick (m : Mnt) : Mnt := { m with up := m.up + 1, now := if m.run then (m.now + 1) % 2 ^ 64 else m.now }

/-- The Rooms' clocks are off: P2, P3, and a device that waits to be switched off (Table 17.7). DEDUCED (log entry 25). -/
def State.gated (s : State) : Bool := decide (2 ≤ s.pwr.state) || s.pwr.quiesced

/-- A Room in which a partition has no tile numbers the beats of its course in progress as the others do, from its first edge at or after
the course's start + 2 t (R224, R231). -/
def State.numberIn (s : State) (r p : Nat) (x : Room) : Room :=
  let v := s.part p
  let k := v.run.course
  if !v.live || decide (k = 0) || (s.tilesOf p).any fun t => s.roomOf t = r then x
  else match v.startOf (k - 1) with
    | none => x
    | some b => if 10 * ((b : Int) + 2) ≤ (x.beg : Int) + 10 * (s.mnt.now : Int) - 10 * (s.mnt.up : Int) then x.number p (k - 1) else x

/-- Partitions that the state lists. -/
def State.listed (s : State) : List Nat := (s.parts.map (·.1)).filter fun p => decide (p < 64)

/-- A Room begins the beats whose edges have come. -/
def State.roomBeats (s : State) (r : Nat) : Nat → Room → Room
  | 0, x => x
  | n + 1, x =>
    if x.edge ≤ 10 * s.mnt.up then State.roomBeats s r n (s.listed.foldl (fun y p => s.numberIn r p y) (x.begin s.beat10)) else x

/-- A Room's clock in one tick: a clock that is off keeps its phase. -/
def State.roomTick (s : State) (r : Nat) (x : Room) : Room :=
  if s.gated then { x with edge := x.edge + 10, beg := x.beg + 10 } else s.roomBeats r 2 x

def State.roomsTick (s : State) : State :=
  if !s.mnt.run then s else (List.range 16).foldl (fun u r => u.modRoom r (s.roomTick r)) s

/-- Blocks that have reached their tiles by now are delivered (R176). -/
def State.backTick (s : State) : State := (List.range 8).foldl (fun u k => if (u.stack k).back.isEmpty then u else u.marlBack k) s
/-- Landings of beats well past are in their Lofts, though the tile runs no beat. DESIGN CHOICE (log entry 37). -/
def State.landTick (s : State) : State :=
  (s.tiles.map (·.1)).foldl (fun u t => if (u.tile t).lands.isEmpty then u else u.landUpTo t ((u.room (u.roomOf t)).clk - 4)) s

/-! ## The governor (R66, R71): at the end of a tick, of what was active in it -/

/-- The latest beat of a tile's matrix engine was active. -/
def Tile.mxActive (v : Tile) : Bool := decide (v.mx.idle = 0)
/-- A stack's interface has carried a plan block in this tick. -/
def Stack.ioActive (v : Stack) (now : Nat) : Bool := decide (v.lastPlan = now + 1)
/-- A stack's engines count as active from T_s to T_s + DEADLINE (R220). -/
def State.swpActive (s : State) (k : Nat) : Bool := (s.stack k).sweep.any fun w => decide (w.ts ≤ s.now ∧ s.now ≤ s.sweepEnd w)
/-- A plan flit is sent in this tick: one that stands in a position, or one that the group just closed has sent. -/
def State.planActive (s : State) (n : Nat) : Bool :=
  let v := s.port n
  decide (v.st = .up) &&
    ((v.tx.slots.any fun k => decide ((k.2.kind = .plan ∨ k.2.kind = .linkPlan) ∧ k.1 < 640 * (s.now + 1) ∧ 640 * s.now < k.1 + 219)) ||
     v.tx.replay.any fun f => f.plan && f.ended.any fun e => decide (e < 640 * (s.mnt.up + 1) + 219 ∧ 640 * s.mnt.up < e))

/-- Tokens of a beat of a partition's units, by the tiles and by the other heavy units. DESIGN CHOICE (log entry 26). -/
def State.tilesTok (s : State) (ts : List Nat) : Nat := 41 * (ts.filter fun t => (s.tile t).mxActive).length
/-- DESIGN CHOICE (log entry 26). -/
def State.unitsTok (s : State) (ks ns : List Nat) : Nat :=
  ks.foldl (fun n k => n + (if (s.stack k).ioActive s.now then 960 else 0) + (if s.swpActive k then 416 else 0)) 0 +
  ns.foldl (fun n p => n + if s.planActive p then 144 else 0) 0

/-- Heavy units of a partition: stacks of which it holds a region, and its ports. -/
def State.stacksHeld (s : State) (p : Nat) : List Nat := (List.range s.nStacks).filter fun k => s.stackOf p k
def State.portsHeld (s : State) (p : Nat) : List Nat := (List.range s.nPorts).filter fun n => decide (s.owner 3 n = some p)

/-- Beats before this one are over in every Room. -/
def State.beatFloor (s : State) : Nat := (List.range 16).foldl (fun m r => min m ((s.room r).clk - 1)) (s.room 0).clk
/-- The largest tokens of the partition's matrix engines in a beat in progress in the tick. -/
def Run.mxPeak (r : Run) : Nat := r.beatTok.foldl (fun m kv => max m kv.2) 0
/-- Beats that are over leave the record. -/
def Run.prune (r : Run) (b : Nat) : Run := { r with beatTok := r.beatTok.filter fun kv => decide (b ≤ kv.1) }

/-- The governor of a running partition. The tokens of its stacks and ports in a tick are those of 10 / 8 of a beat, or 10 / 16 in P1, and
join the sum of the course while a tile runs its plan beats; those of its tiles are counted as their beats run. DESIGN CHOICE (log entry 26). -/
def State.govern (s : State) (p : Nat) : State :=
  let v := s.part p
  if !v.live || decide (v.run.course = 0) then s
  else
    let o := s.unitsTok (s.stacksHeld p) (s.portsHeld p)
    let plan := (s.tilesOf p).any s.inCourse
    let s1 := s.modPart p fun x => { x with run := { x.run.prune s.beatFloor with tok := x.run.tok + (if plan then 10 * o / s.beat10 else 0) } }
    match v.courseAt (v.run.course - 1) with
    | none => s1
    | some c => if c.peak < v.run.mxPeak + o then s1.raisePower p { FInfo.dev 0x04 0 [] with course := some (v.run.course - 1) } else s1

/-- The largest tokens of a beat in the millisecond. DESIGN CHOICE (log entry 26). -/
def State.meter (s : State) : State :=
  let n := s.tilesTok (List.range s.nTiles) + s.unitsTok (List.range s.nStacks) (List.range s.nPorts)
  s.modPwr fun w => { w with tokMs := max w.tokMs n }

/-! ## Counters of ticks -/

/-- The Vestibule or the tally store is full (R287). -/
def State.vestTick (s : State) : State := if 256 ≤ s.fab.occ ∨ 1024 ≤ s.fab.tallies then s.fabCount .vestFull 1 else s

/-- Milliseconds in HOLDOVER. DESIGN CHOICE (log entry 54). -/
def State.holdTick (s : State) : State :=
  let n := s.mnt.up - s.mnt.holdAt
  if s.mnt.td = .holdover ∧ 0 < n ∧ n % 1000000 = 0 then s.mntCount .tdHold 1 else s

/-- PAN_ALLOC_WAIT. -/
def Serv.tick (v : Serv) : Serv := if v.allocWait then v.count .allocWait 1 else v

def State.servTick (s : State) (p : Nat) : State :=
  if (s.part p).running then (s.modServ p Serv.tick).pagTick p else s

/-- No reference has been good for 1 s during bring-up: the first failure recorded (R520, FCAUSE 0x1). DESIGN CHOICE (log entries 21, 54). -/
def State.refTick (s : State) : State :=
  if s.pwr.inReset || decide (8 ≤ s.pwr.stage) then s
  else
    let n := if s.mnt.active.isSome then 0 else s.pwr.refLost + 1
    s.modPwr fun w => { (if n = 1000000000 then w.stageFail (w.stage + 1) 1 else w) with refLost := n }

/-! ## The tick -/

/-- What a partition does as a tick begins. -/
def State.partTick (s : State) (p : Nat) : State := (((s.pinnedStart p).servTick p).rafterAct p)

/-- What is counted as a tick ends. -/
def State.tickEnd (s : State) : State := (s.listed.foldl State.govern s).meter

/-- One Mantel tick: the tick in progress ends and the next begins. A device held in reset counts its own time and nothing else. DESIGN
CHOICE (log entry 1). -/
def State.tick (s : State) : State :=
  if s.pwr.inReset then s.modMnt Mnt.tick
  else
    let s2 := (s.tickEnd.modMnt Mnt.tick).roomsTick.refTick.backTick.landTick
    ((s2.listed.foldl State.partTick s2).vestTick).holdTick

end Sys2Proof.Machine
end

