-- ==== Sys2Proof/Safety.lean ====
section
/-! DEFINITION. What counts as a safe step and a safe state, in the terms that statements use, and the shapes in which a
statement says what a command leaves behind. -/

namespace Sys2Proof

open Machine

/-- The state that an outcome answers, if it answers one. -/
def nextOf (o : Host.Outcome State Fault Refusal) : Option State :=
  match o with
  | .next t => some t
  | _ => none

/-- The memory, the valid bits and host memory have their canonical form. -/
def Machine.State.memWf (s : State) : Bool := s.mem.wf memDefault && s.valid.wf false && s.cmd.host.wf 0

/-- The operation at the head of queue `q` of tile `t` is `e`, it issues in the beat in progress (R84, R88), its code is `op`,
and its word is not skipped (R92). -/
def Issues (s : State) (t : Nat) (q : Queue) (op : Nat) (e : QEntry) : Prop :=
  s.issuing t q = some e ∧ opcode e.w0 = op ∧ e.skip = false

/-- `u` is `w` with operation `e` of queue `q` of tile `t` issued (R82, R84, R85, R88): the entry has left its queue, whose
unit is busy for `occ` clock beats; the bit it waited for is cleared; and an operation is in flight that completes `lat` clock
beats after the beat in progress, waits for `need` Marl blocks or lines, sets the bit that `e` names, and makes `eff` visible.
An operation of the waiting kind counts its beat in TIL_SYW_BEATS (R347). Nothing else of the tile and nothing else of the state
differs. -/
def Issued (w u : State) (t : Nat) (q : Queue) (e : QEntry) (lat occ need : Nat) (eff : List Effect) : Prop :=
  ∃ v f, u = w.setTile t v ∧
    v = { (w.tile t).waitBeat q e with q := v.q, xb := v.xb, xbc := v.xbc, fly := (w.tile t).fly ++ [f], nextId := (w.tile t).nextId + 1 } ∧
    f.q = q ∧ f.start = (w.tile t).now ∧ f.due = (w.tile t).now + lat ∧ f.set = setOf e.w0 ∧ f.need = need ∧ f.eff = eff ∧
    v.queue q = { ents := ((w.tile t).queue q).ents.drop 1, free := (w.tile t).now + occ, last := (w.tile t).tim.cb } ∧
    (∀ r, r ≠ q → v.queue r = (w.tile t).queue r) ∧
    v.xb = if opWen e.w0 then setFlag16 (w.tile t).xb (opWidx e.w0) false else (w.tile t).xb

/-- `u` is `w` with the wait of operation `e` begun at the head of the SY queue of tile `t` (R327): the entry has left the queue,
the bit it waited for is cleared, and the tile waits; the issue beat counts in TIL_SYW_BEATS as one of the wait's (R347). -/
def WaitBegun (w u : State) (t : Nat) (e : QEntry) (x : Wait) : Prop :=
  ∃ v, u = w.setTile t v ∧
    v = { (w.tile t).waitBeat .sy e with q := v.q, xb := v.xb, xbc := v.xbc, wait := some { x with set := setOf e.w0, iaddr := e.iaddr } } ∧
    (v.queue .sy).ents = ((w.tile t).queue .sy).ents.drop 1 ∧
    (∀ r, r ≠ .sy → v.queue r = (w.tile t).queue r) ∧
    v.xb = if opWen e.w0 then setFlag16 (w.tile t).xb (opWidx e.w0) false else (w.tile t).xb

/-- `f` is the oldest operation in flight of queue `q` of tile `t`, its latency has elapsed and all its Marl blocks have crossed (a
FETCH needs only that its lines are resident, R101), and every head of the beat in progress has issued: it completes (R84, R85). -/
def Completes (s : State) (t : Nat) (q : Queue) (f : Flight) : Prop :=
  (s.tile t).fly.find? (fun x => decide (x.q = q)) = some f ∧ f.ends (s.tile t).tim.cb = true ∧ (s.tile t).issuesLeft = false

/-- The tile without a completed operation. -/
def Landed (v : Tile) (f : Flight) : Tile := { v with fly := v.fly.filter fun x => decide (x.id ≠ f.id) }

/-- Fault `f` has been raised against the running partition `p` of `s` (R500, R501): its record with ROLE 0 is the newest of the
partition's fault log, and the partition has been halted in that tick. Memory is as it was. -/
def Faulted (s u : State) (p : Nat) (f : FInfo) : Prop :=
  let v := s.part p
  (u.part p).flt.wp = (v.flt.wp + 1) % 2 ^ 32 ∧ SMap.get [] (u.part p).flt.log (v.flt.wp % 256) = s.recordWords p 0 v.launch.lid f ∧
  (u.part p).run.halted = true ∧ (u.part p).run.haltAt = s.now ∧ u.mem = s.mem

/-- The partition runs a plan, is not halted and not being reset. -/
def Healthy (s : State) (p : Nat) : Prop :=
  (s.part p).running = true ∧ (s.part p).run.halted = false ∧ (s.part p).flt.resetting = false

/-- In `u` a packet meeting `f` stands last in queue `vc` of the port by which the active route table of `s` reaches device `dev`,
where the device has an ID, `dev` is another device, that port is UP and not fenced (R273, R279, R280), and the interval open towards
`dev` is not about to be closed (R285). -/
def Sends (s u : State) (vc dev : Nat) (f : Packet → Prop) : Prop :=
  ∀ e, s.me ≠ 0xFFFF → dev ≠ s.me → s.routeEntry s.fab.active dev = some e → bit e 4 = true → bits e 0 4 < s.nPorts →
    (s.port (bits e 0 4)).efence = false → (s.port (bits e 0 4)).lfence = false → (s.port (bits e 0 4)).st = .up →
    (SMap.get OrdDst.reset s.fab.dst dev).n + 64 < 2 ^ 32 →
    ∃ k, SMap.get [] (u.port (bits e 0 4)).tx.egress vc = SMap.get [] (s.port (bits e 0 4)).tx.egress vc ++ [k] ∧ f k

/-- The same on RSP. -/
def Answers (s u : State) (dev : Nat) (f : Packet → Prop) : Prop := Sends s u 1 dev f

/-- A message of one flit whose word `i` is `w` stands last on SIG towards device `dev`. -/
def Signals (s u : State) (dev i : Nat) (w : Word) : Prop :=
  Sends s u 3 dev fun k => (Hdr.dec k.hdr).opc = 9 ∧ wd (bytesToWords k.payload 16) i = w

/-- Packet `k` stands before the packets `r` in queue `vc` of `ing`, is for this device, keeps Tables 9.4 and 9.5, belongs to the
interval of its source that is open, whose flagged packets have none waiting, and to a partition that is not shadowed. -/
def Arrives (s : State) (ing vc : Nat) (k : Packet) (r : List Packet) : Prop :=
  let h := Hdr.dec k.hdr
  s.queueOf ing vc = k :: r ∧ h.dst = s.me ∧ h.vc = vc ∧ hdrOk k.hdr = true ∧ k.data.length = h.len ∧ h.sync = false ∧
  h.fi = (s.ordOf h.src).cur ∧ (s.ordOf h.src).vest = [] ∧ (s.part h.part).sh.role = 0

/-- The `n` bytes from `a` lie in the Marl and no error mark lies in or beside their blocks: a service access delivers what they hold (R178,
R185). -/
def Sound (s : State) (a n : Nat) : Prop :=
  (∀ i, i < n → ∃ k o, s.region (a + i) = .marl k o) ∧ ∀ x ∈ s.dev.bad ++ s.dev.crcBad, x + 256 ≤ a ∨ a + n + 256 ≤ x

/-- The bytes `bs` have been written at address `a`, and no other byte has changed. -/
def Wrote (s u : State) (a : Nat) (bs : List Byte) : Prop :=
  ∀ x, u.rdByte x = if a ≤ x ∧ x < a + bs.length then bs.getD (x - a) 0 else s.rdByte x

/-- The reply to the command of reference `r` in this tick (Table 16.4). -/
def answerTo (s : State) (r : CmdRef) (status : Nat) (res : List Word) : Reply :=
  { tag := r.tag, opc := r.opc, status := status, part := r.part, irq := r.irq, mtick := s.now, res := res }

/-- The command of reference `r` has been answered with `status` and `res`: its reply stands last among those formed for its
function, in completion order (R455, R456). A command whose port has been reset has none. -/
def Replied (s u : State) (r : CmdRef) (status : Nat) (res : List Word) : Prop :=
  r.hp < 2 → (u.fn r.hp r.fn).held = (s.fn r.hp r.fn).held ++ [answerTo s r status res]

/-- Launch message `m` waits to be sent on port `n` (R248, R300). -/
def Tells (u : State) (n : Nat) (m : BitVec 192) : Prop := ∃ y ∈ (u.port n).tx.msgs, y.mtype = 3 ∧ y.body = m

/-- Packet `k` is the one that the command processor takes next, and `u` is the state without it; its operation code is `op`, and it passes
the checks that every command of the form `f` has (R450, R453, R454). -/
def Takes (s u : State) (k : Pkt) (op : Nat) (f : Form) : Prop := s.front = some (k, u) ∧ k.opc = op ∧ u.formBad k f [] = none ∧ u.lateBad f = none

/-- The packet's reply is all that the command leaves: nothing outside the command processor has changed. -/
def OnlyReply (s t : State) (k : Pkt) (status : Nat) (res : List Word) : Prop :=
  Replied s t k.ref status res ∧ t = { s with cmd := t.cmd }

/-- Lane `i` of the vectors of a VE operation's TYPE that begin at a 256-byte unit (R143). -/
def laneAt (v : Tile) (w0 : Word) (unit i : Nat) : FV :=
  let b := typeWidth (veType w0) / 8
  (typeFmt (veType w0)).decode (leNat (v.opndRd (256 * unit + i * b) b))

/-- The bytes of a VE operation's lanes, each rounded once to TYPE (R144). -/
def lanesOut (w0 : Word) (f : Nat → FV) : List Byte :=
  (List.range (veN w0 * typeLanes (veType w0))).flatMap fun i =>
    toLE (typeWidth (veType w0) / 8) ((typeFmt (veType w0)).encode (f i))

end Sys2Proof
end

