-- ==== Sys2Proof/Certificates/Slice0/Obligations.lean ====
section
/-! DEFINITION. The statements for the provers, each about what the manual says a command or the machine does. -/

open Sys2Proof Sys2Proof.Machine

/-- Issued in the beat in progress and not skipped, ADD, SUB and MUL make visible at completion the sum, difference and
product modulo 2^64 in sd and nothing else; SHL, SHR and SAR shift a by b[5:0], SAR filling with bit 63; SETP writes to
pd whether COND holds of a and b. Operand a is s[SA]; b is s[SB], or word 1 sign-extended when IMM = 1. The issue
changes the tile's SC queue, the awaited barrier bit and the operations in flight only, and nothing else of the state;
the result is visible 1 b after issue, for MUL 3 b, times the plan scale. (R140) -/
def Obligations.ScalarOperations : Prop :=
  ∀ (s : State) (t : Nat) (e : QEntry),
    let a := (s.tile t).s (fld e.w0 20 4)
    let b := if flag e.w0 28 then e.w1.signExtend 64 else (s.tile t).s (fld e.w0 24 4)
    let d := fld e.w0 16 4
    let k := s.tscale t
    let res := fun (lat : Nat) (x : Effect) (u : State) => Issued s u t .sc e (k * lat) k 0 [x]
    (Issues s t .sc 0x3 e → ∃ u, exec (.add t) s = .next u ∧ res 1 (.sreg d (BitVec.ofNat 64 (a.toNat + b.toNat))) u) ∧
    (Issues s t .sc 0x4 e → ∃ u, exec (.sub t) s = .next u ∧ res 1 (.sreg d (BitVec.ofInt 64 ((a.toNat : Int) - b.toNat))) u) ∧
    (Issues s t .sc 0xB e → ∃ u, exec (.mul t) s = .next u ∧ res 3 (.sreg d (BitVec.ofNat 64 (a.toNat * b.toNat))) u) ∧
    (Issues s t .sc 0x8 e → ∃ u, exec (.shl t) s = .next u ∧ res 1 (.sreg d (BitVec.ofNat 64 (a.toNat * 2 ^ (b.toNat % 64)))) u) ∧
    (Issues s t .sc 0x9 e → ∃ u, exec (.shr t) s = .next u ∧ res 1 (.sreg d (BitVec.ofNat 64 (a.toNat / 2 ^ (b.toNat % 64)))) u) ∧
    (Issues s t .sc 0xA e → ∃ u, exec (.sar t) s = .next u ∧ res 1 (.sreg d (BitVec.ofInt 64 (a.toInt / 2 ^ (b.toNat % 64)))) u) ∧
    (Issues s t .sc 0xC e → ∃ u, exec (.setp t) s = .next u ∧ res 1 (.pred d (match fld e.w0 29 3 with
        | 0 => decide (a = b)
        | 1 => decide (a ≠ b)
        | 2 => decide (a.toInt < b.toInt)
        | 3 => decide (b.toInt ≤ a.toInt)
        | 4 => decide (a.toNat < b.toNat)
        | _ => decide (b.toNat ≤ a.toNat))) u)

/-- Issued and not skipped, SNOP makes nothing visible; LI writes word 1 sign-extended to sd; LIH writes word 1 to sd[63:32]
and keeps sd[31:0]; AND, OR and XOR write the bitwise function of a and b to sd; PLOG writes pa AND pb, pa OR pb, pa XOR
pb or pa AND NOT pb to pd. Each completes 1 b after issue, times the plan scale, and its issue changes nothing else.
(05_instruction_reference.md R138, 05_instruction_reference.md R139, 05_instruction_reference.md Table 5.2) -/
def Obligations.ScalarMoves : Prop :=
  ∀ (s : State) (t : Nat) (e : QEntry),
    let a := (s.tile t).s (fld e.w0 20 4)
    let b := if flag e.w0 28 then e.w1.signExtend 64 else (s.tile t).s (fld e.w0 24 4)
    let d := fld e.w0 16 4
    let old := (s.tile t).s d
    let pa := (s.tile t).pred.getLsbD (fld e.w0 20 4)
    let pb := (s.tile t).pred.getLsbD (fld e.w0 24 4)
    let k := s.tscale t
    let res := fun (x : List Effect) (u : State) => Issued s u t .sc e k k 0 x
    (Issues s t .sc 0x0 e → ∃ u, exec (.snop t) s = .next u ∧ res [] u) ∧
    (Issues s t .sc 0x1 e → ∃ u, exec (.li t) s = .next u ∧ res [.sreg d (BitVec.ofInt 64 e.w1.toInt)] u) ∧
    (Issues s t .sc 0x2 e → ∃ u, exec (.lih t) s = .next u ∧
      res [.sreg d (BitVec.ofNat 64 (e.w1.toNat * 2 ^ 32 + old.toNat % 2 ^ 32))] u) ∧
    (Issues s t .sc 0x5 e → ∃ u, exec (.and t) s = .next u ∧ res [.sreg d (a &&& b)] u) ∧
    (Issues s t .sc 0x6 e → ∃ u, exec (.or t) s = .next u ∧ res [.sreg d (a ||| b)] u) ∧
    (Issues s t .sc 0x7 e → ∃ u, exec (.xor t) s = .next u ∧ res [.sreg d (a ^^^ b)] u) ∧
    (Issues s t .sc 0xD e → ∃ u, exec (.plog t) s = .next u ∧ res [.pred d (match fld e.w0 29 3 with
        | 0 => pa && pb
        | 1 => pa || pb
        | 2 => pa ^^ pb
        | _ => pa && !pb)] u)

/-- When the timing-control operation decoded next is a CNTI, its counter takes word 1 and no other counter changes. A CMPC
with EN = 1 gives its comparator CNT, COND and REF; one with EN = 0 disables it, and its predicate p12 to p15 becomes 0
while every other predicate keeps its value. A LOOP on a counter that reads 0 opens no loop and passes over its B body
words; on any other value it opens a loop of B words that starts at the word after its own and takes the word's skip.
The enclosing loop has B words fewer left. The rest of the tile and of the state is unchanged. (03_tiles_and_queues.md
R86, 03_tiles_and_queues.md R94, 03_tiles_and_queues.md R96, 03_tiles_and_queues.md R99, 05_instruction_reference.md
R142, 05_instruction_reference.md Table 5.4) -/
def Obligations.TimingControlAtDecode : Prop :=
  ∀ (s : State) (t : Nat) (e : QEntry) (r : List (Queue × QEntry)), (s.tile t).fe.tcs = (.sc, e) :: r →
    let v := s.tile t
    let j := fld e.w0 16 3
    let i := fld e.w0 16 2
    let b := fld e.w0 19 12 + 1
    (opcode e.w0 = 0x11 → ∃ c, exec (.cnti t) s = .next (s.setTile t { v with cnt := c, fe := { v.fe with tcs := r } }) ∧
      ∀ n, SMap.get 0 c n = if n = j then e.w1 else v.cntOf n) ∧
    (opcode e.w0 = 0x12 → ∃ c p, exec (.cmpc t) s = .next (s.setTile t { v with cmp := c, pred := p, fe := { v.fe with tcs := r } }) ∧
      (∀ n, SMap.get Cmp.reset c n =
        if n = i then { en := flag e.w0 23, cnt := fld e.w0 18 3, cond := fld e.w0 21 2, ref := e.w1 } else v.cmpOf n) ∧
      (∀ n, n < 16 → p.getLsbD n = if n = 12 + i ∧ flag e.w0 23 = false then false else v.pred.getLsbD n)) ∧
    (opcode e.w0 = 0x10 → ∃ l n, exec (.loop t) s = .next (s.setTile t { v with fe := { v.fe with tcs := r, loops := l, passL := n } }) ∧
      (if v.cntOf j = 0 then n = b ∧ l.length = v.fe.loops.length
       else n = v.fe.passL ∧ l.head? = some { cnt := j, start := v.fe.pc, body := b, left := b, skip := e.skip } ∧
         l.length = v.fe.loops.length + 1) ∧
      (∀ x y, v.fe.loops = x :: y → ({ x with left := x.left - b } :: y) <:+ l))

/-- Issued and not skipped, each of VADD, VSUB, VMUL, VMAX, VMIN, VFMA, VSCL and VFN makes visible at VD, lane by lane over
VN vectors, the exact sum, difference, product, maximum, minimum, fused VA x VB + VD, product with the FP32 value in
bits 31:0 of s[VB], or function of Table 5.6, each rounded once to TYPE. It occupies its unit for VN beats and completes
5 b after its occupancy (VFN 9 b); nothing else of the tile or the state changes at issue. (05_instruction_reference.md
R143, 05_instruction_reference.md R144, 05_instruction_reference.md R146, 05_instruction_reference.md Table 5.1) -/
def Obligations.VectorLanes : Prop :=
  ∀ (s : State) (t : Nat) (e : QEntry),
    let v := s.tile t
    let a := fun i => laneAt v e.w0 (veA e.w1) i
    let b := fun i => laneAt v e.w0 (veB e.w1) i
    let d := fun i => laneAt v e.w0 (veD e.w1) i
    let f := fp32.decode ((v.s (veB e.w1 % 16)).toNat % 2 ^ 32)
    let k := s.tscale t
    let n := veN e.w0
    let res := fun (lat : Nat) (g : Nat → FV) (u : State) =>
      Issued s u t .ve e (k * (n + lat)) (k * n) 0 [.opnd (256 * veD e.w1) (lanesOut e.w0 g)]
    (Issues s t .ve 1 e → ∃ u, exec (.vadd t) s = .next u ∧ res 5 (fun i => (a i).add (b i)) u) ∧
    (Issues s t .ve 2 e → ∃ u, exec (.vsub t) s = .next u ∧ res 5 (fun i => (a i).add (b i).neg) u) ∧
    (Issues s t .ve 3 e → ∃ u, exec (.vmul t) s = .next u ∧ res 5 (fun i => (a i).mul (b i)) u) ∧
    (Issues s t .ve 4 e → ∃ u, exec (.vfma t) s = .next u ∧ res 5 (fun i => ((a i).mul (b i)).add (d i)) u) ∧
    (Issues s t .ve 5 e → ∃ u, exec (.vmax t) s = .next u ∧ res 5 (fun i => (a i).max (b i)) u) ∧
    (Issues s t .ve 6 e → ∃ u, exec (.vmin t) s = .next u ∧ res 5 (fun i => (a i).min (b i)) u) ∧
    (Issues s t .ve 7 e → ∃ u, exec (.vscl t) s = .next u ∧ res 5 (fun i => (a i).mul f) u) ∧
    (Issues s t .ve 8 e → ∃ u, exec (.vfn t) s = .next u ∧ Issued s u t .ve e (k * (n + 9)) (k * n) 0
      [.opnd (256 * veD e.w1) ((List.range (n * typeLanes (veType e.w0))).flatMap fun i =>
        toLE (typeWidth (veType e.w0) / 8) (vfnEval (veFn e.w0) (typeFmt (veType e.w0)) (a i)))])

/-- Issued and not skipped, VRED writes at VD one FP32 value per vector: FN = 0 the sum by a pairwise tree that rounds each
addition to FP32, FN = 1 the maximum; it completes 7 b after its VN beats. VCVT writes at VD the lanes converted to the
format of DFMT, packed densely; it completes 5 b after its VN beats. Nothing else changes at issue.
(05_instruction_reference.md R145, 05_instruction_reference.md R147, 05_instruction_reference.md Table 5.1) -/
def Obligations.VectorReduceAndConvert : Prop :=
  ∀ (s : State) (t : Nat) (e : QEntry),
    let v := s.tile t
    let a := fun i => laneAt v e.w0 (veA e.w1) i
    let l := typeLanes (veType e.w0)
    let k := s.tscale t
    let n := veN e.w0
    (Issues s t .ve 9 e → ∃ u, exec (.vred t) s = .next u ∧ Issued s u t .ve e (k * (n + 7)) (k * n) 0
      [.opnd (256 * veD e.w1) ((List.range n).flatMap fun i => toLE 4
        (treeOf (if veFn e.w0 = 0 then fp32Add else fp32Max) 7 ((List.range l).map fun j => fp32.encode (a (i * l + j)))))]) ∧
    (Issues s t .ve 0xA e → ∃ u, exec (.vcvt t) s = .next u ∧ Issued s u t .ve e (k * (n + 5)) (k * n) 0
      [.opnd (256 * veD e.w1) (packElems (elemWidth (veFn e.w0 % 16)) ((List.range (n * l)).map fun i => cvt (veFn e.w0 % 16) (a i)))])

/-- Issued and not skipped: VSLB makes visible at its unit the rows of its set from ROW0 in the target format, row after
row. VSLD, on a clear set or on one of the same window and mode whose depth stays at most 32,768, establishes the set or
raises its depth by 1 in slab mode and 0 in float mode, and makes visible one accumulator for each loaded value, clamped
with SAT where its magnitude is 2^112 or more, with clear sticky bits otherwise. VSCLR leaves the named set, or both,
with no window, mode or depth, and clears the accumulators at completion. Nothing else changes at issue.
(05_instruction_reference.md R148, 05_instruction_reference.md R150, 04_matrix_engine.md R123) -/
def Obligations.SlabSetOperations : Prop :=
  ∀ (s : State) (t : Nat) (e : QEntry),
    let v := s.tile t
    let k := s.tscale t
    let set := slabSet e.w0
    let rows := vslbRows e.w0
    (Issues s t .ve 0x10 e → ∃ u, exec (.vslb t) s = .next u ∧
      let occ := rows * tfmtBpr (vslbTfmt e.w0)
      Issued s u t .ve e (k * (occ + 6)) (k * occ) 0
        [.opnd (256 * veD e.w1) ((List.range rows).flatMap fun i => v.slabRow set (rowZero e.w1 + i) (vslbTfmt e.w0))]) ∧
    (Issues s t .ve 0x11 e →
      let i := v.info set
      let mode := if vsldFloat e.w0 then SlabMode.float else SlabMode.slab
      let dep := if vsldFloat e.w0 then 0 else 1
      let sz := if vsldRaw64 e.w0 then 8 else 16
      let occ := rows * (if vsldRaw64 e.w0 then 2 else 4)
      let src := v.opndRd (256 * veD e.w1) (rows * 64 * sz)
      (i.mode = .clear ∨ (i.wb = vsldWb e.w0 ∧ i.mode = mode)) → i.depth + dep ≤ 32768 →
      ∃ u accs, exec (.vsld t) s = .next u ∧
        Issued (s.setTile t (v.setInfo set (if i.mode = .clear
            then { wb := vsldWb e.w0, mode := mode, pair := false, depth := dep } else { i with depth := i.depth + dep })))
          u t .ve e (k * (occ + 6)) (k * occ) 0 [.slabRows set (rowZero e.w1) accs] ∧
        accs.length = rows * 64 ∧
        ∀ j, j < rows * 64 → let x := leNat ((src.drop (j * sz)).take sz)
          accs[j]? = some (if vsldFloat e.w0 then { a := BitVec.ofNat 128 (x % 2 ^ 32), sat := false, inv := false }
            else if (sval (8 * sz) x).natAbs < 2 ^ 112 then { a := BitVec.ofInt 128 (sval (8 * sz) x), sat := false, inv := false }
            else { a := BitVec.ofInt 128 (if sval (8 * sz) x < 0 then -(2 ^ 112 - 1) else 2 ^ 112 - 1), sat := true, inv := false })) ∧
    (Issues s t .ve 0x12 e →
      let a0 := flag e.w0 17 || decide (set = 0)
      let a1 := flag e.w0 17 || decide (set = 1)
      ∃ u, exec (.vsclr t) s = .next u ∧
        Issued (s.setTile t { v with info0 := if a0 then SlabInfo.reset else v.info0, info1 := if a1 then SlabInfo.reset else v.info1 })
          u t .ve e k k 0 [.slabClear a0 a1])

/-- Issued and not skipped: an MXR that meets no matrix fault establishes for each set it updates the window, mode and
pairing of R123 on a clear set or with CLR = 1, and otherwise raises the depth by its k-steps in slab mode, captures the
operands of its first read, and holds the engine for its occupancy (N beats, 2N for sixteen-bit operands); it completes
13 b after its occupancy. WARM holds the engine for 32 beats. Both leave the engine warm with an idle count of 0. MXCFG
with no run in flight sets the ring at its completion, and one that names the ring in force makes nothing visible. No
accumulator, register, predicate or memory byte changes at issue. (04_matrix_engine.md R110, 04_matrix_engine.md R123,
04_matrix_engine.md R129, 04_matrix_engine.md R130, 04_matrix_engine.md Table 4.6) -/
def Obligations.MatrixRunIssues : Prop :=
  ∀ (s : State) (t : Nat) (e : QEntry),
    let v := s.tile t
    let k := s.tscale t
    let d := v.s (mxAreg e.w1)
    let n := mxN e.w1
    let rate := mxRate (mxAf e.w0) (mxWf e.w1)
    let occ := if rate = .sixteen then 2 * n else n
    let sets := if rate = .paired then [0, 1] else [mxSet e.w0]
    let mode := if mxFloat e.w0 then SlabMode.float else SlabMode.slab
    let steps := if mxFloat e.w0 then 0 else n
    let active := fun (w : State) (o : Nat) => w.pending = s.pending ∧ w.stks = s.stks ∧ w.ports = s.ports ∧ w.mem = s.mem ∧
      w.cmd = s.cmd ∧ w.dev = s.dev ∧ w.fab = s.fab ∧ (∀ j, j ≠ t → w.tile j = s.tile j) ∧
      (w.tile t).mx.cold = false ∧ (w.tile t).mx.idle = 0 ∧ (w.tile t).mx.busy = v.now + k * o ∧
      (w.tile t).mx.wbase = v.mx.wbase ∧ (w.tile t).mx.wblks = v.mx.wblks ∧
      (w.tile t).acc0 = v.acc0 ∧ (w.tile t).acc1 = v.acc1 ∧ (w.tile t).opnd = v.opnd ∧ (w.tile t).sreg = v.sreg ∧
      (w.tile t).pred = v.pred ∧ (w.tile t).xb = v.xb ∧ (w.tile t).fly = v.fly ∧ (w.tile t).q = v.q
    (Issues s t .mx 1 e → v.mxrFault e.w0 e.w1 d = none → ∃ u w, exec (.mxr t) s = .next u ∧ active w occ ∧
      (∀ set, set < 2 → (w.tile t).info set =
        if set ∈ sets then
          (if mxClr e.w0 = true ∨ (v.info set).mode = .clear
           then { wb := mxWb e.w0, mode := mode, pair := decide (rate = .paired), depth := steps }
           else { v.info set with depth := (v.info set).depth + steps })
        else v.info set) ∧
      Issued w u t .mx e (k * (occ + 13)) (k * occ) 0
        [.mxr { w0 := e.w0, w1 := e.w1, d := d, wbase := v.mx.wbase, wblks := v.mx.wblks,
                ks := [v.readStep e.w0 e.w1 d v.mx.wbase v.mx.wblks 0], reads := 1, upd := 0, sat := false, inv := false }]) ∧
    (Issues s t .mx 2 e → ∃ u w, exec (.warm t) s = .next u ∧ active w 32 ∧ (∀ set, (w.tile t).info set = v.info set) ∧
      Issued w u t .mx e (k * 32) (k * 32) 0 []) ∧
    (Issues s t .mx 3 e → mxcfgBase e.w0 = v.mx.wbase → mxcfgBlks e.w0 = v.mx.wblks →
      ∃ u, exec (.mxcfg t) s = .next u ∧ Issued s u t .mx e k k 0 []) ∧
    (Issues s t .mx 3 e → ¬ (mxcfgBase e.w0 = v.mx.wbase ∧ mxcfgBlks e.w0 = v.mx.wblks) → v.runInFlight = false →
      ∃ u, exec (.mxcfg t) s = .next u ∧ Issued s u t .mx e k k 0 [.ring (mxcfgBase e.w0) (mxcfgBlks e.w0)])

/-- When the oldest operation of the MX queue is a slab-mode run of one set that has read its operands, sets no barrier bit
and is due, OPERATION_COMPLETE makes every update that is left: accumulator (m, n) of the set holds its value before (0
with CLR = 1 where no update has been made yet) plus, modulo 2^128, the sum of the products' contributions in the run's
window over the reads left that cover column n; SAT is set if it was set or some contribution was clamped, INV if it was
set or some operand was a NaN or an infinity. The other set, the registers, the predicates, the operand store and the
memory keep their values, and the run is no longer in flight. (04_matrix_engine.md R110, 04_matrix_engine.md R120,
04_matrix_engine.md R121, 04_matrix_engine.md R129) -/
def Obligations.MatrixRunAccumulates : Prop :=
  ∀ (s : State) (t : Nat) (f : Flight) (r : MxRun),
    let v := s.tile t
    Completes s t .mx f → f.set = none →
    f.eff = [.mxr r] → mxFloat r.w0 = false → mxRate (mxAf r.w0) (mxWf r.w1) ≠ .paired →
    r.reads = mxReads r.w0 r.w1 → r.upd + r.ks.length = r.reads → (∀ k ∈ r.ks, k.n0 + k.w.length ≤ 64) →
    ∃ u, exec (.operationComplete t .mx) s = .next u ∧
      (∀ m n, m < 64 → n < 64 →
        let o := if mxClr r.w0 = true ∧ r.upd = 0 then Acc.zero else v.acc (mxSet r.w0) m n
        let p := (r.ks.filter fun k => decide (k.n0 ≤ n ∧ n < k.n0 + k.w.length)).map fun k => k.prod (mxAf r.w0) (mxWf r.w1) m (n - k.n0)
        (u.tile t).acc (mxSet r.w0) m n =
          { a := o.a + BitVec.ofInt 128 ((p.map fun x => if x.2 then 0 else (contrib (mxWb r.w0) x.1).1).sum),
            sat := o.sat || p.any fun x => !x.2 && (contrib (mxWb r.w0) x.1).2,
            inv := o.inv || p.any fun x => x.2 }) ∧
      (∀ set m n, set ≠ mxSet r.w0 → set < 2 → (u.tile t).acc set m n = v.acc set m n) ∧
      (u.tile t).fly = v.fly.filter (fun x => decide (x.id ≠ f.id)) ∧
      (u.tile t).sreg = v.sreg ∧ (u.tile t).pred = v.pred ∧ (u.tile t).opnd = v.opnd ∧ (u.tile t).xb = v.xb ∧
      u.mem = s.mem ∧ ∀ j, j ≠ t → u.tile j = s.tile j

/-- Two sequences of slab-mode updates of a set, of the same window and from the same tile, leave the same A, SAT and INV in
an accumulator whenever the products that their reads add to it are the same multiset, whatever the order of the reads,
their formats, their rows or their lanes; and an accumulator to which no read of a sequence adds a product keeps its A,
SAT and INV. (R124) -/
def Obligations.SlabSumsOrderFree : Prop :=
  ∀ (v : Tile) (set m n : Nat), m < 64 → n < 64 → set < 2 →
    let fits := fun (ks : List KStep) => ∀ k ∈ ks, k.n0 + k.w.length ≤ 64
    let go := fun (base : Nat) (w0 w1 : Word) (ks : List KStep) =>
      (ks.foldl (fun (x : Tile) k => x.setAccs set (x.stepSet set base w0 w1 k).1) v).acc set m n
    let prods := fun (base : Nat) (w0 w1 : Word) (ks : List KStep) =>
      (ks.filter fun k => decide (k.n0 ≤ n ∧ n < k.n0 + k.w.length)).map fun k => k.prod (mxAf w0) (mxWf w1) (base + m) (n - k.n0)
    (∀ (base base' : Nat) (w0 w1 w0' w1' : Word) (ks ls : List KStep),
      mxFloat w0 = false → mxFloat w0' = false → mxWb w0 = mxWb w0' → fits ks → fits ls →
      (prods base w0 w1 ks).Perm (prods base' w0' w1' ls) → go base w0 w1 ks = go base' w0' w1' ls) ∧
    (∀ (base : Nat) (w0 w1 : Word) (ks : List KStep), fits ks → prods base w0 w1 ks = [] → go base w0 w1 ks = v.acc set m n)

/-- When the count of idle clock beats of a tile's engine has reached 64, ENGINE_COLD makes the engine cold and changes
nothing else; while it is below 64 the command changes nothing. When the last beat of an inserted ramp has run,
INSERTED_RAMP_END ends it: the engine is warm with an idle count of 0, and the run at the head may issue; nothing else
changes. (04_matrix_engine.md R130, 04_matrix_engine.md R132) -/
def Obligations.EngineActivity : Prop :=
  ∀ (s : State) (t : Nat),
    let v := s.tile t
    (64 ≤ v.mx.idle → exec (.engineCold t) s = .next (s.setTile t { v with mx := { v.mx with cold := true } })) ∧
    (v.mx.idle < 64 → exec (.engineCold t) s = .next s) ∧
    (v.mx.ramp = 1 → exec (.insertedRampEnd t) s =
      .next (s.setTile t { v with mx := { v.mx with ramp := 0, ramped := true, cold := false, idle := 0 } }))

/-- Issued and not skipped: LDL from a 256-byte aligned range below the Landing makes its bytes visible at its operand-store
unit after its occupancy of ceil(L/2) beats; LDS from an 8-byte aligned word below the Landing makes that little-endian
word visible in sd 3 b after issue; LDG of one or two slots whose tags equal the expected epoch makes their bytes
visible at its unit. The ranges hold no marked error. The issue records how long the LD queue reads the Loft and changes
nothing else of the state. (05_instruction_reference.md R155, 05_instruction_reference.md R157,
05_instruction_reference.md Table 5.1, 06_memory_hierarchy.md R167) -/
def Obligations.LoftLoads : Prop :=
  ∀ (s : State) (t : Nat) (e : QEntry),
    let v := s.tile t
    let k := s.tscale t
    let clean := fun a n => ∀ x, a ≤ x → x < a + n → x ∉ s.dev.bad ∧ x ∉ s.dev.soft
    let busy := fun n => s.setTile t { v with loftRd := v.now + n }
    (Issues s t .ld 1 e →
      let off := v.loftOff (lsAreg e.w0) (offBytes e.w1)
      let n := 256 * ldlL e.w0
      let occ := ceilDiv (ldlL e.w0) 2
      off % 256 = 0 → off + n ≤ 0xF0000 → clean (loftAddr t off) n →
      ∃ u, exec (.ldl t) s = .next u ∧
        Issued (busy occ) u t .ld e (k * occ) (k * occ) 0 [.opnd (256 * osUnit e.w1) (s.rd (loftAddr t off) n)]) ∧
    (Issues s t .ld 4 e →
      let off := v.loftOffS (ldsAreg e.w0) e.w1
      off % 8 = 0 → off + 8 ≤ 0xF0000 → clean (loftAddr t off) 8 →
      ∃ u, exec (.lds t) s = .next u ∧
        Issued (busy 1) u t .ld e (k * 3) k 0 [.sreg (ldsD e.w0) (s.rdW (loftAddr t off))]) ∧
    (Issues s t .ld 2 e →
      let ep := s.epochOf t (ldgEpoch e.w1) e.par
      let slot := ldgSlot e.w0
      let n := ldgN e.w0
      let a := loftAddr t (0xF0000 + 256 * slot)
      n ≤ 2 → (∀ p, s.partOf t = some p → (s.part p).run.hzd = false) →
      (∀ i, i < n → v.tagOf (slot + i) = ep ∧ (t, slot + i) ∉ s.dev.badTag ∧ (t, slot + i) ∉ s.dev.softTag) → clean a (256 * n) →
      ∃ u, exec (.ldg t) s = .next u ∧
        Issued (busy (ceilDiv n 2)) u t .ld e (k * ceilDiv n 2) (k * ceilDiv n 2) 0 [.opnd (256 * ldgDst e.w1) (s.rd a (256 * n))])

/-- Issued and not skipped, on a 256-byte aligned range of usable Marl that the tile's partition owns: LDM puts on the
channels, in rising address order, one plan block for each 256 bytes, which will bring them to the operand store or,
with SEL = 1, to the Loft, and completes only when all its blocks have arrived, no earlier than the published latency
plus its occupancy of 4 b a block; with INC = 1 it also makes s[AREG] + 256 L visible 1 b after issue. STM without a
digest puts blocks that write the bytes read at issue from the operand store. Nothing else changes at issue.
(05_instruction_reference.md R155, 05_instruction_reference.md R156, 06_memory_hierarchy.md R166, 06_memory_hierarchy.md
R172) -/
def Obligations.MarlLoadsAndStores : Prop :=
  ∀ (s : State) (t : Nat) (e : QEntry),
    let v := s.tile t
    let k := s.tscale t
    let n := lsmL e.w0
    let a := v.marlAddr (lsAreg e.w0) (lsmOff e.w1)
    let own := a % 256 = 0 ∧ ∀ i, i < n → (∃ m o, s.region (a + 256 * i) = .marl m o) ∧ s.blkOwned t (a + 256 * i) = true
    let dst := fun i => 256 * (lsmUnit e.w1 + i)
    let loads := (List.range n).map fun i =>
      ({ addr := a + 256 * i, tile := t, fly := v.nextId, op := if lsmSel e.w0 then .rdLoft (dst i) else .rdOpnd (dst i) } : Blk)
    let stores := (List.range n).map fun i =>
      ({ addr := a + 256 * i, tile := t, fly := v.nextId, op := .wr (v.opndRd (dst i) 256) } : Blk)
    (Issues s t .ld 3 e → own → ldmInc e.w0 = false → ∃ u, exec (.ldm t) s = .next u ∧
      Issued (s.pushBlks loads) u t .ld e (s.lMfor t a (256 * n) + k * (4 * n)) (k * (4 * n)) n []) ∧
    (Issues s t .ld 3 e → own → ldmInc e.w0 = true → ∃ u w f, exec (.ldm t) s = .next u ∧
      w = (s.pushBlks loads).setTile t { v with fly := f :: v.fly } ∧
      f.q = .ld ∧ f.due = v.now + k ∧ f.sregs = [lsAreg e.w0] ∧ f.need = 0 ∧ f.set = none ∧
      f.eff = [.sreg (lsAreg e.w0) (BitVec.ofNat 64 ((v.s (lsAreg e.w0)).toNat + 256 * n))] ∧
      Issued w u t .ld e (s.lMfor t a (256 * n) + k * (4 * n)) (k * (4 * n)) n []) ∧
    (Issues s t .st 5 e → own → stmDig e.w0 = false → lsmSel e.w0 = false → ∃ u, exec (.stm t) s = .next u ∧
      Issued (s.pushBlks stores) u t .st e (s.lWfor t a (256 * n) + k * (4 * n)) (k * (4 * n)) n [])

/-- Issued and not skipped, without a digest, to an address aligned as the operation needs and ending at or below the
Landing: STL stores the 256 L bytes of the operand store from its unit, visible after its occupancy of ceil(L/2) beats;
STA the rows of its set from ROW0 in its target format, 6 b after its occupancy; STS the eight little-endian bytes of
its scalar register 2 b after issue. The operands are read at issue, the address is s[AREG] + OFF modulo 2^20, and no
memory byte changes before completion. (05_instruction_reference.md R158, 06_memory_hierarchy.md R167,
03_tiles_and_queues.md R77, 05_instruction_reference.md Table 5.1) -/
def Obligations.LoftStores : Prop :=
  ∀ (s : State) (t : Nat) (e : QEntry),
    let v := s.tile t
    let k := s.tscale t
    (Issues s t .st 1 e → stlDig e.w0 = false →
      let off := ((v.s (lsAreg e.w0)).toNat + offBytes e.w1) % 2 ^ 20
      let occ := ceilDiv (ldlL e.w0) 2
      off % 256 = 0 → off + 256 * ldlL e.w0 ≤ 0xF0000 → ∃ u, exec (.stl t) s = .next u ∧
        Issued s u t .st e (k * occ) (k * occ) 0 [.mem (loftAddr t off) (v.opndRd (256 * osUnit e.w1) (256 * ldlL e.w0))]) ∧
    (Issues s t .st 2 e → staDig e.w0 = false →
      let off := ((v.s (staAreg e.w0)).toNat + offBytes e.w1) % 2 ^ 20
      let occ := staRows e.w0 * tfmtBpr (staTfmt e.w0)
      let bs := (List.range (staRows e.w0)).flatMap fun i => v.slabRow (slabSet e.w0) (staRow0 e.w1 + i) (staTfmt e.w0)
      off % 256 = 0 → off + bs.length ≤ 0xF0000 → ∃ u, exec (.sta t) s = .next u ∧
        Issued s u t .st e (k * (occ + 6)) (k * occ) 0 [.mem (loftAddr t off) bs]) ∧
    (Issues s t .st 6 e →
      let off := (((v.s (ldsAreg e.w0)).toNat : Int) + e.w1.toInt) % 2 ^ 20
      off % 8 = 0 → off + 8 ≤ 0xF0000 → ∃ u, exec (.sts t) s = .next u ∧
        Issued s u t .st e (k * 2) k 0 [.mem (loftAddr t off.toNat) (toLE 8 (v.s (fld e.w0 16 4)).toNat)])

/-- Issued and not skipped, on a tile of a partition with a plan: STN of one slot puts on the die the 256 bytes of its
operand-store unit with the slot, epoch and destination tile, and leaves everything else unchanged. STD of a departure
that is not already staged, with fewer than 64 held, appends to its port's departure buffer the entry with its 256 x NS
bytes, the header with the entry's destination, slot and epoch, and the departure tick START + DOFF after the launch,
and leaves everything else unchanged. (02_plan_contract.md R47, 05_instruction_reference.md R159, 09_scheduled_fabric.md
R264) -/
def Obligations.PlanSends : Prop :=
  ∀ (s : State) (t p : Nat) (e : QEntry) (pl : Plan), s.partOf t = some p → (s.part p).plan = some pl →
    let v := s.tile t
    let k := s.tscale t
    (Issues s t .st 3 e → stnN e.w0 = 1 → ∃ u o, exec (.stn t) s = .next u ∧
      o.src = t ∧ o.dst = stnTile e.w0 ∧ o.slot = stnSlot e.w1 ∧ o.epoch = s.epochOf t (stnEpoch e.w1) e.par ∧ o.part = p ∧
      o.data = v.opndRd (256 * stnSrc e.w1) 256 ∧
      Issued { s with fab := { s.fab with onDie := s.fab.onDie ++ [o] } } u t .st e k k 0 []) ∧
    (∀ d, Issues s t .st 4 e → pl.deps[stdDep e.w0]? = some d → (s.part p).sh.silent = false →
      let held := (s.port d.port).tx.dbuf.filter fun x => !x.void
      let lat := ceilDiv (5 * Config.sMax t d.port) 4
      held.length < 64 → (∀ x ∈ held, ¬ (x.dep = stdDep e.w0 ∧ x.part = p)) →
      ∃ u x, exec (.std t) s = .next u ∧
        x.dep = stdDep e.w0 ∧ x.part = p ∧ x.tile = t ∧ x.void = false ∧
        x.pkt.data = flitsOf (v.opndRd (256 * stdSrc e.w1) (256 * d.ns)) ∧
        x.pkt.hdr = (depHdr s.me p d (s.epochOf t d.epoch e.par)).enc ∧
        (∀ b, (s.part p).startOf (v.tim.course - 1) = some b → x.due = b + (s.part p).scale * d.toff) ∧
        Issued (s.modPort d.port fun y => { y with tx := { y.tx with dbuf := y.tx.dbuf ++ [x] } }) u t .st e lat
          (k * ceilDiv d.ns 2) 0 [])

/-- When an operation that sets no barrier bit completes, OPERATION_COMPLETE takes it out of flight and, by what it makes
visible: nothing; a scalar register, no other changing; a predicate, no other changing; a range of operand-store bytes,
every other byte staying; the accumulators of rows of a set, every other accumulator staying; the clearing of sets; or a
weight ring. Nothing else of the tile or of the state changes. A store to the Loft window leaves every byte of its range
as stored and every byte of memory outside it, and the registers, queues and barrier bits of the tile, as before.
(03_tiles_and_queues.md R84, 03_tiles_and_queues.md R85, 04_matrix_engine.md R114, 04_matrix_engine.md R123,
06_memory_hierarchy.md R164, 06_memory_hierarchy.md R167) -/
def Obligations.CompletionEffects : Prop :=
  ∀ (s : State) (t : Nat) (q : Queue) (f : Flight), Completes s t q f → f.set = none →
    let v := Landed (s.tile t) f
    (f.eff = [] → ∃ u, exec (.operationComplete t q) s = .next u ∧ u = s.setTile t v) ∧
    (∀ i x, f.eff = [.sreg i x] → ∃ u r, exec (.operationComplete t q) s = .next u ∧
      (∀ j, u.tile j = if j = t then { v with sreg := r } else s.tile j) ∧ u = { s with tiles := u.tiles } ∧
      ∀ j, SMap.get 0 r j = if j = i then x else v.s j) ∧
    (∀ i b, f.eff = [.pred i b] → i < 16 → ∃ u p, exec (.operationComplete t q) s = .next u ∧
      (∀ j, u.tile j = if j = t then { v with pred := p } else s.tile j) ∧ u = { s with tiles := u.tiles } ∧
      ∀ j, j < 16 → p.getLsbD j = if j = i then b else v.pred.getLsbD j) ∧
    (∀ off bs, f.eff = [.opnd off bs] → ∃ u o, exec (.operationComplete t q) s = .next u ∧
      (∀ j, u.tile j = if j = t then { v with opnd := o } else s.tile j) ∧ u = { s with tiles := u.tiles } ∧
      ∀ j, SMap.get 0 o j = if off ≤ j ∧ j < off + bs.length then bs.getD (j - off) 0 else SMap.get 0 v.opnd j) ∧
    (∀ set row0 accs, f.eff = [.slabRows set row0 accs] → (∀ a ∈ accs, a.sat = false) → set < 2 →
      ∃ u m, exec (.operationComplete t q) s = .next u ∧
      (∀ j, u.tile j = if j = t then v.setAccs set m else s.tile j) ∧ u = { s with tiles := u.tiles } ∧
      ∀ j, SMap.get Acc.zero m j =
        if 64 * row0 ≤ j ∧ j < 64 * row0 + accs.length then accs.getD (j - 64 * row0) Acc.zero else SMap.get Acc.zero (v.accs set) j) ∧
    (∀ a0 a1, f.eff = [.slabClear a0 a1] → ∃ u, exec (.operationComplete t q) s = .next u ∧
      (∀ j, u.tile j = if j = t then { v with acc0 := if a0 then [] else v.acc0, acc1 := if a1 then [] else v.acc1 } else s.tile j) ∧
      u = { s with tiles := u.tiles }) ∧
    (∀ b n, f.eff = [.ring b n] → ∃ u, exec (.operationComplete t q) s = .next u ∧
      (∀ j, u.tile j = if j = t then { v with mx := { v.mx with wbase := b, wblks := n } } else s.tile j) ∧ u = { s with tiles := u.tiles }) ∧
    (∀ a bs, f.eff = [.mem a bs] → 0x020000000000 ≤ a → a + bs.length ≤ 0x020010000000 →
    ∃ u, exec (.operationComplete t q) s = .next u ∧
      (∀ x, u.rdByte x = if a ≤ x ∧ x < a + bs.length then bs.getD (x - a) 0 else s.rdByte x) ∧ u.valid = s.valid ∧
      (let v := s.tile t
       let w := u.tile t
       w.sreg = v.sreg ∧ w.pred = v.pred ∧ w.opnd = v.opnd ∧ w.acc0 = v.acc0 ∧ w.acc1 = v.acc1 ∧ w.q = v.q ∧ w.xb = v.xb ∧
       w.fly = v.fly.filter fun x => decide (x.id ≠ f.id)) ∧
      u.parts = s.parts ∧ u.ports = s.ports ∧ u.stks = s.stks ∧ u.fab = s.fab)

/-- When an operation with nothing else to make visible and a barrier bit i < 16 to set completes, and the bit was 0 at the
start of the beat or has been cleared in it, the bit is 1 afterwards and every other bit keeps its value; the bits as
they stood at the start of the beat do not change, so no head that waits for the bit issues before the next plan beat;
nothing else changes but that the operation is no longer in flight. (R89) -/
def Obligations.BarrierBitSet : Prop :=
  ∀ (s : State) (t : Nat) (q : Queue) (f : Flight) (i : Nat), Completes s t q f → f.eff = [] → f.set = some i → i < 16 →
    (s.tile t).xbc.getLsbD i = false →
    ∃ u x, exec (.operationComplete t q) s = .next u ∧ u = { s with tiles := u.tiles } ∧
      (∀ j, u.tile j = if j = t then { Landed (s.tile t) f with xb := x } else s.tile j) ∧
      ∀ j, j < 16 → x.getLsbD j = if j = i then true else (s.tile t).xb.getLsbD j

/-- When an operation whose completion would set a barrier bit that was 1 at the start of the beat and has not been cleared
in it completes on a tile of a partition whose plan runs and has not halted, the partition's fault log gains a record of
class 0x06 that names the tile, the bit, the setting queue and the operation's instruction address, and the partition is
halted. (R90) -/
def Obligations.BarrierBitFault : Prop :=
  ∀ (s : State) (t p : Nat) (q : Queue) (f : Flight) (i : Nat), Completes s t q f → f.eff = [] → f.set = some i → i < 16 →
    (s.tile t).xbc.getLsbD i = true → s.partOf t = some p →
    (s.part p).flt.resetting = false → (s.part p).running = true → (s.part p).run.halted = false →
    let x := s.part p
    ∃ u r, exec (.operationComplete t q) s = .next u ∧ (u.part p).run.halted = true ∧
      (u.part p).flt.wp = (x.flt.wp + 1) % 2 ^ 32 ∧ SMap.get [] (u.part p).flt.log (x.flt.wp % 256) = r ∧
      r[0]? = some (word (0x06 + p * 2 ^ 24)) ∧
      (r[5]?.map fun w => w.toNat / 2 ^ 24) = some (t % 256) ∧
      r[6]? = some (word f.iaddr) ∧ r[7]? = some (word (f.iaddr / 2 ^ 32)) ∧
      r[8]? = some (word i) ∧ r[9]? = some (word (slotOf f.q))

/-- Issued and not skipped on an 8-byte aligned word: in a word of the tile's own Loft below the Landing that holds no
marked error, SADD, SSET and SCAS complete 2 b after issue with their update; in Marl that the partition owns, the
update goes as one plan block on its channel and the operation waits for it; with RMT = 1 the tile sends one flagged SIG
packet of operation 6, 7 or 8 to device s[AREG][63:48] with the word's address, the partition, the tile's tag, the value
and, for SCAS, the new value, and completes 4 b after issue. Nothing else changes at issue. (05_instruction_reference.md
R161, 11_synchronization.md R325, 11_synchronization.md R333, 06_memory_hierarchy.md R166) -/
def Obligations.SyncUpdates : Prop :=
  ∀ (s : State) (t p op : Nat) (c : Instr) (e : QEntry), (c, op) ∈ [(.sadd t, 1), (.sset t, 2), (.scas t, 3)] →
    Issues s t .sy op e → s.partOf t = some p →
    let v := s.tile t
    let k := s.tscale t
    let a := ((((v.s (syAreg e.w0)).toNat % 2 ^ 48 : Nat) + e.w1.toInt : Int) % 2 ^ 48).toNat
    let x := v.s (syVreg e.w0)
    let y := if op = 3 then v.s (syNreg e.w0) else 0
    let upd : SyncUpd := { kind := op - 1, addr := a, x := x, y := y }
    a % 8 = 0 →
    (syRmt e.w0 = false → loftAddr t 0 ≤ a → a + 8 ≤ loftAddr t 0xF0000 → t < s.nTiles → t < 256 → s.badIn a 8 = none →
      (∀ z ∈ s.dev.soft, ¬ (a ≤ z ∧ z < a + 8)) → ∃ u, exec c s = .next u ∧ Issued s u t .sy e (k * 2) k 0 [.sync upd]) ∧
    (syRmt e.w0 = false → (∃ m o, s.region a = .marl m o) → s.blkOwned t a = true →
      ∃ u lat, exec c s = .next u ∧ s.lSfor t a ≤ lat ∧
        Issued (s.pushBlk { addr := a / 256 * 256, tile := t, fly := v.nextId, op := .sync upd }) u t .sy e lat k 1 []) ∧
    (syRmt e.w0 = true → (a < marlEnd ∨ (0x020000000000 ≤ a ∧ a < 0x020010000000)) →
      ∃ u, exec c s = .next u ∧
        let h : Hdr := { Hdr.zero with dst := (v.s (syAreg e.w0)).toNat / 2 ^ 48, vc := 3, ord := true, part := p, opc := 5 + op }
        Issued (s.send { h with addr := a, tag := t + p * 2 ^ 8 + 2 ^ 14, opa := x.toNat, opb := y.toNat } []) u t .sy e (k * 4) k 0 [])

/-- When a local update of a Loft word that is no Rafter barrier's word of the tile's partition completes, the 64-bit word
reads as its old value plus x modulo 2^64 for SADD, as x for SSET, and as y for SCAS if it read x, and otherwise
unchanged; every byte of memory outside the word reads as before. (11_synchronization.md R324, 11_synchronization.md
R325) -/
def Obligations.SyncUpdateCompletes : Prop :=
  ∀ (s : State) (t p : Nat) (f : Flight) (w : SyncUpd), Completes s t .sy f → f.set = none → f.eff = [.sync w] → w.kind < 3 →
    0x020000000000 ≤ w.addr → w.addr + 8 ≤ 0x020010000000 → s.partOf t = some p → (s.part p).plan = none ∨ (∀ b, s.rafterEnt p b = none) →
    let old := s.rdW w.addr
    ∃ u, exec (.operationComplete t .sy) s = .next u ∧
      u.rdW w.addr = (match w.kind with
        | 0 => BitVec.ofNat 64 (old.toNat + w.x.toNat)
        | 1 => w.x
        | _ => if old = w.x then w.y else old) ∧
      ∀ x, ¬ (w.addr ≤ x ∧ x < w.addr + 8) → u.rdByte x = s.rdByte x

/-- Issued without MON on an aligned word of the tile's own Loft that holds no marked error and that no monitor entry of the
tile watches, SWGE whose word is at least s[VREG] as an unsigned number, and SWEQ whose word equals s[VREG], complete 1
b after issue with no other effect; on any other value the tile waits at the head of its SY queue, with the value to
reach, one read made, and the bit to set at completion. (05_instruction_reference.md R161, 11_synchronization.md R327,
11_synchronization.md R329) -/
def Obligations.SyncWaits : Prop :=
  ∀ (s : State) (t op : Nat) (c : Instr) (e : QEntry), (c, op) ∈ [(.swge t, 4), (.sweq t, 5)] → Issues s t .sy op e →
    syMon e.w0 = false → t < s.nTiles → t < 256 →
    let v := s.tile t
    let k := s.tscale t
    let a := v.syAddr e.w0 e.w1
    let x := s.rdW a
    let y := v.s (syVreg e.w0)
    let met := if op = 5 then x = y else y.toNat ≤ x.toNat
    a % 8 = 0 → loftAddr t 0 ≤ a → a + 8 ≤ loftAddr t 0xF0000 → v.monOf (a / 64) = none → s.badIn a 8 = none →
    (∀ z ∈ s.dev.soft, ¬ (a ≤ z ∧ z < a + 8)) →
    (met → ∃ u, exec c s = .next u ∧ Issued (s.setTile t v) u t .sy e k k 0 []) ∧
    (¬ met → ∃ u, exec c s = .next u ∧ WaitBegun (s.setTile t v) u t e
      { barWait .word a with eq := decide (op = 5), val := y, reads := 1, last := x, poll := v.tim.cb })

/-- Issued and not skipped: RBAR at a configured barrier of the partition, while the arrivals counted in UPW and the RBARs
issued before it are fewer than E x (G + 1), adds 1 to the tile's ARR of the barrier and to nothing else, and completes
2 b after issue. Its completion adds 1 to UPW; while that leaves UPW below E x (G + 1) every other byte of memory, the
ports and the fabric are as before; where it reaches E x (G + 1) at a root whose round has no child waiting, GENW
becomes G + 1 and every byte of memory outside the two words is as before. RWAIT completes 1 b after issue when the
tile's ARR is at most G, and otherwise waits. MBAR arriving at a mask barrier whose mask names the tile and whose bit is
0 sets the bit and adds 1 to the tile's phase count; MBAR waiting completes when the tile's count is at most PH, and
otherwise waits. (11_synchronization.md R336, 11_synchronization.md R338, 11_synchronization.md R343) -/
def Obligations.RafterBarriers : Prop :=
  ∀ (s : State) (t p : Nat) (e : QEntry), e.skip = false → s.partOf t = some p →
    let v := s.tile t
    let k := s.tscale t
    let b := barId e.w0
    let m := maskId e.w0
    (∀ r, Issues s t .sy 8 e → s.rafterEnt p b = some r →
      (s.rdW r.upw).toNat + s.rbarsOf p b < (r.loc + r.nch) * ((s.rdW r.genw).toNat + 1) →
      ∃ u a, exec (.rbar t) s = .next u ∧ Issued (s.setTile t { v with arr := a }) u t .sy e (k * 2) k 0 [.rbar b] ∧
        ∀ j, SMap.get 0 a j = if j = b then v.arrOf b + 1 else v.arrOf j) ∧
    (∀ f c r, Completes s t .sy f → f.set = none → f.eff = [.rbar c] → s.rafterEnt p c = some r →
      let up := (s.rdW r.upw).toNat + 1
      let g := (s.rdW r.genw).toNat
      let at' := fun (w x : Nat) => w ≤ x ∧ x < w + 8
      (∀ i, i < 8 → cellarOff (r.upw + i) = none ∧ cellarOff (r.genw + i) = none) → (r.upw + 8 ≤ r.genw ∨ r.genw + 8 ≤ r.upw) →
      SMap.get 0 (s.part p).rgen c = g → SMap.get 0 (s.part p).rsig c ≠ g + 1 → up < 2 ^ 64 → g + 1 < 2 ^ 64 →
      (up < (r.loc + r.nch) * (g + 1) → ∃ u, exec (.operationComplete t .sy) s = .next u ∧ u.rdW r.upw = s.rdW r.upw + 1 ∧
        (∀ x, ¬ at' r.upw x → u.rdByte x = s.rdByte x) ∧ u.ports = s.ports ∧ u.fab = s.fab) ∧
      (up = (r.loc + r.nch) * (g + 1) → r.parent = 0xFFFF → SMap.get [] (s.part p).kids c = [] →
        ∃ u, exec (.operationComplete t .sy) s = .next u ∧ u.rdW r.upw = s.rdW r.upw + 1 ∧ u.rdW r.genw = s.rdW r.genw + 1 ∧
          (∀ x, ¬ at' r.upw x → ¬ at' r.genw x → u.rdByte x = s.rdByte x) ∧ u.ports = s.ports ∧ u.fab = s.fab)) ∧
    (∀ r, Issues s t .sy 9 e → s.rafterEnt p b = some r →
      (v.arrOf b ≤ (s.rdW r.genw).toNat → ∃ u, exec (.rwait t) s = .next u ∧ Issued s u t .sy e k k 0 []) ∧
      ((s.rdW r.genw).toNat < v.arrOf b → ∃ u, exec (.rwait t) s = .next u ∧ WaitBegun s u t e (barWait .rwait b))) ∧
    (∀ x i, Issues s t .sy 0xA e → maskWait e.w0 = false → s.maskEnt p m = some x → maskBit x t = some i →
      ((s.part p).arrivedOf m).getLsbD i = false →
      ∃ u w, exec (.mbar t) s = .next u ∧ Issued w u t .sy e (k * 2) k 0 [] ∧
        (w.part p).arrivedOf m = ((s.part p).arrivedOf m ||| dword (2 ^ i)) ∧ (w.tile t).tphOf m = v.tphOf m + 1 ∧
        (∀ j, j ≠ t → w.tile j = s.tile j) ∧ (∀ j, j ≠ p → w.part j = s.part j) ∧ w.mem = s.mem) ∧
    (Issues s t .sy 0xA e → maskWait e.w0 = true →
      (v.tphOf m ≤ (s.part p).phOf m → ∃ u, exec (.mbar t) s = .next u ∧ Issued s u t .sy e k k 0 []) ∧
      ((s.part p).phOf m < v.tphOf m → ∃ u, exec (.mbar t) s = .next u ∧ WaitBegun s u t e (barWait .mbar m)))

/-- On a tile inside a course: SYNC_POLL_READ of a polling Loft wait that may read in the beat, with no load about to issue
and no marked error in its word, counts the read, and if the word meets the wait's condition the wait ends and an
operation that sets its barrier bit is in flight, due at the end of the beat. MONITOR_NOTIFY takes the oldest
notification off; where no entry watches a line of it nothing else changes, and where an entry watches the line of its
last word and the tile does not wait, the entry keeps that word's new value and the notification is counted once.
RAFTER_RELEASE ends a barrier wait once the tile's ARR is at most G. (11_synchronization.md R327, 11_synchronization.md
R329, 11_synchronization.md R330, 11_synchronization.md R338) -/
def Obligations.WaitEvents : Prop :=
  ∀ (s : State) (t : Nat),
    let v := s.tile t
    let ended := fun (u : State) (w : Wait) => (u.tile t).wait = none ∧ ∃ f, (u.tile t).fly = v.fly ++ [f] ∧ f.q = .sy ∧ f.set = w.set ∧
      f.due = v.tim.cb ∧ f.need = 0 ∧ f.eff = [] ∧ f.iaddr = w.iaddr
    (∀ w, v.wait = some w → s.pollDue t = true → s.issuing t .ld = none → s.inCourse t = true →
      (if w.eq then s.rdW w.addr = w.val else w.val.toNat ≤ (s.rdW w.addr).toNat) →
      s.badIn w.addr 8 = none → (∀ z ∈ s.dev.soft, ¬ (w.addr ≤ z ∧ z < w.addr + 8)) →
      ∃ u, exec (.syncPollRead t) s = .next u ∧ ended u w ∧ u.mem = s.mem ∧ ∀ j, j ≠ t → u.tile j = s.tile j) ∧
    (∀ ws r, v.notes = ws :: r → (∀ w ∈ ws, v.monOf (w.1 / 64) = none) →
      exec (.monitorNotify t) s = .next (s.setTile t { v with notes := r })) ∧
    (∀ ws a x r m, v.notes = (ws ++ [(a, x)]) :: r → v.monOf (a / 64) = some m → v.wait = none →
      ∃ u, exec (.monitorNotify t) s = .next u ∧ (u.tile t).notes = r ∧
        ((u.tile t).monOf (a / 64)).map (fun y => SMap.find y.vals a) = some (some x) ∧
        SMap.get 0 (u.tile t).ctr TileCtr.monNote.idx = min (2 ^ 48 - 1) (SMap.get 0 v.ctr TileCtr.monNote.idx + 1) ∧
        u.mem = s.mem ∧ ∀ j, j ≠ t → u.tile j = s.tile j) ∧
    (∀ w p r, v.wait = some w → s.partOf t = some p → w.kind = .rwait → w.sat = false → s.rafterEnt p w.addr = some r →
      v.arrOf w.addr ≤ (s.rdW r.genw).toNat → s.inCourse t = true →
      ∃ u, exec (.rafterRelease t) s = .next u ∧ ended u w ∧ u.mem = s.mem ∧ ∀ j, j ≠ t → u.tile j = s.tile j)

/-- When ARRIVED of a configured mask barrier equals its mask, MASK_BARRIER_RELEASE clears ARRIVED and adds 1 to PH, no
other barrier of the partition changing, and a tile of the partition inside a course that waits at it with a phase count
of at most PH no longer waits; while ARRIVED differs from the mask the command changes nothing. (11_synchronization.md
R343) -/
def Obligations.MaskBarrierReleases : Prop :=
  ∀ (s : State) (p m : Nat) (x : MaskEnt), s.maskEnt p m = some x →
    let v := s.part p
    ((s.part p).arrivedOf m ≠ x.mask → exec (.maskBarrierRelease p m) s = .next s) ∧
    ((s.part p).arrivedOf m = x.mask →
      ∃ u, exec (.maskBarrierRelease p m) s = .next u ∧
        (∀ j, (u.part p).arrivedOf j = if j = m then 0 else v.arrivedOf j) ∧
        (∀ j, (u.part p).phOf j = if j = m then v.phOf m + 1 else v.phOf j) ∧ u.mem = s.mem ∧
        (∀ t w, t ∈ s.tilesOf p → (s.tile t).wait = some w → w.kind = .mbar → w.addr = m → w.sat = false → s.inCourse t = true →
          (s.tile t).tphOf m ≤ v.phOf m + 1 → (u.tile t).wait = none) ∧
        (∀ t, t ∉ s.tilesOf p → u.tile t = s.tile t))

/-- When a tile's next clock beat may begin, lies inside a course and is no maintenance beat, nothing is in flight, no
landing of an earlier beat is to be written and no wait is open, no interlock, ramp or step-down holds it, no loop is
open, and the front end finds a whole well-formed word without LOOP, then SHALE_WORD_DECODE counts one clock beat and
one plan beat of the tile and of the course, moves the address past the word, and appends the word's operations in order
to the tails of their queues, each with the word's address and its skip, and due to issue in the next plan beat at the
earliest. The word is skipped when the step is held or its predicate, with p12 to p15 evaluated at this decode, equals
PNEG under PEN. (03_tiles_and_queues.md R82, 03_tiles_and_queues.md R83, 03_tiles_and_queues.md R92, 02_plan_contract.md
R41) -/
def Obligations.ShaleWordDecoded : Prop :=
  ∀ (s : State) (t p : Nat) (h : Word) (ops : List (Queue × Word × Word)),
    let v := s.tile t
    let b := v.tim.cb
    let s1 := s.modTile t fun x => { x.xbStart with tim := { x.tim with cb := b + 1, plan := false, maint := false } }
    s.beatOk t = true → s.partOf t = some p → (s.part p).run.hzd = false → s1.inCourse t = true → s1.inMaint t = false →
    v.fly = [] → (∀ e ∈ v.lands, b ≤ e.beat) → v.wait = none → v.mx.ramp = 0 → s.stepped t = false → s1.look t b = .word h ops → s1.headStall t b = false →
    (s1.tile t).rampDue b = false → v.fe.loops = [] → (∀ o ∈ ops, ¬ (o.1 = .sc ∧ opcode o.2.1 = 0x10)) →
    let skip := (s.part p).run.held || (shPen h && (flag16 v.evalCmps.pred (shPidx h) == shPneg h))
    ∃ (u : State) (es : List (Queue × QEntry)), exec (.shaleWordDecode t) s = .next u ∧
      (u.tile t).tim.cb = b + 1 ∧ (u.tile t).tim.pb = v.tim.pb + 1 ∧ (u.tile t).tim.beat = v.tim.beat + 1 ∧
      (u.tile t).fe.pc = (v.fe.pc + 4 * shLen h) % 2 ^ 48 ∧
      es.map (fun x : Queue × QEntry => (x.1, x.2.w0, x.2.w1)) = ops ∧
      (∀ x ∈ es, x.2.iaddr = v.fe.pc ∧ x.2.skip = skip ∧ x.2.ready = v.tim.pb + 1) ∧
      (∀ q, ((u.tile t).queue q).ents = (v.queue q).ents ++ (es.filter fun x => decide (x.1 = q)).map fun x => x.2) ∧
      (u.tile t).sreg = v.sreg ∧ (u.tile t).opnd = v.opnd ∧ (u.tile t).acc0 = v.acc0 ∧ (u.tile t).acc1 = v.acc1 ∧ u.mem = s.mem ∧
      ∀ j, j ≠ t → u.tile j = s.tile j

/-- When a tile's next clock beat may begin inside a course, nothing late is due, no ramp runs, it is no maintenance beat,
and the head of some queue that would issue needs a resource whose write is pending, SHALE_WORD_DECODE counts the clock
beat but no plan beat and no beat of the course, decodes nothing, and adds 8 eighths to the tile's reserve charge and to
its interlock part, which stays within 8 x RSV. (02_plan_contract.md R41, 03_tiles_and_queues.md R105,
03_tiles_and_queues.md R106) -/
def Obligations.InterlockStallCharged : Prop :=
  ∀ (s : State) (t p : Nat) (c : Course),
    let v := s.tile t
    let b := v.tim.cb
    let s1 := ((s.modTile t fun x => { x.xbStart with tim := { x.tim with cb := b + 1, plan := false, maint := false } }).landUpTo t b).goOnAll t b
    s.beatOk t = true → s.partOf t = some p → (s.part p).run.hzd = false → s1.inCourse t = true → s1.inMaint t = false →
    v.wait = none → v.dueNow = none → (s1.tile t).mx.ramp = 0 → s1.headStall t b = true → s1.courseOf t = some c →
    (s1.tile t).tim.s + 8 ≤ 8 * c.rsv → (s1.tile t).tim.cb = b + 1 → (s1.tile t).wait = none →
    ∃ u, exec (.shaleWordDecode t) s = .next u ∧ (u.tile t).tim.cb = b + 1 ∧ (u.tile t).tim.plan = (s1.tile t).tim.plan ∧
      (u.tile t).tim.pb = (s1.tile t).tim.pb ∧ (u.tile t).tim.beat = (s1.tile t).tim.beat ∧
      (u.tile t).tim.s = (s1.tile t).tim.s + 8 ∧ (u.tile t).tim.sIlk = (s1.tile t).tim.sIlk + 8 ∧
      (u.tile t).fe.pc = (s1.tile t).fe.pc ∧ ∀ q, (u.tile t).queue q = (s1.tile t).queue q

/-- FETCH of lines that the partition owns: at its decode each line that is not resident is asked of its Marl channel; at
its issue its lines are in flight until the last is resident, resident ones are locked if it says so, and nothing is
read twice; a second lock in a set raises fault 0x07, a misaligned address fault 0x0A. LOFT_SERVICE_WRITE takes the
oldest write off a tile's service buffer and writes its bytes to the Loft, and does nothing in a beat in which the fill
port carries an LD response; a packet's WRITE is counted in its source's interval and answered then. LOFT_ECC_WRITEBACK,
with no store or sync update of the Loft in flight, writes the oldest corrected word that still holds its marked error
back and ends the mark. TILE_DRAIN_END empties the queues of a draining tile that has nothing in flight and nothing that
can issue. ICACHE_MISS_FILL in a code-fetch position that its channel has not used takes it, and sends the one missing
line's bytes, without an error, to the tile, which arrive after the published return time: an arrival makes the line
resident with them. A line of memory that the partition does not own becomes resident as zeros, and is counted.
KAT_SEGMENT in a maintenance beat that has run none yet moves the tile to its next segment and counts it.
(03_tiles_and_queues.md R78, 03_tiles_and_queues.md R101, 03_tiles_and_queues.md R102, 03_tiles_and_queues.md R104,
06_memory_hierarchy.md R184, 18_faults_and_recovery.md R501, 18_faults_and_recovery.md R510) -/
def Obligations.TileHousekeeping : Prop :=
  ∀ (s : State) (t : Nat),
    let v := s.tile t
    (v.fillAt = (s.room (s.roomOf t)).clk → v.fillAt ≠ 0 → exec (.loftServiceWrite t) s = .next s) ∧
    (∀ off bs c r, v.svc = { off := off, data := bs, hdr := none, counts := c } :: r → v.fillAt ≠ (s.room (s.roomOf t)).clk →
      t < 256 → off + bs.length ≤ 0xF0000 →
      ∃ u, exec (.loftServiceWrite t) s = .next u ∧ (u.tile t).svc = r ∧
        (∀ x, u.rdByte x = if loftAddr t off ≤ x ∧ x < loftAddr t off + bs.length then bs.getD (x - loftAddr t off) 0 else s.rdByte x) ∧
        (u.tile t).sreg = v.sreg ∧ (u.tile t).opnd = v.opnd ∧ (u.tile t).q = v.q ∧ u.parts = s.parts) ∧
    (∀ off bs f r, v.svc = { off := off, data := bs, hdr := some f, counts := true } :: r → v.fillAt ≠ (s.room (s.roomOf t)).clk →
      t < 256 → off + bs.length ≤ 0xF0000 →
      let h := Hdr.dec f
      let o := s.ordOf h.src
      h.opc = 1 → h.ord = false → h.fi = o.cur → o.vest = [] → (s.part h.part).sh.role = 0 → h.addr % 2 ^ 20 + 64 * h.len ≤ 2 ^ 20 →
      s.region h.addr = .loft t off →
      ∃ u, exec (.loftServiceWrite t) s = .next u ∧ (u.tile t).svc = r ∧ u.ordOf h.src = { o with cnt := o.cnt + 1 } ∧
        (∀ x, u.rdByte x = if loftAddr t off ≤ x ∧ x < loftAddr t off + bs.length then bs.getD (x - loftAddr t off) 0 else s.rdByte x) ∧
        Answers s u h.src fun q => (Hdr.dec q.hdr).opc = 4 ∧ (Hdr.dec q.hdr).tag = h.tag) ∧
    (∀ off x r, v.wback = (off, x) :: r → (∀ f ∈ v.fly, f.q = .ld ∨ ∀ e ∈ f.eff, (∀ a bs, e ≠ .mem a bs) ∧ ∀ y, e ≠ .sync y) →
      loftAddr t off ∈ s.dev.soft → t < 256 → off + 8 ≤ 0x100000 →
      ∃ u, exec (.loftEccWriteback t) s = .next u ∧ (u.tile t).wback = r ∧ u.rdW (loftAddr t off) = x ∧ loftAddr t off ∉ u.dev.soft ∧
        (∀ y, ¬ (loftAddr t off ≤ y ∧ y < loftAddr t off + 8) → u.rdByte y = s.rdByte y)) ∧
    (s.draining t = true → v.fly = [] → (∀ q, (v.queue q).ents = [] ∨ q ∈ v.fe.qstop) →
      ∃ u, exec (.tileDrainEnd t) s = .next u ∧ (u.tile t).drained = true ∧ (∀ q, ((u.tile t).queue q).ents = []) ∧
        (u.tile t).sreg = v.sreg ∧ u.mem = s.mem ∧ ∀ j, j ≠ t → u.tile j = s.tile j) ∧
    (∀ l, v.fe.miss = [l] → v.resident l = false → v.icVictim (icSet l) ≠ none → v.fly = [] → (s.marlFault (l * 256) 1).isSome = false →
      let stk := l * 256 / stackSize
      let ch := chanOf (l * 256 % stackSize)
      let filled := fun (u : State) (bs : List Byte) => ∃ k, (u.tile t).icFind l = some k ∧ ((u.tile t).icAt k).map (fun y => y.data) = some bs ∧
        (u.tile t).fe.miss = [] ∧ (u.tile t).fe.pc = v.fe.pc ∧ u.mem = s.mem ∧ ∀ j, j ≠ t → u.tile j = s.tile j
      (s.blkOwned t (l * 256) = true → s.codePos l = true → s.lineComing t l = false → (s.stack stk).back = [] → s.badIn (l * 256) 256 = none →
        s.softIn (l * 256) 256 = [] → l * 256 ∉ s.dev.crcBad → ∃ u, exec (.icacheMissFill t) s = .next u ∧ ((u.stack stk).chan ch).pos = s.posNow + 1 ∧
          (Config.retTime s.reduced t stk = 0 → filled u (s.rd (l * 256) 256)) ∧
          (0 < Config.retTime s.reduced t stk → u.tiles = s.tiles ∧ u.mem = s.mem ∧ ∃ x, (u.stack stk).back = [x] ∧
            x.tick = s.now + Config.retTime s.reduced t stk ∧ isLineBlk t (l * 256) x.blk = true ∧ x.data = s.rd (l * 256) 256)) ∧
      (s.blkOwned t (l * 256) = true → s.codePos l = false → exec (.icacheMissFill t) s = .next s) ∧
      (s.blkOwned t (l * 256) = false → ∃ u, exec (.icacheMissFill t) s = .next u ∧ filled u (zeros 256) ∧
        SMap.get 0 u.dev.ctr DevCtr.xpartMem.idx = min (2 ^ 32 - 1) (SMap.get 0 s.dev.ctr DevCtr.xpartMem.idx + 1))) ∧
    (∀ c, s.courseOf t = some c → c.len < v.tim.beat + c.maint → v.katAt ≠ v.tim.cb + 1 →
      ∃ u, exec (.katSegment t true) s = .next u ∧ (u.tile t).kat = (v.kat + 1) % 2048 ∧ (u.tile t).katAt = v.tim.cb + 1 ∧
        SMap.get 0 u.dev.ctr DevCtr.katSeg.idx = min (2 ^ 48 - 1) (SMap.get 0 s.dev.ctr DevCtr.katSeg.idx + 1) ∧
        u.parts = s.parts ∧ u.mem = s.mem ∧ (u.tile t).tim = v.tim) ∧
    (∀ e, v.tcDue .ld 5 = some e → s.marlFault e.aux.toNat (fetchN e.w0) = none →
      (∀ i, i < fetchN e.w0 → s.blkOwned t ((e.aux.toNat / 256 + i) * 256) = true) →
      ∃ u, exec (.fetch t) s = .next u ∧ u.tile t = { v with fe := { v.fe with tcs := v.fe.tcs.drop 1 } } ∧ u.mem = s.mem ∧ u.parts = s.parts ∧
        ∀ i, i < fetchN e.w0 → v.resident (e.aux.toNat / 256 + i) = true ∨ u.lineComing t (e.aux.toNat / 256 + i) = true) ∧
    (∀ e, v.tcDue .ld 5 = none → Issues s t .ld 5 e →
      let a := e.aux.toNat
      let lines := (List.range (fetchN e.w0)).map fun i => a / 256 + i
      let lock := if fetchLock e.w0 then some (v.tim.course - 1 + fetchDelta e.w0) else none
      (s.marlFault a (fetchN e.w0) = none → (∀ l ∈ lines, s.blkOwned t (l * 256) = true) → v.fly = [] →
        (∀ l ∈ lines, ∀ x, v.icLocked (icSet l) = some x → x.line = l) →
        ∃ w u L O, exec (.fetch t) s = .next u ∧ Issued w u t .ld e L O ((lines.filter fun l => !v.resident l).length) [.lines (a / 256) (fetchN e.w0) lock] ∧
          (∀ l, (w.tile t).resident l = v.resident l) ∧ (w.tile t).sreg = v.sreg ∧ w.mem = s.mem ∧
          (fetchLock e.w0 = true → ∀ l ∈ lines, v.resident l = true → ∃ k y, (w.tile t).icFind l = some k ∧ (w.tile t).icAt k = some y ∧ y.lock.isSome = true)) ∧
      (∀ p, s.owner 0 t = some p → Healthy s p →
        (a % 256 ≠ 0 → ∃ u f, exec (.fetch t) s = .next u ∧ f.cls = 0x0A ∧ f.cause = 1 ∧ f.iaddr = e.iaddr ∧ Faulted s u p f) ∧
        (∀ x, s.marlFault a (fetchN e.w0) = none → fetchLock e.w0 = true → v.icLocked (icSet (a / 256)) = some x → x.line ≠ a / 256 →
          ∃ u f, exec (.fetch t) s = .next u ∧ f.cls = 0x07 ∧ Faulted s u p f)))

/-- When a slot of the one sent on the die has crossed all its Doorways and its beat has come in the room of its destination
tile, bound to its partition and not halted, ON_DIE_LANDING_WRITE takes it off the die. Where its beat w is over at the
tile it writes its 256 bytes to the Landing slot and its epoch to the slot's tag, and leaves every other tag and every
byte outside the slot unchanged; where the tile is still in beat w or before it, the slot waits for the end of that
beat, and the Landing, its tags and the memory stay as they are, and the first clock beat of the tile after w writes it,
here of a tile outside a course and its drain. DOORWAY_WORD_WRITE with good parity takes a due slot through its Doorway,
with one Doorway less to cross, and changes nothing but the slots on the die. (02_plan_contract.md R48,
02_plan_contract.md R57, 02_plan_contract.md R47, 08_clocks_and_mantel_time.md R231, 08_clocks_and_mantel_time.md R234) -/
def Obligations.LandingWrites : Prop :=
  ∀ (s : State) (o : OnDie), s.fab.onDie = [o] →
    (∀ t, o.dst = t → o.doors = [] → s.stepDue o (s.roomOf t) t = true → s.owner 0 t = some o.part → t < 256 → o.slot < 256 →
      o.data.length = 256 → (s.part o.part).run.halted = false → (s.part o.part).run.hzd = false → (s.tile t).lands = [] →
      let w := s.beatAt o.part t (s.stepBn o (s.roomOf t) t)
      (w < (s.tile t).now → ∃ u, exec (.onDieLandingWrite t) s = .next u ∧ u.fab.onDie = [] ∧
        (let a := loftAddr t (0xF0000 + 256 * o.slot)
         ∀ x, u.rdByte x = if a ≤ x ∧ x < a + 256 then o.data.getD (x - a) 0 else s.rdByte x) ∧
        (∀ j, (u.tile t).tagOf j = if j = o.slot then o.epoch % 256 else (s.tile t).tagOf j) ∧
        (u.tile t).sreg = (s.tile t).sreg ∧ (u.tile t).q = (s.tile t).q ∧ u.parts = s.parts ∧ (t, o.slot) ∉ u.dev.badTag) ∧
      ((s.tile t).now ≤ w → ∃ u, exec (.onDieLandingWrite t) s = .next u ∧ u.fab.onDie = [] ∧
        u.tile t = { s.tile t with lands := [{ beat := w, slot := o.slot, epoch := o.epoch, data := o.data }] } ∧
        u.mem = s.mem ∧ u.dev = s.dev ∧ u.parts = s.parts ∧ ∀ j, j ≠ t → u.tile j = s.tile j)) ∧
    (∀ t e, (s.tile t).lands = [e] → e.beat < (s.tile t).tim.cb → s.beatOk t = true → (s.tile t).fly = [] → s.inCourse t = false →
      s.draining t = false → t < 256 → e.slot < 256 → e.data.length = 256 →
      let a := loftAddr t (0xF0000 + 256 * e.slot)
      ∃ u, exec (.shaleWordDecode t) s = .next u ∧ (u.tile t).lands = [] ∧ (u.tile t).tim.cb = (s.tile t).tim.cb + 1 ∧
        (∀ x, u.rdByte x = if a ≤ x ∧ x < a + 256 then e.data.getD (x - a) 0 else s.rdByte x) ∧
        (∀ j, (u.tile t).tagOf j = if j = e.slot then e.epoch % 256 else (s.tile t).tagOf j) ∧ (u.tile t).sreg = (s.tile t).sreg) ∧
    (∀ d b r, o.doors = (d, b) :: r → s.stepDue o (doorRooms d).2 o.dst = true →
      ∃ u n, exec (.doorwayWordWrite d true) s = .next u ∧ u.fab.onDie = [n] ∧ n.doors = r ∧ n.data = o.data ∧ n.slot = o.slot ∧
        n.dst = o.dst ∧ n.epoch = o.epoch ∧ n.part = o.part ∧ u = { s with fab := u.fab })

/-- In a position that no re-send, refresh window, code fetch or service block takes and that its channel has not used,
MARL_POSITION_TRANSFER takes the oldest plan block that has reached the channel: one that passes its checks sends the
256 bytes of its address to the operation in flight that reads them, which they reach after the published return time
and which then waits for one block less; one that fails its CRC stays to be sent again. MARL_BLOCK_RESEND sends the
block that failed first again once 6 t have passed. MARL_REFRESH_WINDOW in a window of the channel marks it begun and
takes the refresh rate in force. STACK_TEMP_CHANGE doubles the rate at 85 C or more and ends it below 80 C.
(06_memory_hierarchy.md R172, 06_memory_hierarchy.md R173, 06_memory_hierarchy.md R178, 06_memory_hierarchy.md R179,
06_memory_hierarchy.md R174) -/
def Obligations.MarlChannels : Prop :=
  ∀ (s : State) (stk ch : Nat),
    let c := (s.stack stk).chan ch
    let pos := s.posNow
    let clean := fun (b : Blk) => b.addr / stackSize = stk ∧ s.badIn b.addr 256 = none ∧ s.softIn b.addr 256 = [] ∧ (s.stack stk).back = []
    let crossed := fun (u : State) (b : Blk) (off : Nat) =>
      let r := Config.retTime s.reduced b.tile stk
      u.mem = s.mem ∧ u.parts = s.parts ∧
      (r = 0 → (u.stack stk).back = [] ∧ (u.tile b.tile).fly = (s.tile b.tile).fly.map fun f =>
        if f.id = b.fly then { f with need := f.need - 1, eff := f.eff ++ [.opnd off (s.rd b.addr 256)] } else f) ∧
      (0 < r → (u.stack stk).back = [{ tick := s.now + r, blk := b, data := s.rd b.addr 256 }] ∧ u.tiles = s.tiles)
    (∀ b r off, c.plan = b :: r → c.again = [] → c.pos ≤ pos → inWindow s.frameNow ch = false → pos % 47 < 45 → b.op = .rdOpnd off →
      b.rdy ≤ s.now →
      (clean b → ∃ u, exec (.marlPositionTransfer stk ch true .clean) s = .next u ∧ ((u.stack stk).chan ch).plan = r ∧
        ((u.stack stk).chan ch).pos = pos + 1 ∧ crossed u b off) ∧
      (∃ u, exec (.marlPositionTransfer stk ch false .clean) s = .next u ∧ ((u.stack stk).chan ch).plan = r ∧
        ((u.stack stk).chan ch).again = [(b, pos)] ∧ u.tiles = s.tiles ∧ u.mem = s.mem ∧ u.parts = s.parts)) ∧
    (∀ b fp off r, c.again = (b, fp) :: r → s.frame * fp + s.frame + 282 ≤ s.frame * pos → c.pos ≤ pos → b.op = .rdOpnd off → clean b →
      ∃ u, exec (.marlBlockResend stk ch true .clean) s = .next u ∧ ((u.stack stk).chan ch).again = r ∧
        ((u.stack stk).chan ch).plan = c.plan ∧ crossed u b off) ∧
    (inWindow s.frameNow ch = true → c.win ≠ windowOf s.frameNow ch + 1 → (s.stack stk).hot = true →
      ∃ u, exec (.marlRefreshWindow stk ch true) s = .next u ∧ ((u.stack stk).chan ch).win = windowOf s.frameNow ch + 1 ∧
        ((u.stack stk).chan ch).hot = true ∧ ((u.stack stk).chan ch).plan = c.plan ∧ u.mem = s.mem ∧ u.parts = s.parts) ∧
    (∀ temp, ∃ u, exec (.stackTempChange stk temp) s = .next u ∧ (u.stack stk).temp = temp % 256 ∧
      (u.stack stk).hot = (if 85 ≤ temp then true else if temp < 80 then false else (s.stack stk).hot) ∧
      (u.stack stk).chans = (s.stack stk).chans ∧ (∀ j, j ≠ stk → u.stack j = s.stack j) ∧ u = { s with stks := u.stks })

/-- On a usable stack PATROL_SCRUB moves the stack's patrol to the next of its 48 x 2^25 sectors and sends one service block
on its channel; a clean sector changes no count of errors, a corrected one in usable memory adds 1 to the stack's count
of corrected errors and asks for its region's test, an uncorrectable one in a region of no partition marks the sector;
the contents of memory stay. CELLAR_REFRESH changes nothing that software can see. (06_memory_hierarchy.md R182,
06_memory_hierarchy.md R183, 06_memory_hierarchy.md R189) -/
def Obligations.MemoryPatrol : Prop :=
  ∀ (s : State) (stk sector ch : Nat), s.stackUp stk = true → sector < 48 * 2 ^ 25 →
    let a := stk * stackSize + 32 * sector
    let nxt := (sector + 1) % (48 * 2 ^ 25)
    let ce := fun (u : State) => SMap.get 0 (u.stack stk).ctr StackCtr.ce.idx
    let queued := fun (u : State) => ∃ fr, ((u.stack stk).chan (chanOf (32 * sector))).svc =
      ((s.stack stk).chan (chanOf (32 * sector))).svc ++ [(dieOf (32 * sector), fr)] ∧ s.frameNow ≤ fr
    (s.badIn a 32 = none → s.softIn a 32 = [] → ∃ u, exec (.patrolScrub stk sector .clean) s = .next u ∧ (u.stack stk).patrol = nxt ∧
      ce u = ce s ∧ queued u ∧ u.mem = s.mem ∧ u.parts = s.parts ∧ u.tiles = s.tiles ∧ ∀ j, j ≠ stk → u.stack j = s.stack j) ∧
    (∀ n, s.badIn a 32 = none → s.hrt.id.holeM.contains (a / 2 ^ 30) = false → ∃ u, exec (.patrolScrub stk sector (.corrected n)) s = .next u ∧ (u.stack stk).patrol = nxt ∧
      ce u = min (2 ^ 48 - 1) (ce s + 1) ∧ queued u ∧
      ({ kind := 1, idx := a / 16384 } : SelfTest) ∈ u.dev.tests ∧ u.mem = s.mem ∧ u.parts = s.parts) ∧
    (∀ f, s.ownerAt a = none → ∃ u, exec (.patrolScrub stk sector (.uncorrectable f)) s = .next u ∧ (u.stack stk).patrol = nxt ∧
      queued u ∧ a ∈ u.dev.bad ∧ u.mem = s.mem ∧ u.parts = s.parts) ∧
    exec (.cellarRefresh ch) s = .next s

/-- In a running Room r below 16 that has raised no alarm in its beat: DROOP_DETECT of level 1 or 2, not yet answered in the
beat and with fewer than two own stretches in flight, lengthens the next beat by at least 2 or 4 tenths, records and
counts the stretch, and announces it to every other Room for SBN n + 5; with two in flight it raises the alarm instead:
the next beat is lengthened by at least 4, a step-down is armed, and an alarm is on its way to every other Room.
STRETCH_ECHO applies the first echo that is due, unless SBN restarts at the next beat. ALARM_ARRIVAL takes one alarm,
lengthens the next beat by at least 4 and arms the step-down. STEPDOWN_END ends a step-down whose last beat has ended.
SBN_RESTART restarts SBN at a multiple of 4,096 t and drops the echoes that wait. A stretch that answers a droop, where
no tile of the Room would pass its reserve, charges every tile of the Room inside a course 2 or 4 eighths more, and no
other tile. (02_plan_contract.md R41, 08_clocks_and_mantel_time.md R224, 08_clocks_and_mantel_time.md R225,
08_clocks_and_mantel_time.md R226, 08_clocks_and_mantel_time.md R227, 08_clocks_and_mantel_time.md R228,
08_clocks_and_mantel_time.md R229) -/
def Obligations.RoomClockEvents : Prop :=
  ∀ (s : State) (r : Nat), r < 16 → (s.room r).clk ≠ 0 →
    let x := s.room r
    let n := x.sbn - 1
    (∀ level, (level = 1 ∨ level = 2) → x.almAt ≠ x.clk → x.answered = none → x.inFlight < 2 →
      let add := if level = 1 then 2 else 4
      let c := if level = 1 then RoomCtr.str25 else RoomCtr.str50
      ∃ u, exec (.droopDetect r level) s = .next u ∧ (u.room r).nxtAdd = max x.nxtAdd add ∧ (x.clk, add) ∈ (u.room r).own ∧
        SMap.get 0 (u.room r).ctr c.idx = min (2 ^ 48 - 1) (SMap.get 0 x.ctr c.idx + 1) ∧ (u.room r).clk = x.clk ∧
        (∀ k, k < 16 → k ≠ r → (u.room k).echoes = (s.room k).echoes ++ [(n + 5, add, r)] ∧ (u.room k).nxtAdd = (s.room k).nxtAdd)) ∧
    (∀ level, (level = 1 ∨ level = 2) → x.almAt ≠ x.clk → x.answered = none → 2 ≤ x.inFlight →
      ∃ u, exec (.droopDetect r level) s = .next u ∧ (u.room r).nxtAdd = max x.nxtAdd 4 ∧ (u.room r).arm = true ∧
        ∀ k, k < 16 → k ≠ r → (u.room k).alarm = (s.room k).alarm + 1 ∧ (u.room k).echoes = (s.room k).echoes) ∧
    (s.restartsNext r = true → exec (.stretchEcho r) s = .next s) ∧
    (∀ e l, x.echoes = e :: l → e.1 ≤ x.sbn → s.restartsNext r = false →
      ∃ u, exec (.stretchEcho r) s = .next u ∧ (u.room r).nxtAdd = max x.nxtAdd e.2.1 ∧ (u.room r).echoes = l) ∧
    (0 < x.alarm → ∃ u, exec (.alarmArrival r) s = .next u ∧ (u.room r).nxtAdd = max x.nxtAdd 4 ∧ (u.room r).alarm = x.alarm - 1 ∧
      (u.room r).arm = true ∧ ∀ k, k ≠ r → u.room k = s.room k) ∧
    (x.stepOn = true → x.step = 0 → x.stepCur = false → x.arm = false →
      exec (.stepdownEnd r) s = .next (s.setRoom r { x with stepOn := false })) ∧
    (0 ≤ s.begTicks r → x.sbnAt ≠ ((s.begTicks r) / 40960).toNat + 1 →
      exec (.sbnRestart r) s = .next (s.setRoom r { x with sbn := 1, sbnAt := ((s.begTicks r) / 40960).toNat + 1, echoes := [] })) ∧
    (∀ level, (level = 1 ∨ level = 2) → x.almAt ≠ x.clk → x.answered = none → x.inFlight < 2 →
      let e8 := if level = 1 then 2 else 4
      (∀ t ∈ s.tilesIn r, ∀ c, s.courseOf t = some c → (s.tile t).tim.s + e8 ≤ 8 * c.rsv) →
      ∃ u, exec (.droopDetect r level) s = .next u ∧
        (∀ t ∈ s.tilesIn r, (u.tile t).tim.s = if s.inCourse t then (s.tile t).tim.s + e8 else (s.tile t).tim.s) ∧
        (∀ t, t ∉ s.tilesIn r → u.tile t = s.tile t) ∧ u.parts = s.parts)

/-- On a device out of reset with no plan loaded: a window within every limit of Table 8.5 adds 1 to the reference's run of
good windows, and the 1,000th makes it good and, with no reference in use, active. Missing edges of the active reference
make it bad at once; if the other is good that becomes active and the fail-over is counted, otherwise none is active and
the generator is in holdover. REF_REVERT_TIMEOUT returns to the preferred reference 10 s after it became good, with
REVERT = 1. On an UP link 1 ms after the last request, TIME_EXCHANGE_TIMER queues a request with the next XID.
TIME_REQUEST_RECEIVE takes the oldest request off and queues a reply with T2, the request's XID and PTRK, set in TRACK
and by every master. TIME_REPLY_RECEIVE of the open exchange on an UP link, whose request left at t1, takes the cable
delay ((t2 - t1) + (t4 - t3)) / 2, rounded up to a tenth of a tick, and a device that takes time from that port takes
theta = ((t2 - t1) - (t4 - t3)) / 2, with no plan loaded; a device whose parent is lost takes its time from the other
port from then on. (08_clocks_and_mantel_time.md R236, 08_clocks_and_mantel_time.md R237, 08_clocks_and_mantel_time.md
R238, 08_clocks_and_mantel_time.md R240, 10_link_layer.md Table 10.2) -/
def Obligations.ReferenceAndTimeExchange : Prop :=
  (
  ∀ (s : State) (b : Bool), s.pwr.inReset = false → (∀ p, p < 64 → (s.part p).plan = none) →
    let n := if b then 1 else 0
    let m := s.mnt
    (∀ w : RefWindow, w.jitter ≤ 5000 → 450 ≤ w.duty → w.duty ≤ 550 → w.offset ≤ 200000 → (m.ref b).run + 1 < 1000 →
      exec (.refclkWindowEnd n w) s = .next { s with mnt := m.setRef b { m.ref b with run := (m.ref b).run + 1 } }) ∧
    (∀ w : RefWindow, w.jitter ≤ 5000 → 450 ≤ w.duty → w.duty ≤ 550 → w.offset ≤ 200000 → (m.ref b).run = 999 → (m.ref b).good = false →
      ∃ u, exec (.refclkWindowEnd n w) s = .next u ∧ (u.mnt.ref b).good = true ∧ (m.active = none → u.mnt.active = some b ∧ u.mnt.hold = false) ∧
        (∀ a, m.active = some a → u.mnt.active = some a) ∧ u.mnt.now = m.now ∧ u = { s with mnt := u.mnt }) ∧
    (m.active = some b → ∃ u, exec (.refclkMissingEdges n) s = .next u ∧ (u.mnt.ref b).good = false ∧
      ((m.ref (!b)).good = true → u.mnt.active = some (!b) ∧ u.mnt.hold = m.hold) ∧
      ((m.ref (!b)).good = false → u.mnt.active = none ∧ u.mnt.hold = true) ∧ u = { s with mnt := u.mnt }) ∧
    (m.revert = true → m.active = some (!m.pref) → (m.ref m.pref).good = true → (m.ref m.pref).goodAt + 10000000000 ≤ m.up →
      exec .refRevertTimeout s = .next { s with mnt := { m with active := some m.pref } })) ∧
  (
  ∀ (s : State) (port : Nat),
    let v := s.port port
    (v.st = .up → v.exAt + 1000000 ≤ s.mnt.up → ∃ u, exec (.timeExchangeTimer port) s = .next u ∧
      (u.port port).tx.msgs = v.tx.msgs ++ [{ mtype := 1, mseq := 0, body := timeBody 0 0 ((v.xid + 1) % 2 ^ 16) false }] ∧
      (u.port port).xid = (v.xid + 1) % 2 ^ 16 ∧ (u.port port).exAt = s.mnt.up ∧ u = { s with ports := u.ports } ∧
      ∀ j, j ≠ port → u.port j = s.port j) ∧
    (∀ t2 m r, v.rx.msgs = m :: r → m.mtype = 1 → ∃ u, exec (.timeRequestReceive port t2) s = .next u ∧ (u.port port).rx.msgs = r ∧
      (u.port port).tx.msgs = v.tx.msgs ++
        [{ mtype := 2, mseq := 0, body := timeBody t2 0 (bits m.body.toNat 128 16) (decide (s.mnt.td = .track) || s.mnt.master) }] ∧
      u = { s with ports := u.ports }) ∧
    (∀ (t1 t4 : Nat) (m : LinkMsg) (r : List LinkMsg), v.rx.msgs = m :: r → m.mtype = 2 → bits m.body.toNat 128 16 = v.xid → v.st = .up →
      (∀ p, p < 64 → (s.part p).plan = none) →
      let t2 := bits m.body.toNat 0 64
      let t3 := bits m.body.toNat 64 64
      let a : Int := (t2 : Int) - v.t1
      let b : Int := (t4 : Int) - t3
      ∃ u, exec (.timeReplyReceive port t1 t4) s = .next u ∧ (u.port port).rx.msgs = r ∧
        (u.port port).delay = ((a + b + 1) / 2).toNat ∧ (u.port port).exRep = s.mnt.up ∧
        (s.mnt.tdEn = true → s.mnt.master = false → s.mnt.altEn = false → s.mnt.td = .track → s.mnt.timePort = port → ((a - b) / 2).natAbs ≤ 50 →
          u.mnt.theta = (a - b) / 2 ∧ u.mnt.td = .track ∧ u.mnt.now = s.mnt.now) ∧
        (s.altDue = true → port = s.mnt.otherPort → u.mnt.altUse = !s.mnt.altUse ∧ u.mnt.theta = (a - b) / 2) ∧
        ((s.mnt.tdEn = false ∨ s.mnt.master = true ∨ (s.mnt.altEn = false ∧ s.mnt.timePort ≠ port)) → u.mnt = s.mnt)))

/-- A write of MNT_TD_CTL by the device owner takes EN, MASTER, PARENT, ALTEN and ALT, and with EN = 0 leaves the discipline
UNLOCKED. PARENT_SILENCE_TIMEOUT in TRACK without an alternate and with the parent silent for 3 ms enters HOLDOVER.
HOLDOVER_LIMIT after 10 ms in HOLDOVER fires once: whatever plans are loaded it records that, and where one partition
has a plan loaded that runs, a time fault of cause 3 is raised against it; before 10 ms, and once it has fired, it
changes nothing. MNT_WC_CTL.COMMIT applies the written pair together and COMMIT = 0 changes nothing. A read of the low
word of MNT_COUNT returns it and latches the high word of the same count. (08_clocks_and_mantel_time.md R241,
08_clocks_and_mantel_time.md R242, 08_clocks_and_mantel_time.md R243, 08_clocks_and_mantel_time.md R246,
08_clocks_and_mantel_time.md R238) -/
def Obligations.TimeDiscipline : Prop :=
  ∀ (s : State) (acc : Accessor), s.accUp acc = true →
    let m := s.mnt
    (∀ v, accOwner acc = true → ∃ u, exec (.mntTdCtlWrite acc v) s = .next u ∧ u.mnt.tdEn = flag v 0 ∧ u.mnt.master = flag v 1 ∧
      u.mnt.parent = fld v 2 4 ∧ u.mnt.altEn = flag v 6 ∧ u.mnt.alt = fld v 7 4 ∧ (flag v 0 = false → u.mnt.td = .unlocked) ∧
      u.mnt.now = m.now ∧ u = { s with mnt := u.mnt }) ∧
    (m.tdEn = true → m.master = false → m.altEn = false → m.td = .track → s.silent m.timePort = true →
      exec .parentSilenceTimeout s = .next { s with mnt := { m with td := .holdover, holdAt := m.up, holdFlt := false, okRun := 0 } }) ∧
    (m.td = .holdover → m.holdFlt = false → m.holdAt + 10000000 ≤ m.up →
      ∃ u, exec .holdoverLimit s = .next u ∧ u.mnt = { m with holdFlt := true } ∧ u.mem = s.mem ∧
        ((∀ p, p < 64 → (s.part p).plan = none) → u = { s with mnt := { m with holdFlt := true } }) ∧
        ∀ p, p < 64 → (s.part p).plan ≠ none → (∀ q, q < 64 → q ≠ p → (s.part q).plan = none) → Healthy s p →
          ∃ w f, w = { s with mnt := { m with holdFlt := true } } ∧ f.cls = 0x0F ∧ f.cause = 3 ∧ Faulted w u p f) ∧
    ((m.td ≠ .holdover ∨ m.holdFlt = true ∨ m.up < m.holdAt + 10000000) → exec .holdoverLimit s = .next s) ∧
    (∀ v, accOwner acc = true → flag v 0 = true →
      exec (.mntWcCommit acc v) s = .next { s with mnt := { m with wcM := m.wcPendM, wcU := m.wcPendU } }) ∧
    (∀ v, accOwner acc = true → flag v 0 = false → exec (.mntWcCommit acc v) s = .next s) ∧
    (∃ u, exec (.mntCountLowRead acc) s = .next u ∧ u.cmd.rd = toLE 4 (m.now % 2 ^ 32) ∧ u.mnt = { m with latch := word (m.now / 2 ^ 32) } ∧
      u = { s with cmd := { s.cmd with rd := u.cmd.rd }, mnt := u.mnt })

/-- On a tile of a running plan without step shapes, not halted or paused, whose next beat begins its next course k, whose
beats of the course before are complete and which no wait holds: when the partition's course k has begun, or begins now
as course 0, COURSE_START leaves the tile in course k at plan beat 0 with no reserve charge, when no event or step-down
falls on its beat, and the partition in course k; other tiles are unchanged. PLAN_COMPLETION at the completion tick of a
running plan that does not shadow and whose last course kept its token budget leaves the partition's launch complete and
the plan spent. (02_plan_contract.md R38, 02_plan_contract.md R42, 02_plan_contract.md R44, 02_plan_contract.md R45) -/
def Obligations.CourseStarts : Prop :=
  ∀ (s : State) (t p : Nat) (pl : Plan), (s.part p).plan = some pl → pl.serv = none → (s.part p).live = true →
    let v := s.part p
    let k := (s.tile t).tim.course
    (∀ b, s.partOf t = some p → s.startDue t = true → s.beatReady t = true → s.notDone t = false → (s.tile t).wait = none → v.startOf k = some b →
      s.startStepped t b = false → (s.room (s.roomOf t)).curEv = 0 →
      ((v.run.course = k + 1 ∧ (∀ x, v.startOf (k + 1) = some x → s.now < x)) ∨ (k = 0 ∧ v.run.course = 0 ∧ b ≤ s.now ∧ v.run.pause = none)) →
      ∃ u, exec (.courseStart t) s = .next u ∧ (u.tile t).tim.course = k + 1 ∧ (u.tile t).tim.beat = 0 ∧ (u.tile t).tim.s = 0 ∧
        (u.tile t).tim.cb = (s.tile t).tim.cb ∧ (u.tile t).sreg = (s.tile t).sreg ∧ (u.tile t).q = (s.tile t).q ∧
        (u.part p).run.course = k + 1 ∧ (∀ j, j ≠ t → u.tile j = s.tile j) ∧ u.mem = s.mem) ∧
    (∀ d c, v.doneAt = some d → d ≤ s.now → v.sh.role = 0 → v.courseAt (v.run.course - 1) = some c → v.run.tok ≤ c.avg * c.len →
      ∃ u, exec (.planCompletion p) s = .next u ∧ (u.part p).launch.st = .complete ∧ (u.part p).run.spent = true ∧
        (u.part p).plan = some pl ∧ u.mem = s.mem ∧ (∀ j, j ≠ p → u.part j = s.part j) ∧
        ∀ j ∈ s.tilesOf p, (u.tile j).sreg = (s.tile j).sreg ∧ (u.tile j).q = (s.tile j).q ∧ (u.tile j).drained = false) ∧
    (∀ d, v.doneAt = some d → s.now < d → exec (.planCompletion p) s = .next s)

/-- TRAINING_COMPLETE in TRAIN makes the port UP with the measured delay of at most 600 t and all its sequence numbers at 0,
and takes it DOWN with cause 10 beyond. TRAINING_TIMEOUT after 100 ms takes TRAIN to DOWN, cause 9. FEC_LOCK_LOST and
RETRAIN_REQUEST_RECEIVE take UP to RETRAIN, causes 2 and 4. RETRAIN_COMPLETE makes the port UP again.
RETRAIN_ATTEMPT_TIMEOUT after 50 us begins the second attempt, and takes the port DOWN after it, cause 5. CREDIT_TIMEOUT
after 100 us without a return takes UP to DOWN, cause 6. AUTO_TRAIN_TICK each second and PEER_TRAINING_DETECT move an
enabled DOWN port to TRAIN outside P3. In every case the device's memory is unchanged. (10_link_layer.md R314,
10_link_layer.md R315, 10_link_layer.md R316, 10_link_layer.md R305, 10_link_layer.md Table 10.4) -/
def Obligations.PortStateMachine : Prop :=
  ∀ (s : State) (n : Nat),
    let v := s.port n
    let goes := fun (c : Instr) (st : LinkSt) (cause : Nat) => ∃ u, exec c s = .next u ∧ (u.port n).st = st ∧ (u.port n).cause = cause ∧
      (u.port n).since = s.mnt.up ∧ u.mem = s.mem
    (∀ delay peer, v.st = .train → delay ≤ 6000 → ∃ u, exec (.trainingComplete n delay peer) s = .next u ∧ (u.port n).st = .up ∧
      (u.port n).delay = delay ∧ (u.port n).peer = peer % 65536 ∧ (u.port n).tx.ssnNew = 0 ∧ (u.port n).tx.psnNew = 0 ∧ (u.port n).rx.ssn = 0 ∧
      (u.port n).rx.psnTop = 0 ∧ (u.port n).tx.mseq = 0 ∧ (u.port n).rx.mack = 0 ∧ (u.port n).tx.replay = [] ∧ (u.port n).tx.crUsed = [] ∧ (∀ j, j ≠ n → u.port j = s.port j) ∧ u.mem = s.mem) ∧
    (∀ delay peer, v.st = .train → 6000 < delay → goes (.trainingComplete n delay peer) .down 10) ∧
    (v.st = .train → v.since + 100000000 ≤ s.mnt.up → goes (.trainingTimeout n) .down 9) ∧
    (v.st = .up → goes (.fecLockLost n) .retrain 2) ∧
    (∀ m r, v.st = .up → v.rx.msgs = m :: r → m.mtype = 4 → goes (.retrainRequestReceive n) .retrain 4) ∧
    (∀ delay, v.st = .retrain → ∃ u, exec (.retrainComplete n delay) s = .next u ∧ (u.port n).st = .up ∧ (u.port n).delay = delay ∧
      (u.port n).tx.replay.map (fun f => f.seq) = v.tx.replay.map (fun f => f.seq) ∧ u.mem = s.mem) ∧
    (v.st = .retrain → v.since + 50000 ≤ s.mnt.up → v.attempt = 1 → ∃ u, exec (.retrainAttemptTimeout n) s = .next u ∧
      (u.port n).st = .retrain ∧ (u.port n).attempt = 2 ∧ (u.port n).since = s.mnt.up ∧ u = { s with ports := u.ports }) ∧
    (v.st = .retrain → v.since + 50000 ≤ s.mnt.up → v.attempt ≠ 1 → goes (.retrainAttemptTimeout n) .down 5) ∧
    (∀ vc, v.st = .up → vc < 4 → 0 < SMap.get 0 v.tx.crTmr vc → SMap.get 0 v.tx.crTmr vc - 1 + 100000 ≤ s.mnt.up →
      goes (.creditTimeout n vc) .down 6) ∧
    (v.st = .down → v.en = true → v.efence = false → n < s.nPorts → s.pwr.state ≠ 3 →
      goes (.peerTrainingDetect n) .train v.cause ∧
      (v.auto = true → v.autoAt + 1000000000 ≤ s.mnt.up → goes (.autoTrainTick n) .train v.cause))

/-- A write by an accessor with device-owner access, of a port of the device: LNK_CTL with EN and TRAIN moves a DOWN,
unfenced port to TRAIN outside P3; with EN and RETRAIN an UP port to RETRAIN, cause 3; with FORCEDN, and with EN = 0,
any other state to DOWN, cause 7; EN and AUTO are stored. FAB_FENCE setting EFENCE squelches the transmitter and takes
the port DOWN, cause 8; a change of LFENCE alone is stored and leaves the link's state. The memory and the partitions'
plans are unchanged. (10_link_layer.md Table 10.5, 09_scheduled_fabric.md Table 9.11, 09_scheduled_fabric.md R291,
17_partitions_and_security.md R470) -/
def Obligations.PortRegisterWrites : Prop :=
  ∀ (s : State) (n : Nat) (acc : Accessor) (x : BitVec 32), n < s.nPorts → s.accUp acc = true → accOwner acc = true →
    (∀ p, s.owner 3 n = some p → p < 64) →
    let v := s.port n
    let after := fun (c : Instr) (st : LinkSt) (cause : Nat) => ∃ u, exec c s = .next u ∧ (u.port n).st = st ∧ (u.port n).cause = cause ∧
      (u.port n).en = flag x 0 ∧ (u.port n).auto = flag x 1 ∧ u.mem = s.mem
    (flag x 0 = true → flag x 2 = true → flag x 3 = false → flag x 4 = false → v.st = .down → v.efence = false → s.pwr.state ≠ 3 →
      after (.lnkCtlTrain acc n x) .train v.cause) ∧
    (flag x 0 = true → flag x 2 = false → flag x 3 = true → flag x 4 = false → v.st = .up → after (.lnkCtlRetrain acc n x) .retrain 3) ∧
    (flag x 2 = false → flag x 3 = false → flag x 4 = true → v.st ≠ .down → after (.lnkCtlForcedn acc n x) .down 7) ∧
    (flag x 0 = false → v.st ≠ .down → after (.lnkCtlEnWrite acc n x) .down 7) ∧
    (flag x 0 = true → after (.lnkCtlEnWrite acc n x) v.st v.cause) ∧
    (flag x 0 = true → v.efence = false → v.st ≠ .down → ∃ u, exec (.fabFenceEfence acc n x) s = .next u ∧ (u.port n).efence = true ∧
      (u.port n).lfence = flag x 1 ∧ (u.port n).st = .down ∧ (u.port n).cause = 8 ∧ u.mem = s.mem) ∧
    (flag x 0 = false → flag x 1 ≠ v.lfence → ∃ u, exec (.fabFenceLfence acc n x) s = .next u ∧ (u.port n).efence = false ∧
      (u.port n).lfence = flag x 1 ∧ (u.port n).st = v.st ∧ u = { s with ports := u.ports } ∧ ∀ j, j ≠ n → u.port j = s.port j)

/-- On an UP port whose group no course start cuts short: once position 15 is reached and not filled, REPLAY_POSITION_SEND
puts there the oldest entry of the link-position queue, or a control flit when the queue is empty or the port may send
nothing else. Once position 31 is reached and free and no retrain request waits, CONTROL_POSITION_SEND puts a control
flit there, puts the group on the pins with that flit in position 31, and begins the next group 32 positions later with
its replay position open; of the other ports only the counts of returned credits change. (10_link_layer.md R295,
10_link_layer.md R296, 10_link_layer.md R311, 09_scheduled_fabric.md R254) -/
def Obligations.LinkPositionsSent : Prop :=
  ∀ (s : State) (n : Nat),
    let v := s.port n
    let g := v.tx.grp
    let x := g + 15 * 219
    let y := g + 31 * 219
    v.st = .up → s.bound n g = none →
    (∀ q r, v.tx.repl = false → x < tk (s.now + 1) → v.tx.lq = q :: r → v.tx.lqWait = [] → s.quiet n = false → v.slotAt x = none → ∃ u k, exec (.replayPositionSend n) s = .next u ∧
      (u.port n).slotAt x = some k ∧ k.flit = q.flit ∧ k.seq = q.seq ∧ k.kind = (if q.late then .linkPlan else .replay) ∧
      (u.port n).tx.lq = r ∧ (u.port n).tx.repl = true ∧ (u.port n).tx.grp = g ∧ ∀ j, j ≠ n → u.port j = s.port j) ∧
    (v.tx.repl = false → x < tk (s.now + 1) → (v.tx.lq = [] ∨ s.quiet n = true) → v.slotAt x = none → ∃ u k, exec (.replayPositionSend n) s = .next u ∧
      (u.port n).slotAt x = some k ∧ k.kind = .control ∧ (u.port n).tx.repl = true ∧ (u.port n).tx.grp = g) ∧
    (y < tk (s.now + 1) → v.slotAt y = none → (∀ m ∈ v.tx.msgs, m.mtype ≠ 4) → ∃ u o f, exec (.controlPositionSend n) s = .next u ∧
      (u.port n).tx.out = some o ∧ (31, f) ∈ o.flits ∧ (u.port n).tx.grp = g + 32 * 219 ∧ (u.port n).tx.repl = false ∧
      (u.port n).st = .up ∧ ∀ j, j ≠ n → u.port j = { s.port j with rx := { (s.port j).rx with crOut := (u.port j).rx.crOut } })

/-- On an UP port a group that fails its check changes only the port's count of bad groups and the time of its latest group.
A good group whose only flit is a service flit in position 0 with the expected number, a whole packet of one flit whose
header check passes, moves the expected number on by 1 and adds the packet to its channel's ingress buffer; a good group
whose only flit is a plan flit in position 0 with the next plan number moves the highest plan number on by 1 and marks
it received, and of the other ports at most the positions still to be sent change. A port that is not UP takes nothing.
(10_link_layer.md R297, 10_link_layer.md R301, 10_link_layer.md R307, 10_link_layer.md R309) -/
def Obligations.LinkGroupsReceived : Prop :=
  ∀ (s : State) (n : Nat) (g : Group) (fec : Bool),
    let v := s.port n
    let t := g.trailer.toNat
    let bytes := (List.range 32).flatMap fun i => flitBytes (((g.flits.find? fun f => f.1 = i).map (·.2)).getD 0)
    let good := fec = true ∧ (crc32c (bytes ++ toLE 17 (t % 2 ^ 136))).toNat = t / 2 ^ 136
    (v.st ≠ .up → exec (.linkGroupReceive n g fec) s = .next s) ∧
    (v.st = .up → ¬ good → exec (.linkGroupReceive n g fec) s =
      .next ((s.modPort n fun u => { u with rx := { u.rx with grid := tk s.now } }).portCount n .grpBad 1)) ∧
    (∀ f r, v.st = .up → good → g.flits = (0, f) :: r → bits t 88 16 = v.rx.psnTop % 65536 → v.rx.hold = [] →
      (bits t 0 64 = 1 → bits t 72 16 = v.rx.ssn % 65536 → v.rx.part = [] → v.lfence = false → (Hdr.dec f).len = 0 → hcrcOk f = true →
        ∃ u k, exec (.linkGroupReceive n g fec) s = .next u ∧ (u.port n).rx.ssn = v.rx.ssn + 1 ∧ (u.port n).rx.part = [] ∧
          k.hdr = f ∧ k.data = [] ∧ k.ing = some n ∧
          SMap.get [] (u.port n).rx.ingress (Hdr.dec f).vc = SMap.get [] v.rx.ingress (Hdr.dec f).vc ++ [k] ∧
          (∀ j, j ≠ n → u.port j = s.port j) ∧ u.mem = s.mem ∧ u.fab = s.fab) ∧
      (bits t 0 64 = 2 → v.rx.psnTop ∉ v.rx.got → v.rx.psnHi ≤ v.rx.psnTop →
        ∃ u, exec (.linkGroupReceive n g fec) s = .next u ∧ (u.port n).rx.psnTop = v.rx.psnTop + 1 ∧ v.rx.psnTop ∈ (u.port n).rx.got ∧
          (u.port n).rx.ssn = v.rx.ssn ∧ u.mem = s.mem ∧ ∀ j, j ≠ n → ∃ sl t1,
            u.port j = { s.port j with tx := { (s.port j).tx with slots := sl }, t1 := t1 }))

/-- A control flit with no message that acknowledges every service flit and every plan flit sent, with no loss range,
empties the replay buffer of numbers below those never assigned, and a channel's returned count moves to the value it
names modulo 2^16. On an UP port that may send more than control flits: SERVICE_REPLAY_TIMEOUT 1,500 t after the end of
the oldest unacknowledged service flit, with fewer than 3 replays, counts a replay and marks every service flit as not
sent. PLAN_REPLAY_TIMEOUT 1,500 t after the end of a plan flit of fewer than 3 replays, none of them on its way, counts
a time-out and adds the flit to the link-position queue. (10_link_layer.md R299, 10_link_layer.md R302, 10_link_layer.md
R303, 10_link_layer.md R304, 10_link_layer.md R310, 10_link_layer.md R311) -/
def Obligations.LinkAcknowledgements : Prop :=
  ∀ (s : State) (n : Nat),
    let v := s.port n
    (∀ f r, v.rx.ctl = f :: r → fld (flitWord f 3) 0 7 = 0 → (fld (flitWord f 0) 0 16 + 1) % 65536 = v.tx.ssnNew % 65536 →
      (fld (flitWord f 0) 16 16 + 1) % 65536 = v.tx.psnNew % 65536 →
      (∀ x ∈ v.tx.replay, x.seq < if x.plan then v.tx.psnNew else v.tx.ssnNew) →
      ∃ u, exec (.controlFlitReceive n) s = .next u ∧ (u.port n).rx.ctl = r ∧ (u.port n).tx.replay = [] ∧
        (∀ vc, vc < 4 → SMap.get 0 (u.port n).tx.crRet vc % 65536 =
          fld (flitWord f (if vc < 2 then 1 else 2)) (16 * (vc % 2)) 16) ∧
        (u.port n).st = v.st ∧ u = { s with ports := u.ports } ∧ ∀ j, j ≠ n → u.port j = s.port j) ∧
    (∀ f e, v.st = .up → v.tx.replay.find? (fun x => !x.plan) = some f → f.ended = some e → e + tk 1500 ≤ tk s.mnt.up → f.reps < 3 → s.quiet n = false →
      ∃ u, exec (.serviceReplayTimeout n) s = .next u ∧ (∀ x ∈ (u.port n).tx.replay, x.plan = false → x.ended = none) ∧
        (u.port n).tx.replay.map (fun x => x.seq) = v.tx.replay.map (fun x => x.seq) ∧
        SMap.get 0 (u.port n).ctr PortCtr.svcReplay.idx = min (2 ^ 32 - 1) (SMap.get 0 v.ctr PortCtr.svcReplay.idx + 1) ∧
        (u.port n).st = .up ∧ ∀ j, j ≠ n → u.port j = s.port j) ∧
    (∀ f e, v.st = .up → v.tx.replay = [f] → f.plan = true → f.ended = some e → e + tk 1500 ≤ tk s.mnt.up → f.reps < 3 → s.quiet n = false →
      v.tx.lq = [] → v.tx.lqWait = [] → (∀ k ∈ v.tx.slots, k.2.kind ≠ .replay) →
      ∃ u, exec (.planReplayTimeout n) s = .next u ∧ (u.port n).tx.lq = [{ late := false, seq := f.seq, part := f.part, flit := f.flit, hdr := f.hdr, t0 := f.first }] ∧
        (u.port n).tx.replay = [{ f with reps := f.reps + 1 }] ∧
        SMap.get 0 (u.port n).ctr PortCtr.planRtmo.idx = min (2 ^ 32 - 1) (SMap.get 0 v.ctr PortCtr.planRtmo.idx + 1) ∧
        ∀ j, j ≠ n → u.port j = s.port j)

/-- On a device with an ID: a staged packet whose tick has come leaves its buffer: with its data in time, on an UP port
whose positions no other packet and no link flit holds, its flits stand in the positions that follow its departure
position; with its data late a departure-miss fault (0x02) halts the partition; voided, halted or paused, nothing is
sent. A packet for this device that passes its checks, D_min after its flits have reached the pins, is taken to its
Landing slots: each of its slots waits, with the packet's epoch, for the end of the beat in progress in the destination
tile's Room, and no byte and no tag changes before; a packet held by the hazard detector is taken so at its scaled tick.
A packet for another device leaves by the port of its plan's route table 180 t after its arrival, its header changed in
HOPS alone, which is one less; HOPS 0 and a missing route drop and count it. (A detector that stops the plan is left out
of the clause on the held landing.) (02_plan_contract.md R55, 02_plan_contract.md R57, 02_plan_contract.md R64,
09_scheduled_fabric.md R258, 09_scheduled_fabric.md R269, 09_scheduled_fabric.md R274, 09_scheduled_fabric.md R276,
09_scheduled_fabric.md R278) -/
def Obligations.PlanPackets : Prop :=
  ∀ (s : State) (n : Nat),
    (∀ d r e, (s.port n).tx.dbuf = d :: r → d.due ≤ s.now → s.entryOf d = some e →
      let s1 := s.modPort n fun u => u.unstage d
      let q := s.port n
      let free := fun (v : Port) (ks : List (Nat × Slot)) => v.clash ks = none ∧ ((ks.filter fun k => decide (k.2.kind = .plan)).map fun k => k.1).Nodup ∧
        ∀ k ∈ ks, ∀ o, v.slotAt k.1 = some o → o.isLink = false
      (Healthy s d.part → d.void = false → (s.part d.part).run.paused = none → d.due < d.rdy →
        ∃ u, exec (.departureSend n) s = .next u ∧ (u.port n).tx.dbuf = r ∧
          Faulted s u d.part { FInfo.dev 0x02 0 [word n, word e.frame, word e.pos, word d.tile] with course := some d.course, tile := some d.tile }) ∧
      (∀ st, s.me ≠ 0xFFFF → Healthy s d.part → d.void = false → (s.part d.part).run.paused = none → d.rdy ≤ d.due → q.st = .up → q.efence = false →
        q.lfence = false → (s.part d.part).run.hzd = false → (s.part d.part).startOf d.course = some st →
        let x := tk st + 219 * (1024 * e.frame + e.pos)
        let ks := s1.planKeys n (s1.depTimes n 4096 x (d.pkt.hdr :: d.pkt.data)) (planSlot d.part d.pkt.hdr x true)
        free (s1.port n) ks →
        ∃ u, exec (.departureSend n) s = .next u ∧ (u.port n).tx.dbuf = r ∧ (∀ k ∈ ks, k.2.kind = .plan → (u.port n).slotAt k.1 = some k.2) ∧
          u = { s with ports := u.ports } ∧ ∀ j, j ≠ n → u.port j = s.port j) ∧
      (d.void = true ∨ (s.part d.part).run.halted = true → exec (.departureSend n) s = .next s1 ∧ (s1.port n).tx.dbuf = r)) ∧
    (∀ k r t slot, (s.port n).rx.planIn = k :: r →
      let h := Hdr.dec k.pkt.hdr
      let w := (s.room (s.roomOf t)).clk - 1
      let ends := if k.late then k.arr.foldl max 0 + 219 else k.arr.headD 0 + 219 * k.arr.length
      let lands := fun u : State => (u.port n).rx.planIn = r ∧ u.mem = s.mem ∧ (u.tile t).tags = (s.tile t).tags ∧
        (u.tile t).lands = (List.range (h.len / 4)).map (fun i =>
          ({ beat := w, slot := slot + i, epoch := h.epoch, data := (k.pkt.payload.drop (256 * i)).take 256 } : LandEnt)) ∧
        (∀ i, i ≠ t → u.tile i = s.tile i) ∧ ∀ j, j ≠ n → u.port j = s.port j
      h.dst = s.me → hdrOk k.pkt.hdr = true → h.opc = 0 → k.pkt.data.length = h.len → (s.part h.part).plan.isSome = true →
      s.landAt h = some (t, slot) → s.owner 0 t = some h.part → (s.part h.part).run.halted = false →
      (s.tile t).lands = [] → (s.tile t).now ≤ w →
      (k.hold = 0 → ends + tk (Config.dMin n t) ≤ tk s.now → (s.part h.part).run.hzd = false →
        ∃ u, exec (.landingPacket n) s = .next u ∧ lands u) ∧
      (0 < k.hold → k.hold ≤ s.now → (s.part h.part).run.hzdStop = false → ∃ u, exec (.hazardLandingRelease n) s = .next u ∧ lands u)) ∧
    (∀ k r, (s.port n).rx.planIn = k :: r →
      let h := Hdr.dec k.pkt.hdr
      let a0 := k.arr.headD 0
      let s1 := s.modPort n fun v => v.takeIn k
      h.dst ≠ s.me → k.late = false → tk s.now ≤ a0 + tk 180 →
      (s.planRoute h = none → exec (.planPacketForward n) s = .next (s1.fabCount .planNoRoute 1)) ∧
      (∀ m, s.planRoute h = some m → h.hops = 0 → exec (.planPacketForward n) s = .next (s1.fabCount .hopDrop 1)) ∧
      (∀ m, s.me ≠ 0xFFFF → s.planRoute h = some m → h.hops ≠ 0 → (s.port m).st = .up → (s.port m).efence = false → (s.port m).lfence = false →
        (s.part h.part).run.hzd = false →
        let hdr := withHops k.pkt.hdr (h.hops - 1)
        let ks := s1.planKeys m ((k.arr.map fun b => b + tk 180).zip (hdr :: k.pkt.data)) (planSlot h.part hdr (a0 + tk 180) false)
        (s1.port m).clash ks = none → ((ks.filter fun e => decide (e.2.kind = .plan)).map fun e => e.1).Nodup → (∀ e ∈ ks, ∀ o, (s1.port m).slotAt e.1 = some o → o.isLink = false) →
        ∃ u, exec (.planPacketForward n) s = .next u ∧ (u.port n).rx.planIn = r ∧ (∀ e ∈ ks, e.2.kind = .plan → (u.port m).slotAt e.1 = some e.2) ∧
          u = { s with ports := u.ports }))

/-- A packet of the open interval whose blocks pass their CRC takes effect when its row takes it: it leaves its queue and
its source's count rises by one. WRITE to owned memory writes its payload and is answered with WRITE_CPL of its TAG; to
a Loft it joins the tile's service buffer and is not counted yet; to memory of another partition it writes nothing,
counts in FLT_XPART_MEM and is answered the same. READ is answered with READ_RSP of the bytes, addressed to OPA, and
writes nothing. READ_RSP and MSG write their payload, the first answered by nothing. WRITE_CPL and ERR_CPL are kept as
the last completion; an ERR_CPL of a remote signal halts the signal's partition with fault 0x14. SADD, SSET and SCAS
give their word its sum, its new value, and the new value if it held the old one, and change no other byte. A NULL that
its source's count covers closes the interval and changes no memory and no partition. (09_scheduled_fabric.md R266,
09_scheduled_fabric.md R270, 09_scheduled_fabric.md R272, 09_scheduled_fabric.md R286, 09_scheduled_fabric.md Table 9.5,
06_memory_hierarchy.md Table 6.2, 11_synchronization.md R324) -/
def Obligations.ServicePacketEffects : Prop :=
  ∀ (s : State) (ing vc : Nat) (k : Packet) (r : List Packet), Arrives s ing vc k r →
    let h := Hdr.dec k.hdr
    let p := h.part
    let a := h.addr
    let o := s.ordOf h.src
    let takes := fun (c : Instr) (f : State → Prop) => ∃ u, exec c s = .next u ∧ u.queueOf ing vc = r ∧
      (u.ordOf h.src).cur = o.cur ∧ (u.ordOf h.src).cnt = o.cnt + 1 ∧ f u
    let one := fun n : Nat => a % 2 ^ 20 + n ≤ 2 ^ 20
    let whole := fun n : Nat => ∀ x ∈ s.dev.crcBad, x + 256 ≤ a ∨ a + n ≤ x
    let plain := s.badRead a 8 = none ∧ s.syncBehind a = false ∧ ((s.svcAt p a = .mem ∧ whole 8) ∨
      ∃ t off, s.svcAt p a = .loft t off ∧ inLanding off 8 = false ∧ (s.tile t).lands = [])
    let sync := fun (c : Instr) (x : DWord) => s.rafterWord p a = none → takes c fun u => u.rdW a = x ∧
      ∀ y, y < a ∨ a + 8 ≤ y → u.rdByte y = s.rdByte y
    let old := s.rdW a
    (h.ord = false →
      (h.opc = 1 → one (64 * h.len) → whole (64 * h.len) → s.svcAt p a = .mem → takes (.writePacket ing vc) fun u => Wrote s u a k.payload ∧
        Answers s u h.src fun q => (Hdr.dec q.hdr).opc = 4 ∧ (Hdr.dec q.hdr).dst = h.src ∧ (Hdr.dec q.hdr).tag = h.tag ∧ (Hdr.dec q.hdr).addr = a) ∧
      (∀ t off, h.opc = 1 → one (64 * h.len) → s.svcAt p a = .loft t off → (s.tile t).svcBytes + 64 * h.len ≤ 8192 →
        ∃ u, exec (.writePacket ing vc) s = .next u ∧ u.queueOf ing vc = r ∧ u.ordOf h.src = o ∧ u.mem = s.mem ∧
          (u.tile t).svc = (s.tile t).svc ++ [{ off := off, data := k.payload, hdr := some k.hdr, counts := true }]) ∧
      (h.opc = 1 → one (64 * h.len) → s.svcAt p a = .blocked → takes (.writePacket ing vc) fun u => u.mem = s.mem ∧
        SMap.get 0 u.dev.ctr DevCtr.xpartMem.idx = min (2 ^ 32 - 1) (SMap.get 0 s.dev.ctr DevCtr.xpartMem.idx + 1) ∧
        Answers s u h.src fun q => (Hdr.dec q.hdr).opc = 4 ∧ (Hdr.dec q.hdr).tag = h.tag) ∧
      (h.opc = 2 → one (64 * h.rlen) → whole (64 * h.rlen) → s.svcAt p a = .mem → s.badRead a (64 * h.rlen) = none → takes (.readPacket ing vc) fun u => u.mem = s.mem ∧
        Answers s u h.src fun q => (Hdr.dec q.hdr).opc = 3 ∧ (Hdr.dec q.hdr).tag = h.tag ∧ (Hdr.dec q.hdr).addr = h.opa ∧
          q.payload = s.rd a (64 * h.rlen)) ∧
      (h.opc = 3 → one (64 * h.len) → whole (64 * h.len) → s.svcAt p a = .mem → h.tag ≠ pagerTag p → takes (.readRspPacket ing vc) fun u =>
        Wrote s u a k.payload ∧ ∀ j, (u.port j).tx = (s.port j).tx) ∧
      (h.opc = 4 → takes (.writeCplPacket ing vc) fun u => u.fab.cpl = some k.hdr ∧ u.mem = s.mem) ∧
      (h.opc = 5 → h.tag / 2 ^ 14 ≠ 1 → h.tag / 2 ^ 14 ≠ 2 → takes (.errCplPacket ing vc) fun u => u.fab.cpl = some k.hdr ∧ u.mem = s.mem) ∧
      (h.opc = 5 → h.tag / 2 ^ 14 = 1 → Healthy s (bits h.tag 8 6) → takes (.errCplPacket ing vc) fun u =>
        Faulted s u (bits h.tag 8 6) { FInfo.dev 0x14 h.status ([word h.src, 0] ++ lohi a ++ [word (h.opa % 32), word h.status])
          with tile := some (h.tag % 256) }) ∧
      (h.opc = 6 → plain → sync (.saddPacket ing vc) (old + dword h.opa)) ∧
      (h.opc = 7 → plain → sync (.ssetPacket ing vc) (dword h.opa)) ∧
      (h.opc = 8 → plain → sync (.scasPacket ing vc) (if old = dword h.opa then dword h.opb else old)) ∧
      (h.opc = 9 → one (64 * h.len) → whole (64 * h.len) → s.svcAt p a = .mem → h.tag ≠ shadowTag p → takes (.msgPacket ing vc) fun u => Wrote s u a k.payload)) ∧
    (h.opc = 10 → h.npre ≤ o.cnt → s.ordHeld h.src h.fi = false → ∃ u, exec (.nullPacket ing vc) s = .next u ∧ u.queueOf ing vc = r ∧
      (u.ordOf h.src).cur = (o.cur + 1) % 65536 ∧ u.mem = s.mem ∧ u.parts = s.parts)

/-- On an UP port that may send packets, in a tick after which no flit of an earlier service packet has still to be sent,
with BULK not yet passed over three times, the ready packet of the first channel in the order RSP, SIG, CMD, BULK
starts: it leaves its egress queue, its flits take the next service sequence numbers and join the replay buffer, and it
debits a credit for each flit. A packet for another device moves from its ingress queue to the egress queue of the port
that the table of its generation names, unchanged but for HOPS, one less; HOPS 0 drops and counts it. A flagged packet,
the first of its interval, whose NPRE its source's count does not reach waits in the Vestibule and changes no memory. A
flagged packet that has waited 60,000 t is dropped at VESTIBULE_TIMEOUT, counted, answered with status 6, and the
intervals up to its own close. (09_scheduled_fabric.md R261, 09_scheduled_fabric.md R273, 09_scheduled_fabric.md R279,
09_scheduled_fabric.md R286, 09_scheduled_fabric.md R287, 09_scheduled_fabric.md R288, 10_link_layer.md R302) -/
def Obligations.ServicePacketRouting : Prop :=
  ∀ (s : State) (n vc : Nat),
    let v := s.port n
    let rank := fun c : Nat => if c = 1 then 0 else if c = 3 then 1 else if c = 0 then 2 else 3
    (∀ k, v.st = .up → s.quiet n = false → (s.startPos n).isSome = true → v.tx.bulkPass < 3 → vc < 4 → s.vcReady n vc = some k →
      (∀ w, w < 4 → rank w < rank vc → s.vcReady n w = none) →
      ∃ u, exec (.servicePacketEgress n) s = .next u ∧
        SMap.get [] (u.port n).tx.egress vc = (SMap.get [] v.tx.egress vc).drop 1 ∧ (u.port n).tx.ssnNew = v.tx.ssnNew + k.data.length + 1 ∧
        SMap.get 0 (u.port n).tx.crUsed vc = SMap.get 0 v.tx.crUsed vc + k.data.length + 1 ∧
        (u.port n).tx.replay.map (fun f => f.flit) = v.tx.replay.map (fun f => f.flit) ++ k.hdr :: k.data ∧ u = { s with ports := u.ports }) ∧
    (∀ k r, SMap.get [] v.rx.ingress vc = k :: r → n < 16 →
      let h := Hdr.dec k.hdr
      h.dst ≠ s.me → ¬ (vc = 3 ∧ s.vestFull = true) → ∀ e, s.routeEntry h.gen h.dst = some e → bit e 4 = true → bits e 0 4 < s.nPorts →
      (s.port (bits e 0 4)).efence = false → (s.port (bits e 0 4)).lfence = false → (s.port (bits e 0 4)).st = .up →
      (h.hops ≠ 0 → ∃ u q, exec (.servicePacketForward n vc) s = .next u ∧ SMap.get [] (u.port n).rx.ingress vc = r ∧
        SMap.get [] (u.port (bits e 0 4)).tx.egress vc = SMap.get [] (s.port (bits e 0 4)).tx.egress vc ++ [q] ∧
        Hdr.dec q.hdr = { h with hops := h.hops - 1 } ∧ q.data = k.data ∧ u = { s with ports := u.ports }) ∧
      (h.hops = 0 → ∃ u, exec (.servicePacketForward n vc) s = .next u ∧ SMap.get [] (u.port n).rx.ingress vc = r ∧
        SMap.get 0 u.fab.ctr FabCtr.hopDrop.idx = min (2 ^ 32 - 1) (SMap.get 0 s.fab.ctr FabCtr.hopDrop.idx + 1) ∧ u.mem = s.mem)) ∧
    (∀ ing k r, Arrives s ing vc k r → (Hdr.dec k.hdr).opc = 9 → (Hdr.dec k.hdr).ord = true → (s.ordOf (Hdr.dec k.hdr).src).cnt < (Hdr.dec k.hdr).npre →
      s.vestFull = false → s.ordHeld (Hdr.dec k.hdr).src (Hdr.dec k.hdr).fi = false → s.svcRoom (Hdr.dec k.hdr).part (Hdr.dec k.hdr).addr (64 * k.data.length) = true →
      ∃ u e, exec (.msgPacket ing vc) s = .next u ∧ u.queueOf ing vc = r ∧ (u.ordOf (Hdr.dec k.hdr).src).vest = [e] ∧ e.pkt = k ∧
        e.since = s.mnt.up ∧ u.mem = s.mem ∧ u.parts = s.parts) ∧
    (∀ src e, (s.ordOf src).vest = [e] → (s.ordOf src).tally = [] → e.since + 60000 ≤ s.mnt.up → (Hdr.dec e.pkt.hdr).opc = 9 →
      (Hdr.dec e.pkt.hdr).vc = 3 → (s.part (Hdr.dec e.pkt.hdr).part).sh.role = 0 →
      ∃ u, exec (.vestibuleTimeout src) s = .next u ∧ (u.ordOf src).vest = [] ∧ (u.ordOf src).cur = (e.fi + 1) % 65536 ∧
        SMap.get 0 u.fab.ctr FabCtr.vestTmo.idx = min (2 ^ 32 - 1) (SMap.get 0 s.fab.ctr FabCtr.vestTmo.idx + 1) ∧ u.mem = s.mem ∧
        Answers s u (Hdr.dec e.pkt.hdr).src fun q => (Hdr.dec q.hdr).opc = 5 ∧ (Hdr.dec q.hdr).status = 6)

/-- LAUNCH_ARM_RECEIVE from the parent, with a LID not yet seen, on a partition whose plan can hold it: the partition is
armed with the arm's LID, T and root, the arm goes to each child, and a leaf, or a device whose check fails, acks its
parent with the check's status. LAUNCH_ACK_RECEIVE on a ready root with one child: status 0 confirms the launch and
sends a confirm on every plan link; another status is kept as the failure and nothing is confirmed.
LAUNCH_CONFIRM_RECEIVE on an armed device, 20,000 t before T or more, confirms and is passed on by every other plan
link. LAUNCH_CONFIRM_DEADLINE marks an unconfirmed root late. LAUNCH_CUTOFF abandons an arm without confirm and answers
the root's LAUNCH with 0x0B. LAUNCH_FIRE at T makes the plan run from T, resets its tiles' course and beat counts, and
answers LAUNCH with status 0; on the lead of a serving plan it places the empty manifest of step 0, and otherwise writes
no memory. (08_clocks_and_mantel_time.md R248, 08_clocks_and_mantel_time.md R249, 08_clocks_and_mantel_time.md R250,
08_clocks_and_mantel_time.md R251, 08_clocks_and_mantel_time.md Table 8.13, 16_host_interface.md R461) -/
def Obligations.LaunchProtocol : Prop :=
  ∀ (s : State) (n : Nat),
    (∀ m v, (s.port n).hear 3 = some (m, v) → bits m.body.toNat 12 4 = 0 → n < s.nPorts →
      let x := LMsg.of m.body
      let p := x.part
      let l := (s.part p).launch
      let arm : LMsg := { x with typ := 0, status := 0, orig := 0 }
      (x.typ = 0 → (s.part p).ltRoot = false → (s.part p).ltParent = n → l.seenArm ≠ some x.lid → l.seenConf ≠ some x.lid →
        (s.part p).plan.isSome = true → (s.part p).run.spent = false → (s.part p).running = false →
        ∃ u, exec (.launchArmReceive n) s = .next u ∧ (u.part p).launch.st = .armed ∧ (u.part p).launch.lid = x.lid ∧
          (u.part p).launch.t = x.t ∧ (u.part p).launch.root = x.root ∧ (u.part p).launch.parent = some n ∧
          (u.part p).launch.seenArm = some x.lid ∧ ((u.part p).launch.ready = true ↔ s.armCheck p arm = 0) ∧
          (∀ c ∈ (s.part p).children, c < s.nPorts → Tells u c arm.body) ∧
          ((s.part p).children = [] ∨ s.armCheck p arm ≠ 0 → (u.part p).launch.acked = true ∧
            ∃ b, Tells u n b ∧ (LMsg.of b).typ = 1 ∧ (LMsg.of b).status = s.armCheck p arm ∧ (LMsg.of b).lid = x.lid) ∧ u.mem = s.mem) ∧
      (x.typ = 1 → l.lid = x.lid → l.st = .armed → l.acked = false → (s.part p).children = [n] → (n, x.lid) ∉ l.acksIn → l.ready = true →
        l.parent = none → l.cancelled = false → l.late = false → l.fail = none → l.confSent = false →
        (x.status = 0 → ∀ pl, (s.part p).plan = some pl → s.now ≤ (s.part p).confirmBy →
          ∃ u, exec (.launchAckReceive n) s = .next u ∧ (u.part p).launch.st = .confirmed ∧ (u.part p).launch.confSent = true ∧
            ∀ j ∈ pl.linkPorts, j < s.nPorts → Tells u j (l.msg p 2 0 0).body) ∧
        (x.status ≠ 0 → ∃ u, exec (.launchAckReceive n) s = .next u ∧ (u.part p).launch.st = .armed ∧
          (u.part p).launch.fail = some (x.status, x.orig))) ∧
      (x.typ = 2 → l.seenConf ≠ some x.lid → l.st = .armed → l.lid = x.lid → s.now + 20000 ≤ l.t → ∀ pl, (s.part p).plan = some pl →
        ∃ u, exec (.launchConfirmReceive n) s = .next u ∧ (u.part p).launch.st = .confirmed ∧ (u.part p).launch.seenConf = some x.lid ∧
          ∀ j ∈ pl.linkPorts, j ≠ n → j < s.nPorts → Tells u j x.body)) ∧
    (∀ p,
      let l := (s.part p).launch
      (l.st = .armed → l.parent = none → l.confSent = false → (s.part p).confirmBy ≤ s.now →
        ∃ u, exec (.launchConfirmDeadline p) s = .next u ∧ (u.part p).launch = { l with late := true } ∧ u = { s with parts := u.parts }) ∧
      (l.unarmed = none → l.st = .armed → l.t ≤ s.now + 20000 → ∃ u, exec (.launchCutoff p) s = .next u ∧
        (u.part p).launch.st = .abandoned ∧ (∀ r, l.reply = some r → Replied s u r 0x0B (notConfirmed l.cancelled l.fail)) ∧
        u.mem = s.mem ∧ u.tiles = s.tiles) ∧
      (l.st = .confirmed → l.t ≤ s.now → ∃ u, exec (.launchFire p) s = .next u ∧ (u.part p).launch.st = .running ∧ (u.part p).run.t0 = l.t ∧
        (u.part p).run.course = 0 ∧ (u.part p).run.halted = false ∧ (∀ t ∈ s.tilesOf p, (u.tile t).tim.course = 0 ∧ (u.tile t).tim.beat = 0) ∧
        (∀ r, l.reply = some r → Replied s u r 0 [0]) ∧
        ((∀ pl d, (s.part p).plan = some pl → pl.serv = some d → d.lead ≠ s.me) →
          u.mem = s.mem ∧ ∀ t, t ∉ s.tilesOf p → u.tile t = s.tile t) ∧
        (∀ pl d, (s.part p).plan = some pl → pl.serv = some d → d.lead = s.me → d.mtile < 256 →
          Wrote s u (loftAddr d.mtile 0xE0000) (emptyManifest (leastShape pl.shapes)).bytes)))

/-- A sweep that is due on a stack with none in progress, whose reads meet no error, starts: it is the stack's sweep, marked
started, its records gathered from the manifest, the page lists and the queries, and memory is unchanged. An engine
whose load exceeds the window raises fault 0x0C and no record will be written. SWEEP_COMPLETE by the deadline, once no
engine can still be busy, writes every record, the last written where two overlap, changes no other byte, and counts the
sweep and its page pairs; before that it does nothing. SWEEP_DEADLINE ends a finished sweep in silence, writes the
records of one whose engines have finished by the deadline or whose plan blocks kept to BPMAX, and halts the partition
of any other with fault 0x0D, whose record names the engines not finished and the plan blocks. (When an engine can still
be busy is the model's count of its load, its lost beats and its refresh windows, log entry 45.)
(07_bank_side_attention.md R202, 07_bank_side_attention.md R205, 07_bank_side_attention.md R206,
07_bank_side_attention.md R213, 07_bank_side_attention.md R215, 07_bank_side_attention.md R217,
07_bank_side_attention.md R221) -/
def Obligations.Sweeps : Prop :=
  ∀ (s : State) (k : Nat),
    let v := s.stack k
    (∀ p w c ts r, s.sweepsDue k = (p, w, c, ts) :: r → (v.sweep = none ∨ ∃ x, v.sweep = some x ∧ (x.fin = true ∨ x.stopped = true)) →
      (s.sweepWork p w).miss = 0 → (s.sweepWork p w).bad = none → (s.sweepWork p w).soft = [] →
      ((∀ e ∈ (s.sweepWork p w).loads, e.2 ≤ w.win) → ∃ u x, exec (.sweepStart k) s = .next u ∧ (u.stack k).sweep = some x ∧ x.ent = w ∧ x.part = p ∧
        x.ts = ts ∧ x.fin = false ∧ x.stopped = (s.part p).run.held ∧ x.recs = (if (s.part p).run.held then [] else (s.sweepWork p w).recs) ∧
        (u.stack k).started = v.started ++ [(c, w.sid)] ∧ u.mem = s.mem ∧ u.parts = s.parts ∧ (∀ j, j ≠ k → u.stack j = s.stack j)) ∧
      (∀ e, (s.sweepWork p w).loads.find? (fun e => decide (w.win < e.2)) = some e → Healthy s p → ∃ u, exec (.sweepStart k) s = .next u ∧
        (∃ x, (u.stack k).sweep = some x ∧ x.recs = [] ∧ x.stopped = true) ∧ Faulted s u p (FInfo.dev 0x0C 0 [word k, word w.sid, word e.1, word e.2, word w.win]))) ∧
    (∀ w, v.sweep = some w → w.fin = false → w.stopped = false →
      let written := fun (u : State) => ∀ x, u.rdByte x = match w.recs.reverse.find? (fun e => decide (e.1 ≤ x ∧ x < e.1 + e.2.length)) with
        | some e => e.2.getD (x - e.1) 0
        | none => s.rdByte x
      let counted := fun (u : State) =>
        SMap.get 0 (u.stack k).ctr StackCtr.swpDone.idx = min (2 ^ 48 - 1) (SMap.get 0 v.ctr StackCtr.swpDone.idx + 1) ∧
        SMap.get 0 (u.stack k).ctr StackCtr.swpPairs.idx = min (2 ^ 48 - 1) (SMap.get 0 v.ctr StackCtr.swpPairs.idx + w.pairs) ∧
        u.parts = s.parts ∧ u.ports = s.ports ∧ ∀ j, j ≠ k → u.stack j = s.stack j
      let good := w.mostBlks ≤ w.ent.bpmax ∨ w.busyEngines (s.sweepEnd w) = 0
      (s.now ≤ s.sweepEnd w → w.busyEngines s.now = 0 → ∃ u, exec (.sweepComplete k) s = .next u ∧ written u ∧ counted u ∧
        ∃ y, (u.stack k).sweep = some y ∧ y.fin = true) ∧
      (0 < w.busyEngines s.now → exec (.sweepComplete k) s = .next s) ∧
      (s.sweepEnd w ≤ s.now → good → ∃ u, exec (.sweepDeadline k) s = .next u ∧ written u ∧ counted u ∧ (u.stack k).sweep = none) ∧
      (s.sweepEnd w ≤ s.now → ¬ good → Healthy s w.part → ∃ u, exec (.sweepDeadline k) s = .next u ∧ (u.stack k).sweep = none ∧
        Faulted s u w.part (FInfo.dev 0x0D 0 [word k, word w.ent.sid, word (w.busyEngines (s.sweepEnd w)), word w.mostBlks]))) ∧
    (∀ w, v.sweep = some w → w.fin = true → s.sweepEnd w ≤ s.now → ∃ u, exec (.sweepDeadline k) s = .next u ∧ (u.stack k).sweep = none ∧
      u = { s with stks := u.stks })

/-- STEP_COMMIT at C_k of a live serving plan takes the register writes that wait and marks the step committed; on the lead,
with no error in the half of the step area, a result that fails its check halts the partition with fault 0x17, and
checked results make a composition due. A decode entry whose token neither stops nor exhausts its request moves POS and
GEN by 1 and keeps the token as LAST. STEP_COMPOSE leaves the manifest of step k + 1, with no more tokens and entries
than one of the plan's shapes admits and MISS when no shape meets the least target, in the manifest tile's Loft.
MANIFEST_READ opens in every step, step 0 too, the shape that a manifest of that step names; a header of another step or
shape raises fault 0x16, and on a member slot 0 without the tag of the step's landing fault 0x03. OUTPUT_RING_COPY
copies the next piece of the queue into the host's ring, moves WP, writes it at WPADDR and, where no error lies in the
queue's Marl, sets vector 1 of the function. (12_serving_engine.md R354, 12_serving_engine.md R362, 12_serving_engine.md
R365, 12_serving_engine.md R369, 12_serving_engine.md R379, 12_serving_engine.md R380, 12_serving_engine.md R387) -/
def Obligations.ServingSteps : Prop :=
  ∀ (s : State) (p : Nat),
    let v := s.part p
    let k := v.run.step
    (∀ c, v.commitAt = some c → v.live = true → c ≤ s.now → v.serv.committed ≤ k →
      (s.isLead p = false → ∃ u, exec (.stepCommit p) s = .next u ∧ (u.part p).serv.pend = [] ∧ (u.part p).serv.committed = k + 1 ∧
        u = { s with parts := u.parts } ∧ ∀ j, j ≠ p → u.part j = s.part j) ∧
      (s.isLead p = true →
        let es := (v.serv.cur.map (·.ents)).getD []
        let base := v.serv.stepBase.toNat + 0x100000 * (k % 2)
        let rs := (s.resultsOf base es).1
        Sound s base 0x100000 →
        (∀ x, rs.find? (fun x => decide (resultCheck k x.ent x.sum x.toks ≠ 0)) = some x → Healthy s p →
          ∃ u f, exec (.stepCommit p) s = .next u ∧ f.cls = 0x17 ∧ Faulted s u p f) ∧
        ((∀ x ∈ rs, resultCheck k x.ent x.sum x.toks = 0) → ∃ u, exec (.stepCommit p) s = .next u ∧ (u.part p).serv.compose = some c ∧
          (u.part p).serv.committed = k + 1 ∧ (u.part p).serv.pend = [] ∧ (u.part p).serv.seqAt = v.serv.aseq ∧
          SMap.get 0 (u.part p).serv.ctr ServCtr.steps.idx = min (2 ^ 48 - 1) (SMap.get 0 v.serv.ctr ServCtr.steps.idx + 1) ∧
          (∀ e t tok lp r, rs = [e] → e.toks = [t] → tok = bits t 0 32 → lp = bits t 32 16 → e.ent.kind = 0 → r = s.record e.ent.rcd → r.state = 3 →
            v.serv.cancels = [] → r.endPend = none → (∀ j, j < 4 → SMap.get 0 r.img (24 + j) ≠ word tok) →
            (r.maxnew = 0xFFFFFFFF ∨ r.gen + 1 ≠ r.maxnew) → e.ent.p0 + 1 < 0xFFFFFF00 → sumAcc e.sum = 0 →
            u.record e.ent.rcd = { r with pos := e.ent.p0 + 1, gen := r.gen + 1, last := word tok, outs := r.outs ++ toLE 4 tok ++ toLE 2 lp })))) ∧
    (∀ tick pl d, v.serv.compose = some tick → v.plan = some pl → pl.serv = some d → v.live = true → pl.shapes ≠ [] →
      ∃ u man, exec (.stepCompose p) s = .next u ∧ (u.part p).serv.next = some man ∧ (u.part p).serv.compose = none ∧ man.step = k + 1 ∧
        u.rd (loftAddr d.mtile 0xE0000) 65536 = man.bytes ∧ (∃ h ∈ pl.shapes, man.ntok ≤ h.tb ∧ man.ents.length ≤ h.maxent) ∧
        (man.miss = true ↔ ∃ t, s.tmin p = some t ∧ ∀ h ∈ pl.shapes, t < h.dur)) ∧
    (∀ pl d, v.plan = some pl → pl.serv = some d → s.manDue p d = true →
      let w := s.landView d.mtile
      let hd := w.rd (w.manifestAt p d) 16
      let i := bits (natAt hd 8 4) 0 4
      let tagged := w.isLead p = true ∨ (SMap.get 0 (w.tile d.mtile).tags 0).toNat = headTag k
      (∀ h, tagged → natAt hd 0 8 = k → i ≤ d.shm1 → pl.shapes[i]? = some h →
        ∃ u, exec (.manifestRead p) s = .next u ∧ (u.part p).run.shape = i ∧ (u.part p).run.manRead = true ∧
          (u.part p).run.inst = (w.part p).run.inst ++ pl.shapeCourses h ((w.part p).run.head + 1) (w.part p).run.base ∧ u.mem = w.mem) ∧
      (tagged → (natAt hd 0 8 ≠ k ∨ d.shm1 < i) → (w.part p).run.step = k → Healthy w p →
        ∃ u f, exec (.manifestRead p) s = .next u ∧ f.cls = 0x16 ∧ Faulted w u p f) ∧
      (¬ tagged → Healthy w p → ∃ u f, exec (.manifestRead p) s = .next u ∧ f.cls = 0x03 ∧ Faulted w u p f)) ∧
    (∀ hp,
      let o := v.serv.out hp
      let size := v.serv.ringSize hp
      let n := o.pieceLen
      hp < 2 → n ≠ 0 → n ≤ (o.rp + 2 * size - o.wp - 1) % size → (s.hport hp).up = true →
      ∃ u, exec (.outputRingCopy p hp) s = .next u ∧ ((u.part p).serv.out hp).copied = o.copied + n ∧
        ((u.part p).serv.out hp).wp = (o.wp + n) % size ∧ u.hostRd o.wpAddr.toNat 8 = toLE 8 ((o.wp + n) % size) ∧
        (Sound s o.oqBase.toNat oqSize →
          (u.fn hp (p + 1)).irqStat = (s.fn hp (p + 1)).irqStat ||| 2 ∧ u.mem = s.mem ∧
          (o.wp % size + n ≤ size → (o.wpAddr.toNat + 8 ≤ o.ringBase.toNat ∨ o.ringBase.toNat + size ≤ o.wpAddr.toNat) → ∀ i, i < n →
            SMap.get 0 u.cmd.host (o.ringBase.toNat + o.wp % size + i) = s.rdByte (o.oqBase.toNat + (o.copied + i) % oqSize))))

/-- A member that is not halted and moves no pages takes a message that is no confirmation into its orders and carries out
the oldest: FREE leaves every directory entry of the request zero and no page pair held; ALLOC whose lists and units are
found leaves the request with as many page pairs as its argument needs, but waits while a list that it would grow is in
use. On the live lead with order room the first request that needs an extension and can have one gets a target and, on
first allocation, its first engines, and every member is ordered ALLOC with the next sequence number; where none needs
one, no allocation waits. PROMOTE orders the first paused and demoted request back, if units suffice. A confirmation
takes its order off the unconfirmed: of ALLOC it raises the request's capacity, and of FREE by the only member it makes
a draining request whose last output is written done, with a valid result digest. (12_serving_engine.md R359,
12_serving_engine.md R370, 12_serving_engine.md R371, 12_serving_engine.md R372, 12_serving_engine.md R374,
12_serving_engine.md R377, 15_determinism_and_audit.md R436) -/
def Obligations.PantryOrders : Prop :=
  ∀ (s : State) (p : Nat) (pl : Plan) (d : ServDesc), (s.part p).plan = some pl → pl.serv = some d →
    let v := s.part p
    let ms := s.members p
    let ordered := fun (u : State) (op rcd arg : Nat) (e0 : DWord) => (u.part p).serv.unconf = v.serv.unconf ++
      ms.map (fun m => (m, ({ op := op, rcd := rcd, arg := arg, oseq := v.serv.oseq, stat := 0, e0 := e0 } : Order))) ∧
      (u.part p).serv.oseq = (v.serv.oseq + 1) % 2 ^ 32
    (∀ o r, v.run.halted = false → v.serv.job = none → ((s.takeOrder p).part p).serv.orders = o :: r →
      let w0 := (s.takeOrder p).modServ p fun x => { x with orders := r, pagIn := [] }
      (o.op = 2 → ∃ u, exec (.pantryOrderReceive p) s = .next u ∧ (u.part p).serv.orders = r ∧ SMap.get 0 (u.part p).serv.npairs o.rcd = 0 ∧
        (∀ g ∈ d.groups, u.rdW (d.dirAt (d.stk g.1) o.rcd g.2.1 g.2.2) = 0) ∧ ∀ kv ∈ (u.part p).serv.used, kv.2 ≠ o.rcd + 1) ∧
      (o.op = 1 → (s.takeOrder p).growWaits p d o = false → ∀ w, w0.allocTo p o.rcd d o.e0 (ceilDiv o.arg 64) = some w →
        ∃ u, exec (.pantryOrderReceive p) s = .next u ∧ (u.part p).serv.orders = r ∧
          SMap.get 0 (u.part p).serv.npairs o.rcd = max (SMap.get 0 v.serv.npairs o.rcd) (ceilDiv o.arg 64) ∧ u.mem = w.mem) ∧
      (o.op = 1 → (s.takeOrder p).growWaits p d o = true → exec (.pantryOrderReceive p) s = .next (s.takeOrder p))) ∧
    (∀ m o r, v.serv.inbox = (m, o) :: r → o.op ≠ 8 → ((s.takeOrder p).part p).serv.orders = v.serv.orders ++ [o] ∧
      ((s.takeOrder p).part p).serv.inbox = r) ∧
    (s.isLead p = true → v.live = true → s.orderRoom p = true →
      let next := s.firstExtend p pl d (s.ordered p fun r => decide (1 ≤ r.state ∧ r.state ≤ 3))
      (next = none → ∃ u, exec (.pantryAllocExtend p) s = .next u ∧ (u.part p).serv.allocWait = false ∧ (u.part p).serv.unconf = v.serv.unconf ∧ u.recs = s.recs) ∧
      (∀ rcd tgt e0, next = some (rcd, .go tgt e0) → ∃ u, exec (.pantryAllocExtend p) s = .next u ∧ (u.record rcd).want = tgt ∧
        (u.record rcd).e0 = some e0 ∧ (∀ j, j ≠ rcd → u.record j = s.record j) ∧ ordered u 1 rcd tgt e0 ∧ u.mem = s.mem) ∧
      (∀ rcd, (s.ordered p fun r => decide (r.state = 4) && decide (r.res = 1)).head? = some rcd →
        (s.canPromote p rcd d = false → exec (.pantryPromote p) s = .next s) ∧
        (s.canPromote p rcd d = true → ∃ u, exec (.pantryPromote p) s = .next u ∧ (u.record rcd).res = 2 ∧ (u.record rcd).promoting = true ∧
          ordered u 4 rcd 0 0 ∧ u.mem = s.mem))) ∧
    (∀ m c r x, v.serv.inbox = (m, c) :: r → c.op = 8 → v.serv.unconf.find? (fun x => decide (x.1 = m ∧ x.2.oseq = c.oseq ∧ x.2.rcd = c.rcd)) = some x → ms = [m] →
      (x.2.op = 1 → c.stat = 0 → (s.record c.rcd).state ≠ 5 → ∃ u, exec (.pantryConfirmReceive p) s = .next u ∧ (u.part p).serv.inbox = r ∧
        (u.part p).serv.unconf = v.serv.unconf.erase x ∧ (u.record c.rcd).cap = max x.2.arg (SMap.get 0 (s.record c.rcd).caps m) ∧
        (∀ j, j ≠ c.rcd → u.record j = s.record j)) ∧
      (x.2.op = 2 → (s.record c.rcd).state = 5 → (s.record c.rcd).lastOut = true → ∃ u, exec (.pantryConfirmReceive p) s = .next u ∧
        (u.part p).serv.unconf = v.serv.unconf.erase x ∧ (u.record c.rcd).state = 6 ∧ (u.resDig c.rcd).valid = true ∧
        (u.resDig c.rcd).gen = (s.record c.rcd).gen ∧ (u.resDig c.rcd).otdig = digest256 (s.record c.rcd).outs ∧ u.mem = s.mem))

/-- WD_DESCRIPTOR_ARRIVAL in a ring area whose descriptor names this device begins a distribution at its chain position; one
that the member refuses is reported. With one distribution: WD_STREAM_FORWARD sends 1 KiB of the ring to the successor,
and counts it. WD_PIECE_CONVERT passes over a piece of another shard without a write, and takes a whole one-piece layer
of its own shard: the converted bytes are written to the layer's staging areas, and the layer is verified at the
distribution's generation or failed by its digest. WD_DTMO_TIMEOUT ends a silent distribution and reports status 2, and
reports status 3 of a successor that no longer acknowledges. WD_REPORT_RECEIVE of a chain of one answers the command
with 0x00 or 0x0D, and WD_HEAD_TIMEOUT answers 0x0D with the number of missing reports. (14_weight_intake_and_swap.md
R410, 14_weight_intake_and_swap.md R411, 14_weight_intake_and_swap.md R416, 14_weight_intake_and_swap.md R417,
14_weight_intake_and_swap.md R419, 14_weight_intake_and_swap.md R420, 14_weight_intake_and_swap.md Table 14.7,
16_host_interface.md R465) -/
def Obligations.WeightDistribution : Prop :=
  ∀ (s : State) (p : Nat), (s.part p).sh.role = 0 →
    let w := (s.part p).wts
    (∀ ring r pos,
      let desc := s.rd (ring + 0x100000) 0x4040
      let d0 := Dist.start ring 0 s.mnt.up desc false none
      w.ringIn = ring :: r → Sound s (ring + 0x100000) 0x4040 → (List.range d0.npos).find? (fun i => decide (d0.dev i = s.me)) = some pos →
      ∃ u d, exec (.wdDescriptorArrival p) s = .next u ∧ (u.part p).wts.ringIn = r ∧ d ∈ (u.part p).wts.dists ∧ d.ring = ring ∧ d.pos = pos ∧
        d.desc = desc ∧ d.arrw = (s.rdW (ring + 8)).toNat ∧ d.conv = 0x4000 ∧ (d.refused = true → d.reported = true) ∧ u.mem = s.mem) ∧
    (∀ d, w.dists = [d] →
      (d.canForward = true → d.head = false → d.reported = false → ∃ u e, exec (.wdStreamForward p) s = .next u ∧ (u.part p).wts.dists = [e] ∧
        e.fwd = d.fwd + 1024 ∧ e.conv = d.conv ∧ e.ring = d.ring ∧
        SMap.get 0 (u.part p).serv.ctr ServCtr.wdFwd.idx = min (2 ^ 48 - 1) (SMap.get 0 (s.part p).serv.ctr ServCtr.wdFwd.idx + 1024) ∧
        (Sound s (ringAt d.ring d.fwd) 1024 → u.mem = s.mem ∧
          Sends s u 2 d.succ fun q => (Hdr.dec q.hdr).opc = 1 ∧ q.payload = s.rd (ringAt d.ring d.fwd) 1024)) ∧
      (d.canConvert = true → d.head = false → d.refused = false → d.reported = false → d.hasDesc = true → d.poff ≠ 0 → d.piece + 1 < d.npiece →
        let x := d.pieceAt d.piece
        let n := min (d.avail - d.conv) (d.poff + x.padded - d.conv)
        let src := ((List.range (x.padded / 1024)).flatMap fun i => s.rd (ringAt d.ring (d.conv + 1024 * i)) 1024).take x.slen
        (x.shard ≠ d.shard → x.shard ≠ 0xFFF → ∃ u e, exec (.wdPieceConvert p) s = .next u ∧ (u.part p).wts.dists = [e] ∧ e.conv = d.conv + n ∧ u.mem = s.mem) ∧
        (∀ bs v, x.shard = d.shard → d.mode = 1 → x.lend = true → d.conv = d.poff → d.cur = [] → d.src = [] → d.failed = [] → d.skipped = [] →
          d.conv + x.padded ≤ d.avail → Sound s (d.ring + 0x100000) (2 ^ 26) → s.dev.crcBad = [] → s.holds p d x = false → x.conv.run src = some bs → s.wrAreas (s.targetAreas p d x) x.toff bs = some v →
          ∃ u e, exec (.wdPieceConvert p) s = .next u ∧ (u.part p).wts.dists = [e] ∧ e.conv = d.conv + x.padded ∧ u.mem = v.mem ∧
            (digest256 src = x.wdig → ((u.part p).wts.layer x.layer).sstate = 2 ∧ ((u.part p).wts.layer x.layer).sgen = d.gen ∧
              ((u.part p).wts.layer x.layer).sdig = x.wdig) ∧
            (digest256 src ≠ x.wdig → ((u.part p).wts.layer x.layer).sstate = 3 ∧ e.failed = [x.key]))) ∧
      (d.reported = false → d.head = false → (d.total.any fun t => decide (t ≤ d.arrw)) = false → d.arrAt + d.dtmo ≤ s.mnt.up →
        ∃ u, exec (.wdDtmoTimeout p) s = .next u ∧ (u.part p).wts.dists = [] ∧ Signals s u (d.dev 0) 1 2 ∧ u.mem = s.mem) ∧
      (d.reported = false → d.head = true → d.last = false → d.lost = false → d.ackw < d.fwd → d.ackAt + d.dtmo ≤ s.mnt.up →
        ∃ u e, exec (.wdDtmoTimeout p) s = .next u ∧ (u.part p).wts.dists = [e] ∧ e.lost = true ∧ e.reported = true ∧ Signals s u (d.dev 0) 1 3) ∧
      (∀ ws r c, s.cmd.waits = [] → s.dev.crcBad = [] → d.head = true → d.mode ≠ 2 → d.reply = some c →
        (w.repIn = ws :: r → d.npos = 1 → fld (wd ws 0) 0 16 = d.did → fld (wd ws 0) 16 12 = 0 → ∃ u, exec (.wdReportReceive p) s = .next u ∧
          (u.part p).wts.repIn = r ∧ (u.part p).wts.dists = [] ∧
          Replied s u c (if fld (wd ws 1) 0 4 = 0 then 0 else 0x0D) [0, word (if fld (wd ws 1) 0 4 = 0 then 0 else 1)]) ∧
        (∀ t, d.lastAt = some t → t + d.dtmo ≤ s.mnt.up → d.reports = [] → ∃ u, exec (.wdHeadTimeout p) s = .next u ∧
          (u.part p).wts.dists = [] ∧ Replied s u c 0x0D [word d.npos, 0])))

/-- A query from the lead is answered with the member's status. A schedule on a member with a running plan sets the
generation and step of its swap. On the lead a confirmation of the generation in state barrier is kept as ready, and one
with an error fails the swap, answering the command with 0x0D. A layer whose rewrite is due begins to copy on every
stack that the weight map gives it; one not due does not. The last stack's copy writes the layer's live rows with its
staged bytes and no other byte, makes the layer valid at its staged generation and digest, and counts it; a copy waits
while its stack sweeps; an uncorrectable staged sector halts the partition with fault 0x0B and leaves the layer torn.
(14_weight_intake_and_swap.md R421, 14_weight_intake_and_swap.md R422, 14_weight_intake_and_swap.md R424,
14_weight_intake_and_swap.md R427, 14_weight_intake_and_swap.md Table 14.3) -/
def Obligations.WeightReplacement : Prop :=
  ∀ (s : State) (p : Nat) (m : WMap), s.wmapOf p = some m → (s.part p).sh.role = 0 →
    let w := (s.part p).wts
    (∀ ws r, w.ordIn = ws :: r → (s.part p).run.halted = false →
      (∀ d, s.servDesc p = some d → fld (wd ws 0) 0 4 = 1 → ∃ u, exec (.wswapOrderReceive p) s = .next u ∧ (u.part p).wts.ordIn = r ∧
        Signals s u d.lead 4 (word (s.swapStatus p (fld (wd ws 1) 0 16))) ∧ u.mem = s.mem ∧ (u.part p).wts.tab = w.tab) ∧
      (fld (wd ws 0) 0 4 = 2 → (s.part p).running = true → ∃ u, exec (.wswapOrderReceive p) s = .next u ∧ (u.part p).wts.ordIn = r ∧
        (u.part p).wts.mgen = fld (wd ws 1) 0 16 ∧ (u.part p).wts.mstep = wd64 ws 2 ∧ (u.part p).wts.begun = [] ∧ u.mem = s.mem)) ∧
    (∀ i ws r, w.confIn = (i, ws) :: r → fld (wd ws 0) 0 4 = 8 → fld (wd ws 1) 0 16 = w.gnew → w.swst = 1 →
      (fld (wd ws 4) 0 4 = 0 → ∃ u, exec (.wswapConfirmReceive p) s = .next u ∧ (u.part p).wts.confIn = r ∧ i ∈ (u.part p).wts.ready ∧
        (∀ j ∈ w.ready, j ∈ (u.part p).wts.ready) ∧ (u.part p).wts.swst = 1 ∧ u = { s with parts := u.parts }) ∧
      (fld (wd ws 4) 0 4 ≠ 0 → ∃ u, exec (.wswapConfirmReceive p) s = .next u ∧ (u.part p).wts.swst = 4 ∧
        ∀ c, w.reply = some c → Replied s u c 0x0D [word (fld (wd ws 4) 0 4), word i])) ∧
    (∀ l,
      let s1 := s.stepAdvance p
      (l ∈ m.layers → (s1.part p).rewriteDue l s.now = true → ∃ u c, exec (.weightRewriteStart p l) s = .next u ∧
        (u.part p).wts.copies = (s1.part p).wts.copies ++ [c] ∧ c.layer = l ∧ c.start = s.now ∧ c.torn = false ∧
        c.stks = (m.ents.filter fun e => decide (e.layer = l)).map (·.stack) ∧ (u.part p).wts.begun = (s1.part p).wts.begun ++ [l] ∧ u.mem = s.mem) ∧
      ((s1.part p).rewriteDue l s.now = false → exec (.weightRewriteStart p l) s = .next s1)) ∧
    (∀ c e k, w.copies = [c] → c.stks = [k] → c.torn = false → m.ents.find? (fun e => decide (e.layer = c.layer ∧ e.stack = k)) = some e →
      ((s.stack k).sweeping = true → exec (.rowCopyDone p c.layer k .clean) s = .next s) ∧
      ((s.stack k).sweeping = false →
        (s.badIn e.stage (16384 * e.len) = none → ∃ u, exec (.rowCopyDone p c.layer k .clean) s = .next u ∧
          Wrote s u e.live (s.rd e.stage (16384 * e.len)) ∧ (u.part p).wts.copies = [] ∧
          ((u.part p).wts.layer c.layer) = { lgen := (w.layer c.layer).sgen, lstate := 1, sgen := 0, sstate := 0, ldig := (w.layer c.layer).sdig,
                                             sdig := (w.layer c.layer).sdig } ∧
          SMap.get 0 (u.part p).serv.ctr ServCtr.wrwLayers.idx = min (2 ^ 32 - 1) (SMap.get 0 (s.part p).serv.ctr ServCtr.wrwLayers.idx + 1)) ∧
        (∀ f, Healthy s p → ∃ u, exec (.rowCopyDone p c.layer k (.uncorrectable f)) s = .next u ∧
          SMap.get [] (u.part p).flt.log ((s.part p).flt.wp % 256) =
            s.recordWords p 0 (s.part p).launch.lid (FInfo.dev 0x0B 2 (marlFields (e.stage + 32 * f % (16384 * e.len)))) ∧
          (u.part p).run.halted = true ∧ (∀ x, (x < e.live ∨ e.live + 16384 * e.len ≤ x) → u.rdByte x = s.rdByte x) ∧
          ((u.part p).wts.layer c.layer).lstate = 2 ∧ (u.part p).wts.copies = [])))

/-- LAYER_DIGEST_CLOSE of a step that is over moves to the next step, clears the partials of that step on the partition's
tiles and with the log enabled adds its records. TWIN_RECORD_RECEIVE, with no record overwritten, takes the record, and
compares and drops two step records of one step. FAULT_NOTICE_RECEIVE of the running job halts the partition with a
relay record (ROLE 2). HALT_REPORT_SEND sends the first record to the root, which counts its own; HALT_REPORT_RECEIVE
counts one of the summary's LID. HANG_RECORD_COLLECT keeps the record of a halt. SELF_TEST_RUN counts a pass, and on
failure takes a spare of the Loft or retires the tile. SHADOW_DIGEST_RECEIVE takes the partner's digest,
SHADOW_PROMOTE_REQUEST_RECEIVE acknowledges on a live W, SHADOW_ACK_RECEIVE in time counts, and SHADOW_ROLE_SWITCH
promotes an acknowledged, verified S, and answers 0x62 without the acknowledgement. (15_determinism_and_audit.md R440,
15_determinism_and_audit.md R443, 18_faults_and_recovery.md R503, 18_faults_and_recovery.md R504,
18_faults_and_recovery.md R505, 18_faults_and_recovery.md R508, 18_faults_and_recovery.md R509,
18_faults_and_recovery.md R514, 18_faults_and_recovery.md R515) -/
def Obligations.AuditRecovery : Prop :=
  ∀ (s : State) (p : Nat),
    let v := s.part p
    (let s1 := s.stepAdvance p
     let k := (s1.part p).aud.closed
     (s1.part p).closeDue s.now = true → ∃ u, exec (.layerDigestClose p) s = .next u ∧ (u.part p).aud.closed = k + 1 ∧ k ∉ (u.part p).aud.wev ∧
       (∀ t ∈ s.tilesOf p, ∀ l, l < 4096 → SMap.get 0 (u.tile t).digSum (digKey k l) = 0 ∧ SMap.get 0 (u.tile t).digCnt (digKey k l) = 0) ∧
       ((s1.part p).aud.en = true → (u.part p).aud.wp = ((s1.part p).aud.wp + (s1.closeRecords p k).length) % 2 ^ 32)) ∧
    (∀ i x y, v.aud.peerIn = [y] → v.aud.own = [(i, x)] → v.aud.peer = [] → v.aud.lostOwn = [] → x.kind = 2 → y.kind = 2 → x.step = y.step →
      ∃ u, exec (.twinRecordReceive p) s = .next u ∧ (u.part p).aud.peerIn = [] ∧ (u.part p).aud.own = [] ∧ (u.part p).aud.peer = [] ∧
        (u.part p).aud.rcvd = v.aud.rcvd + 1 ∧ SMap.get 0 (u.part p).serv.ctr ServCtr.twMandiff.idx =
          (if x.dig = y.dig then SMap.get 0 v.serv.ctr ServCtr.twMandiff.idx else min (2 ^ 32 - 1) (SMap.get 0 v.serv.ctr ServCtr.twMandiff.idx + 1))) ∧
    (∀ n r, v.flt.notes = n :: r → v.running = true → n.lid = v.launch.lid → v.run.halted = false → ∃ u, exec (.faultNoticeReceive p) s = .next u ∧
      (u.part p).flt.notes = r ∧ (u.part p).run.halted = true ∧ (u.part p).flt.held = some n ∧
      SMap.get [] (u.part p).flt.log (v.flt.wp % 256) = s.recordWords p 2 v.launch.lid (FInfo.dev n.cls 0 (word n.origin :: lohi n.tick)) ∧ u.mem = s.mem) ∧
    (∀ ws pl, v.flt.first = some ws → v.plan = some pl → v.run.halted = true → v.flt.reported = false → ws.length = 16 → v.sh.role = 0 →
      ∃ u, exec (.haltReportSend p) s = .next u ∧ (u.part p).flt.reported = true ∧ u.mem = s.mem ∧
        (v.launch.root = s.me → fld (wd ws 1) 16 16 = v.flt.sum.lid → (u.part p).flt.sum = v.flt.sum.take ws) ∧
        (1 < pl.ndev → v.launch.root ≠ s.me → Sends s u 3 v.launch.root fun q => (Hdr.dec q.hdr).opc = 9 ∧ q.payload = wordsToBytes ws)) ∧
    (∀ ws r, v.flt.repIn = ws :: r → ∃ u, exec (.haltReportReceive p) s = .next u ∧ (u.part p).flt.repIn = r ∧
      (u.part p).flt.sum = (if fld (wd ws 1) 16 16 = v.flt.sum.lid then v.flt.sum.take ws else v.flt.sum) ∧ u = { s with parts := u.parts }) ∧
    ((v.flt.hangDue = true → ∃ u, exec (.hangRecordCollect p) s = .next u ∧ (u.part p).flt.hang = some (s.hangRecord p) ∧
      (u.part p).flt.hangDue = false ∧ u.mem = s.mem) ∧ (v.flt.hangDue = false → exec (.hangRecordCollect p) s = .next s)) ∧
    (∀ kind idx, ({ kind := kind, idx := idx } : SelfTest) ∈ s.dev.tests → s.testTime kind idx = true →
      (∃ u, exec (.selfTestRun kind idx true) s = .next u ∧ ({ kind := kind, idx := idx } : SelfTest) ∉ u.dev.tests ∧ u.hrt = s.hrt ∧
        SMap.get 0 u.dev.ctr DevCtr.stPass.idx = min (2 ^ 48 - 1) (SMap.get 0 s.dev.ctr DevCtr.stPass.idx + 1)) ∧
      (kind = 0 → SMap.get 0 s.dev.spares (idx / 128) < 4 → ∃ u, exec (.selfTestRun kind idx false) s = .next u ∧ u.hrt = s.hrt ∧
        SMap.get 0 u.dev.spares (idx / 128) = SMap.get 0 s.dev.spares (idx / 128) + 1) ∧
      (kind = 5 → s.hrt.retired.length < 256 → ∃ u, exec (.selfTestRun kind idx false) s = .next u ∧ (0, s.physTile idx) ∈ u.hrt.retired)) ∧
    (∀ d r, v.sh.otherIn = d :: r → ∃ u, exec (.shadowDigestReceive p) s = .next u ∧ (u.part p).sh.otherIn = r ∧ u.mem = s.mem ∧
      (v.sh.role = 0 → (u.part p).sh.other = v.sh.other) ∧
      (v.sh.role ≠ 0 → (∀ x ∈ v.sh.own, x.1 ≠ d.1) → d ∈ (u.part p).sh.other)) ∧
    (∀ k r, v.sh.reqIn = k :: r → v.sh.role = 4 → v.live = true → ∃ u, exec (.shadowPromoteRequestReceive p) s = .next u ∧ (u.part p).sh.reqIn = r ∧
      (u.part p).sh.promote = some (k, none) ∧ (u.part p).sh.acked = true ∧ Signals s u v.sh.peer 1 (word k) ∧ u.mem = s.mem) ∧
    (∀ k r c, v.sh.ackIn = k :: r → v.sh.promote = some (k, c) → v.ackInTime s.now k = true → ∃ u, exec (.shadowAckReceive p) s = .next u ∧
      (u.part p).sh.ackIn = r ∧ (u.part p).sh.acked = true ∧ u = { s with parts := u.parts }) ∧
    (∀ k c, v.sh.promote = some (k, some c) → v.switchDue s.now k = true → v.sh.role ≠ 4 → s.cmd.waits = [] →
      (v.sh.acked = true → v.sh.verified = true → ∃ u, exec (.shadowRoleSwitch p) s = .next u ∧ (u.part p).sh.role = 3 ∧ (u.part p).sh.promote = none ∧
        (∀ d, (SMap.get OrdDst.reset u.fab.dst d).sent = false) ∧ Replied s u c 0 []) ∧
      (v.sh.acked = false → ∃ u, exec (.shadowRoleSwitch p) s = .next u ∧ (u.part p).sh.role = v.sh.role ∧ (u.part p).sh.promote = none ∧
        Replied s u c 0x62 [] ∧ u.mem = s.mem))

/-- Power-on of VDD_AUX resets tiles, partitions, fabric and power state, keeps the firmware floor of the fuses and applies
a pending lifecycle. PWR_OK starts bring-up. On a device out of reset, PWR_OK deasserted records cause 1 (5 after
OFF_REQ#), a rail fault cause 2 with its rail and SYS_FAULT#, a thermal trip cause 3 with its source and THERMTRIP#, and
each holds the device in reset with stage 0. OFF_REQUEST_TIMEOUT is noted 1 s after OFF_REQ#. The recovery ROM's reset
keeps memory (the model's choice, as in the log entry on resets) and restarts at stage 3. Each stage that may end raises
STAGE by one with its effect: Hearth's verification, ports out of PERST#, the stacks and channels found, a Cellar of no
population of Table 6.8 disabled, FULL, the Mantel count from 0, TRACK. PERST# asserted resets the functions of its port
and leaves the other port; deasserted it samples the strap. A telemetry update 1 ms after the last one writes the
readings. (19_startup_and_grades.md R517, 19_startup_and_grades.md R518, 19_startup_and_grades.md R520,
19_startup_and_grades.md R521, 19_startup_and_grades.md R531, 20_package_and_electrical.md R538,
20_package_and_electrical.md R539, 20_package_and_electrical.md R540, 20_package_and_electrical.md R545,
17_partitions_and_security.md R480) -/
def Obligations.BringupAndResets : Prop :=
  ∀ (s : State),
    (∃ u, exec .vddAuxPowerOnReset s = .next u ∧ u.pwr = Pwr.reset ∧ u.tiles = [] ∧ u.parts = [] ∧ u.mem = [] ∧ u.fab = Fab.reset ∧
      u.mnt = Mnt.reset ∧ u.hrt.svnFloor = s.hrt.svnFloor ∧ u.hrt.lc = (if s.hrt.pend = 0 then s.hrt.lc else s.hrt.pend) ∧ u.pending = s.pending) ∧
    (s.pwr.pwrOk = false → exec .powerGood s = .next { s with pwr := { s.pwr with pwrOk := true, inReset := false } }) ∧
    (s.pwr.pwrOk = true → s.pwr.inReset = false → s.mnt.up ≠ 0 →
      let held : State → Prop := fun u => u.pwr.inReset = true ∧ u.pwr.stage = 0 ∧ u.pwr.twarn = s.pwr.twarn ∧ u.tiles = [] ∧ u.parts = [] ∧ u.mem = [] ∧
        u.hrt.svnFloor = s.hrt.svnFloor ∧ u.pending = s.pending
      (∃ u, exec .pwrOkDeassert s = .next u ∧ held u ∧ u.pwr.pwrOk = false ∧ u.pwr.sysFault = false ∧
        u.pwr.rst = word (if s.pwr.offReq = true ∧ s.pwr.offAt ≠ s.mnt.up then 5 else 1)) ∧
      (∀ r, 1 ≤ r → r ≤ 7 → ∃ u, exec (.railFault r) s = .next u ∧ held u ∧ u.pwr.sysFault = true ∧ u.pwr.rst = word (2 + r * 2 ^ 4)) ∧
      (∀ c k, c < 4 → k < 8 → ∃ u, exec (.thermalTrip c k) s = .next u ∧ held u ∧ u.pwr.thermtrip = true ∧
        u.pwr.rst = word (3 + (c * 2 ^ 8 + if c = 3 then k * 2 ^ 10 else 0)))) ∧
    (s.pwr.pwrOk = true → s.pwr.offReq = true → s.pwr.offAt + 1000000000 ≤ s.mnt.up →
      exec .offRequestTimeout s = .next { s with pwr := { s.pwr with offLate := true } }) ∧
    (∀ t, s.cmd.romReset = some t → t ≤ s.mnt.up → s.hrt.pend ≠ 3 → ∃ u, exec .recoveryRomReset s = .next u ∧ u.mem = s.mem ∧
      u.pwr.stage = 2 ∧ u.pwr.inReset = false ∧ u.tiles = [] ∧ u.parts = [] ∧ u.hrt.image = s.hrt.image ∧ u.mnt.active = s.mnt.active) ∧
    (∀ r, s.stageMayEnd = true → s.pwr.rerun = none → ∃ u, exec (.bringupStageDone r) s = .next u ∧ u.mem = s.mem ∧ u.tiles = s.tiles ∧
      u.parts = s.parts ∧
      (s.pwr.stage = 0 ∨ s.pwr.stage = 1 ∨ s.pwr.stage = 3 → u = { s with pwr := { s.pwr with stage := s.pwr.stage + 1 } }) ∧
      (s.pwr.stage = 2 → r.hearthKat = false → u.hrt.cause = 5 ∧ u.pwr.inReset = true ∧ u.pwr.stage = 2) ∧
      (s.pwr.stage = 2 → r.hearthKat = true → u.pwr.stage = 3 ∧ (s.hrt.imageOk = false → u.hrt.recov = true ∧ u.hrt.cause = 1) ∧
        (s.hrt.imageOk = true → u.hrt.recov = decide (fwStatus s.hrt.image s.hrt.svnFloor ≠ 0) ∧
          (fwStatus s.hrt.image s.hrt.svnFloor = 0 → u.hrt.cause = 0 ∧ u.hrt.svnRun = imageSvn s.hrt.image))) ∧
      (s.pwr.stage = 4 → u.pwr.stage = 5 ∧ ∀ hp, hp < 2 → u.hport hp =
        if (s.hport hp).perst then s.hport hp
        else { s.hport hp with up := true, vfs := if s.hrt.recov then 0 else min 64 (if hp = 0 then r.vfs0 else r.vfs1) }) ∧
      (s.pwr.stage = 5 → u.pwr.stage = 6 ∧ (u.pwr.chpop, u.pwr.dsz) = cellarCfg r.chpop r.dsz ∧
        ∀ k, k ∈ u.pwr.trained ↔ k < s.nStacks ∧ (2, s.physStack k) ∉ s.hrt.retired ∧ k ∉ r.failedStacks) ∧
      (s.pwr.stage = 6 → u.pwr.stage = 7 ∧ u.pwr.full = !s.hrt.red) ∧
      (s.pwr.stage = 7 → u.pwr.stage = 8 ∧ u.mnt.run = true ∧ u.mnt.now = 0 ∧ u.pwr.rsvc = s.hrt.red ∧ (s.hrt.red = true → u.pwr.state = 1)) ∧
      (s.pwr.stage = 8 → s.enabledPorts ≠ [] → (∀ n ∈ s.enabledPorts, (s.port n).st = .up ∨ (s.port n).st = .down) → u.pwr.stage = 9) ∧
      (s.pwr.stage = 9 → s.mnt.td = .track → u.pwr.stage = 10)) ∧
    (∀ hp, hp < 2 →
      (∃ u, exec (.perstAssert hp) s = .next u ∧ u.hport hp = { HostPort.reset with perst := true, x8 := (s.hport hp).x8 } ∧
        (∀ n, n < 65 → u.fn hp n = Fn.reset) ∧ (∀ w ∈ u.cmd.waits, w.ref.hp ≠ hp) ∧ u.hport (1 - hp) = s.hport (1 - hp) ∧
        (∀ n, n < 65 → u.fn (1 - hp) n = s.fn (1 - hp) n) ∧ u.mem = s.mem ∧ u.tiles = s.tiles) ∧
      (∀ x, (s.hport hp).perst = true → ∃ u, exec (.perstDeassert hp x) s = .next u ∧
        u.hport hp = { s.hport hp with perst := false, x8 := x, up := decide (5 ≤ s.pwr.stage) && !s.pwr.inReset } ∧
        u = { s with cmd := { s.cmd with ports := u.cmd.ports } })) ∧
    (∀ c a b ks m1 m2, s.pwr.telAt + 1000000 ≤ s.mnt.up → ∃ u, exec (.telemetryUpdate c a b ks m1 m2) s = .next u ∧
      u.pwr.tCore = c ∧ u.pwr.tPorchA = a ∧ u.pwr.tPorchB = b ∧ u.pwr.avg1ms = m1 ∧ u.pwr.avg1s = m2 ∧ u.pwr.telAt = s.mnt.up ∧
      (105 < c → s.pwr.twarn < 2 ^ 32 - 1 → u.pwr.twarn = s.pwr.twarn + 1) ∧
      (∀ k x, ks[k]? = some x → k < s.nStacks → (u.stack k).temp = x) ∧ u.mem = s.mem ∧ u.tiles = s.tiles)

/-- A write of a whole packet of 3 to 64 words into a slot submits it on its port and leaves the slot zero; with 256
commands outstanding it is discarded and OVF is set. NOP is answered 0x00; a packet whose length is not the command's
0x02 with word 0, bit 16; an undefined code 0x01 with word 0, bit 0. REPLY_RING_WRITE, with the ring enabled, not full
and the port up, writes the 64 B of the oldest reply at its place and no other host byte, advances WP, turns the phase
at the end of the ring, and sets vector 0 where IRQ = 1; with the ring full or off it does nothing. An aperture write to
memory of the function where no error lies writes those bytes and no others, a read returns the bytes; an access to
memory of another partition returns zeros, writes nothing, and is counted. CMD_RRING_CFG enables the ring from WP = RP =
0, phase 1, and is ignored while EN = 1; RP and AP_BASE take their value. (16_host_interface.md R451,
16_host_interface.md R452, 16_host_interface.md R454, 16_host_interface.md R455, 16_host_interface.md R456,
16_host_interface.md R469, 16_host_interface.md R470, 16_host_interface.md R473, 16_host_interface.md R474,
16_host_interface.md Table 16.5) -/
def Obligations.HostTransport : Prop :=
  ∀ (s : State) (hp fn : Nat), s.fnUp hp fn = true →
    let f := s.fn hp fn
    (∀ slot (ws : List Word), slot < 256 → 3 ≤ ws.length → ws.length ≤ 64 → fld (wd ws 0) 16 16 = ws.length →
      ∃ t, exec (.commandSlotWrite hp fn (256 * slot) (wordsToBytes ws)) s = .next t ∧ t = { s with cmd := t.cmd } ∧
        (∀ i, i < 64 → SMap.get 0 (t.fn hp fn).slots (64 * slot + i) = 0) ∧ (t.fn hp fn).held = f.held ∧
        ((s.hport hp).outst < 256 → (t.hport hp).outst = (s.hport hp).outst + 1 ∧
          (t.hport hp).q = (s.hport hp).q ++ [{ fn := fn, words := ws, badLen := false }]) ∧
        (256 ≤ (s.hport hp).outst → t.hport hp = s.hport hp ∧ (t.fn hp fn).ovf = true)) ∧
    (∀ k u, s.front = some (k, u) →
      (u.formBad k nopForm [] = none → k.opc = 1 → ∃ t, exec .nop s = .next t ∧ OnlyReply s t k 0 []) ∧
      (k.opc = 1 → k.bad = true ∨ k.ws.length ≠ 3 → ∃ t, exec .nop s = .next t ∧ OnlyReply s t k 0x02 [word (16 * 2 ^ 8)]) ∧
      (k.opc ∉ opcodes → k.bad = false → ∃ t, exec .undefinedCommand s = .next t ∧ OnlyReply s t k 0x01 [0])) ∧
    (f.en = false ∨ f.full = true → exec (.replyRingWrite hp fn) s = .next s) ∧
    (∀ r l, f.held = r :: l → f.en = true → f.full = false → ∃ t, exec (.replyRingWrite hp fn) s = .next t ∧ t = { s with cmd := t.cmd } ∧
      let n := (f.wp + 1) % 2 ^ f.rsz
      (t.fn hp fn).held = l ∧ (t.fn hp fn).wp = n ∧ (t.fn hp fn).phase = (if n = 0 then !f.phase else f.phase) ∧
      (t.hport hp).outst = (s.hport hp).outst - 1 ∧ (t.fn hp fn).irqStat = (if r.irq then f.irqStat ||| 1 else f.irqStat) ∧
      (r.words f.phase).length = 16 ∧
      ∀ a, SMap.get 0 t.cmd.host a =
        if f.base.toNat + 64 * f.wp ≤ a ∧ a < f.base.toNat + 64 * f.wp + 64 then
          (wordsToBytes (r.words f.phase)).getD (a - (f.base.toNat + 64 * f.wp)) 0
        else SMap.get 0 s.cmd.host a) ∧
    (∀ off n bs, f.apBase.toNat + off < 2 ^ 48 → n = bs.length → (f.apBase.toNat + off) % 2 ^ 20 + n ≤ 2 ^ 20 →
      let a := f.apBase.toNat + off
      (s.hostAt fn a = .mem → (∀ x ∈ s.dev.bad ++ s.dev.crcBad, x + 256 ≤ a ∨ a + n + 256 ≤ x) →
        (∃ t, exec (.hostApertureAccess hp fn off n (some bs)) s = .next t ∧ Wrote s t a bs) ∧
        (∃ t, exec (.hostApertureAccess hp fn off n none) s = .next t ∧ t.cmd.rd = s.rd a n ∧ t.mem = s.mem ∧ t.parts = s.parts ∧
          t.tiles = s.tiles)) ∧
      (s.hostAt fn a = .denied → ∃ t w, exec (.hostApertureAccess hp fn off n none) s = .next t ∧ t.cmd.rd = zeros n ∧ t.mem = s.mem ∧
        exec (.hostApertureAccess hp fn off n (some bs)) s = .next w ∧ w.mem = s.mem ∧ w.tiles = s.tiles ∧
        t.cmd.apViol = min (2 ^ 32 - 1) (s.cmd.apViol + 1) ∧ w.cmd.apViol = min (2 ^ 32 - 1) (s.cmd.apViol + 1))) ∧
    (∀ v : BitVec 32,
      (f.en = true → flag v 31 = true → ∃ t, exec (.cmdRringCfgWrite hp fn v) s = .next t ∧ t.fn hp fn = f) ∧
      (f.en = false → flag v 31 = true → 9 ≤ fld v 0 5 → fld v 0 5 ≤ 16 → ∃ t, exec (.cmdRringCfgWrite hp fn v) s = .next t ∧
        t.fn hp fn = { f with rsz := fld v 0 5, en := true, wp := 0, rp := 0, phase := true } ∧ t = { s with cmd := t.cmd }) ∧
      (v.toNat < 2 ^ f.rsz → ∃ t, exec (.cmdRringRpWrite hp fn v) s = .next t ∧ t.fn hp fn = { f with rp := v.toNat } ∧
        t = { s with cmd := t.cmd })) ∧
    (∀ v : BitVec 64, ∃ t, exec (.cmdApBaseWrite hp fn v) s = .next t ∧
      t.fn hp fn = { f with apBase := dword (bits v.toNat 30 18 * 2 ^ 30) } ∧ t = { s with cmd := t.cmd })

/-- Each command whose packet is next and passes every check has its effect. DMA_COPY queues the copy (an unowned range is
answered 0x0A, word 6); DMA_COPY_DONE writes the host's bytes and no others, or writes the host's memory from the range,
and answers 0x00. PLAN_LOAD answers the first failing check of the image, or begins the load and discards the plan
loaded before; PLAN_LOAD_DONE holds the plan, writes its initial blocks and words, starts each tile at its entry, and
answers. PLAN_UNLOAD leaves the partition without a plan; with one running it is answered 0x07. LAUNCH arms the root and
sends the arm to each child; LAUNCH_CANCEL marks an unconfirmed launch, and without one is answered 0x07. PAUSE and
RESUME keep their tick, and RESUME_RESTART moves the plan's times by the length of the pause. CTX_RESET halts a running
plan with fault 0x1D, and CONTEXT_RESET_DONE leaves the partition's tiles fresh, its plan spent, its waits ended, its
page lists empty, the other partitions as they were, and memory too where it had no lists. SYNC_WAIT waits, or answers a
word that is satisfied already; its time-out answers 0x0C; SYNC_OP, with no update due before it and no error at the
word, updates the word and answers the prior value. (16_host_interface.md R459, 16_host_interface.md R460,
16_host_interface.md R461, 16_host_interface.md R462, 16_host_interface.md R463, 16_host_interface.md R467,
02_plan_contract.md R74, 18_faults_and_recovery.md R506, 16_host_interface.md Table 16.7, 18_faults_and_recovery.md
Table 18.6) -/
def Obligations.PlanCommands : Prop :=
  ∀ (s : State),
    (∀ k u, Takes s u k 0x02 dmaForm → k.dma.haddr % 256 = 0 → k.dma.laddr % 256 = 0 → 0 < k.dma.nu → k.dma.nu ≤ 0x01000000 →
      (u.dmaOk k.part k.dma.laddr (256 * k.dma.nu) = true → ∃ t, exec .dmaCopy s = .next t ∧ t = { u with cmd := { u.cmd with dma := t.cmd.dma } } ∧
        SMap.get [] t.cmd.dma k.ref.hp = SMap.get [] s.cmd.dma k.ref.hp ++ [k.dma]) ∧
      (u.dmaOk k.part k.dma.laddr (256 * k.dma.nu) = false → ∃ t, exec .dmaCopy s = .next t ∧ OnlyReply s t k 0x0A [6])) ∧
    (∀ hp d r, SMap.get [] s.cmd.dma hp = d :: r → (∀ i, i < d.nu → s.svcAt d.ref.part (d.laddr + 256 * i) = .mem) →
      (∀ x ∈ s.dev.bad ++ s.dev.crcBad, x + 256 ≤ d.laddr ∨ d.laddr + 256 * d.nu + 256 ≤ x) →
      (d.toHost = false → s.cmd.waits = [] → ∃ t, exec (.dmaCopyDone hp .clean) s = .next t ∧ Replied s t d.ref 0 [] ∧
        Wrote s t d.laddr (s.hostRd d.haddr (256 * d.nu)) ∧ SMap.get [] t.cmd.dma hp = r) ∧
      (d.toHost = true → ∃ t, exec (.dmaCopyDone hp .clean) s = .next t ∧ Replied s t d.ref 0 [] ∧ t.mem = s.mem ∧ t.parts = s.parts ∧
        t.tiles = s.tiles ∧
          t.hostRd d.haddr (256 * d.nu) = s.rd d.laddr (256 * d.nu) ∧ SMap.get [] t.cmd.dma hp = r)) ∧
    (∀ k u, Takes s u k 0x03 planLoadForm → k.iaddr % 256 = 0 → 0 < k.isize → k.isize ≤ 256 * 0x04000000 → u.ownedMarl k.part k.iaddr k.isize = true →
      (s.part k.part).running = false → (s.part k.part).flt.resetting = false → s.loadingIn k.part = false →
      (∀ st res, u.loadOutcome k.part k.iaddr k.isize = .inl (st, res) → ∃ t, exec .planLoad s = .next t ∧ OnlyReply s t k st res) ∧
      (∀ pl, u.loadOutcome k.part k.iaddr k.isize = .inr pl → ∃ t, exec .planLoad s = .next t ∧ (t.part k.part).plan = none ∧
        t.cmd.loads = s.cmd.loads ++ [{ ref := k.ref, part := k.part, plan := pl }] ∧ t.mem = s.mem ∧
        ∀ q, q ≠ k.part → t.part q = s.part q)) ∧
    (∀ p x, s.cmd.loads.find? (fun x => decide (x.part = p)) = some x → ∃ t, exec (.planLoadDone p) s = .next t ∧
      (t.part p).plan = some x.plan ∧ (t.part p).run = Run.reset ∧ t.cmd.loads = s.cmd.loads.filter (fun y => decide (y.part ≠ p)) ∧
      ((x.plan.tiles.map (·.tile)).Nodup → ∀ e ∈ x.plan.tiles, (t.tile e.tile).fe = { FrontEnd.reset with on := true, pc := e.entry }) ∧
      (s.cmd.waits = [] → Replied s t x.ref 0 []) ∧
      (∀ b, x.plan.init = [b] → x.plan.sync = [] → x.plan.rafterWords = [] → Wrote s t b.addr b.data) ∧
      (∀ w, x.plan.init = [] → x.plan.sync = [w] → x.plan.rafterWords = [] → Wrote s t w.1 (toLE 8 w.2.toNat)) ∧
      (x.plan.init = [] → x.plan.sync = [] → ∀ a ∈ x.plan.rafterWords, t.rdW a = 0)) ∧
    (∀ k u, Takes s u k 0x04 planUnloadForm → (s.part k.part).flt.resetting = false → s.loadingIn k.part = false →
      ((s.part k.part).running = false → ∃ t, exec .planUnload s = .next t ∧ Replied s t k.ref 0 [] ∧ (t.part k.part).plan = none ∧
        (t.part k.part).run = Run.reset ∧ (∀ n ∈ s.tilesOf k.part, (t.tile n).fe = FrontEnd.reset) ∧ t.mem = s.mem) ∧
      ((s.part k.part).running = true → ∃ t, exec .planUnload s = .next t ∧ OnlyReply s t k 0x07 [])) ∧
    (∀ k u pl, Takes s u k 0x05 launchForm → (s.part k.part).plan = some pl → s.now + 20000 + pl.f ≤ k.w64 3 → (s.part k.part).ltRoot = true →
      (s.part k.part).launch.pending = false → (s.part k.part).launch.seenConf ≠ some (k.lid 5) → (s.part k.part).run.spent = false →
      (s.part k.part).running = false → u.powerBad k.part = false → u.armCheck k.part (u.armOf k) = 0 → (s.part k.part).children ≠ [] →
      ∃ t, exec .launch s = .next t ∧ (t.part k.part).launch.st = .armed ∧ (t.part k.part).launch.lid = k.lid 5 ∧
        (t.part k.part).launch.t = k.w64 3 ∧ (t.part k.part).launch.reply = some k.ref ∧ (t.part k.part).launch.parent = none ∧
        (∀ c ∈ (s.part k.part).children, c < s.nPorts → Tells t c (u.armOf k).body) ∧ t.mem = s.mem) ∧
    (∀ k u, Takes s u k 0x06 launchCancelForm →
      let l := (s.part k.part).launch
      (l.st = .armed → l.parent = none → l.reply.isSome = true → l.lid = k.lid 3 → l.confSent = false → ∃ t, exec .launchCancel s = .next t ∧
        Replied s t k.ref 0 [] ∧ (t.part k.part).launch = { l with cancelled := true } ∧ t.mem = s.mem ∧ t.tiles = s.tiles) ∧
      (l.lid ≠ k.lid 3 → l.unarmed = none → ∃ t, exec .launchCancel s = .next t ∧ OnlyReply s t k 0x07 [])) ∧
    (∀ k u, Takes s u k 0x07 pauseForm → s.now + 20000 ≤ k.w64 3 → (s.part k.part).run.pause = none → (s.part k.part).run.paused = none →
      ((s.part k.part).running = true → (s.part k.part).run.halted = false → ∃ t, exec .pause s = .next t ∧
        t = { u with parts := t.parts } ∧ t.part k.part =
          { s.part k.part with run := { (s.part k.part).run with pause := some (k.w64 3, k.ref) } }) ∧
      ((s.part k.part).running = false → ∃ t, exec .pause s = .next t ∧ OnlyReply s t k 0x07 [])) ∧
    (∀ k u c, Takes s u k 0x08 pauseForm → s.now + 20000 ≤ k.w64 3 → (s.part k.part).pausePoint ≤ k.w64 3 → (s.part k.part).run.paused = some c →
      (s.part k.part).run.resume = none → s.mnt.td = .track → u.powerBad k.part = false → ∃ t, exec .resume s = .next t ∧
        t = { u with parts := t.parts } ∧ t.part k.part =
          { s.part k.part with run := { (s.part k.part).run with resume := some (k.w64 3, k.ref) } }) ∧
    (∀ p r ref, (s.part p).run.resume = some (r, ref) →
      (s.now < r → exec (.resumeRestart p) s = .next s) ∧
      (r ≤ s.now → ∃ t, exec (.resumeRestart p) s = .next t ∧ Replied s t ref 0 [] ∧ (t.part p).run.paused = none ∧ (t.part p).run.resume = none ∧
        (t.part p).run.t0 = (s.part p).run.t0 + (r - (s.part p).pausePoint) ∧ (t.part p).plan = (s.part p).plan ∧ t.mem = s.mem ∧ t.tiles = s.tiles)) ∧
    (∀ k u, Takes s u k 0x09 ctxForm → (s.part k.part).flt.resetting = false →
      ((s.part k.part).running = false → ∃ t, exec .ctxReset s = .next t ∧ t.cmd.resets = s.cmd.resets ++ [(k.part, k.ref)] ∧
        t.part k.part = { s.part k.part with flt := { (s.part k.part).flt with resetting := true } } ∧ t.mem = s.mem ∧ t.tiles = s.tiles) ∧
      ((s.part k.part).running = true → (s.part k.part).run.halted = false → ∃ t, exec .ctxReset s = .next t ∧
        t.cmd.resets = s.cmd.resets ++ [(k.part, k.ref)] ∧ (t.part k.part).flt.resetting = true ∧
        Faulted u t k.part (FInfo.dev 0x1D 0 []))) ∧
    (∀ p ref, (s.part p).flt.resetting = true → (s.part p).flt.hangDue = false → s.cmd.resets.filter (fun x => decide (x.1 = p)) = [(p, ref)] →
      ref.hp < 2 → ∃ t, exec (.contextResetDone p) s = .next t ∧ (t.part p).flt.resetting = false ∧ (t.part p).launch.st = .idle ∧
        (t.part p).run = { Run.reset with spent := (s.part p).plan.isSome } ∧ (t.part p).plan = (s.part p).plan ∧
        (∀ n ∈ s.tilesOf p, t.tile n = { (s.tile n).fresh with ctr := [] }) ∧
        ((s.part p).serv.npairs = [] → (∀ n, n ∉ s.tilesOf p → t.tile n = s.tile n) ∧ t.mem = s.mem) ∧
        (∀ d, s.servDesc p = some d → ∀ kv ∈ (s.part p).serv.npairs, ∀ g ∈ d.groups, t.rdW (d.dirAt (d.stk g.1) kv.1 g.2.1 g.2.2) = 0) ∧
        (∀ q, q ≠ p → t.part q = s.part q) ∧ (∀ h ∈ t.cmd.waits, h.ref.part ≠ p) ∧
        (t.fn ref.hp ref.fn).held.getLast? = some (answerTo s ref 0 [word (((s.part p).flt.hang.map List.length).getD 0)])) ∧
    (∀ k u, Takes s u k 0x0A syncWaitForm → k.addr3 % 8 = 0 → u.syncPlace k.part k.addr3 = true →
      ((u.waitOf k).met (s.rdW k.addr3) = true → ∃ t, exec .syncWait s = .next t ∧ OnlyReply s t k 0 (lohi (s.rdW k.addr3).toNat)) ∧
      ((u.waitOf k).met (s.rdW k.addr3) = false → exec .syncWait s = .next { u with cmd := { u.cmd with waits := u.cmd.waits ++ [u.waitOf k] } })) ∧
    (∀ (i : Nat) h t0, s.cmd.waits[i]? = some h → h.till = some t0 → t0 ≤ s.now → ∃ t, exec (.hostSyncWaitTimeout i) s = .next t ∧
      Replied s t h.ref 0x0C [] ∧ t.cmd.waits = s.cmd.waits.eraseIdx i ∧ t = { s with cmd := t.cmd }) ∧
    (∀ k u, Takes s u k 0x0B syncOpForm → k.addr3 % 8 = 0 → u.syncPlace k.part k.addr3 = true → s.cmd.waits = [] →
      u.rafterWord k.part k.addr3 = none → u.syncBehind k.addr3 = false → (∀ t off, s.region k.addr3 = .loft t off → (s.tile t).lands = []) →
      (∀ x ∈ s.dev.bad ++ s.dev.crcBad, x + 256 ≤ k.addr3 ∨ k.addr3 + 264 ≤ x) → ∃ t, exec .syncOp s = .next t ∧ Replied s t k.ref 0 (lohi (s.rdW k.addr3).toNat) ∧
        Wrote s t k.addr3 (toLE 8 (if flag (k.w 7) 0 then dword (k.w64 5) else s.rdW k.addr3 + dword (k.w64 5)).toNat))

/-- On the lead, a submit that passes its checks queues its record with the next submission count, invalidates the record's
result digest, adds 1 to the REFC of the slot that it names, writes the record's mirror and no other byte, and answers
0x00 with the count; one naming a slot that is neither loading nor ready is answered 0x07, counted, and leaves the
record as it was. A cancel of a live record is kept for the next commit, a release of a record that is done makes it
idle; in any other state they are answered 0x07. LDR_LOAD makes an empty or failed slot loading with the command's LEN,
LDR_RETIRE makes a slot retired, or empty where REFC is 0. WDIST of a descriptor in the partition's Marl, where no error
lies, begins the head's distribution. WSWAP begins a swap of the generation and orders the members to answer; during
another swap it is answered 0x08, without a weight map 0x0D (the status 3 there is the model's choice, in the log).
(12_serving_engine.md R358, 12_serving_engine.md R384, 13_sampling_and_speculation.md R399,
13_sampling_and_speculation.md R400, 13_sampling_and_speculation.md R401, 14_weight_intake_and_swap.md R409,
14_weight_intake_and_swap.md R421, 16_host_interface.md R464, 16_host_interface.md R465, 16_host_interface.md R466,
16_host_interface.md Table 16.7) -/
def Obligations.ServingCommands : Prop :=
  ∀ (s : State) (k : Pkt) (u : State),
    let p := k.part
    let v := s.part p
    (s.front = some (k, u) → k.opc = 0x10 → firstRefusal (u.submitChecks k) = none →
      (s.slotShut k = false → ∃ t, exec .srvSubmit s = .next t ∧
        let r := t.record k.rcd
        r.state = 1 ∧ r.aseq = v.serv.aseq ∧ r.tag = k.img 1 ∧ r.plen = (k.img 4).toNat ∧ r.maxnew = (k.img 5).toNat ∧ r.cls = fld (k.img 0) 3 3 ∧
        r.dcls = fld (k.img 0) 6 3 ∧ r.adpen = k.adpen ∧ r.pos = 0 ∧ r.gen = 0 ∧ (t.resDig k.rcd).valid = false ∧
        (t.part p).serv.aseq = (v.serv.aseq + 1) % 2 ^ 32 ∧
        (k.adpen = true → t.lslot k.adp = { s.lslot k.adp with refc := (s.lslot k.adp).refc + 1 }) ∧
        (∀ i, i ≠ k.rcd → t.record i = s.record i) ∧
        (s.ownedMarl p (s.mirrorAt p k.rcd) 128 = true → Wrote s t (s.mirrorAt p k.rcd) (wordsToBytes r.mirror)) ∧
        (s.ownedMarl p (s.mirrorAt p k.rcd) 128 = false → t.mem = s.mem) ∧
        (s.cmd.waits = [] → Replied s t k.ref 0 [word v.serv.aseq])) ∧
      (s.slotShut k = true → ∃ t, exec .srvSubmit s = .next t ∧ Replied s t k.ref 0x07 [] ∧ t.recs = s.recs ∧ t.larder = s.larder ∧
        t.mem = s.mem ∧ SMap.get 0 (t.part p).serv.ctr ServCtr.ldrBindRej.idx =
          min (2 ^ ServCtr.ldrBindRej.width - 1) (SMap.get 0 v.serv.ctr ServCtr.ldrBindRej.idx + 1))) ∧
    (∀ op, Takes s u k op recordForm → u.owner 4 (k.rcd / 256) = some p → s.isLead p = true →
      let st := (s.record k.rcd).state
      (op = 0x11 →
        (1 ≤ st → st ≤ 4 → ∃ t, exec .srvCancel s = .next t ∧ Replied s t k.ref 0 [] ∧ t.mem = s.mem ∧ t.recs = s.recs ∧
          (t.part p).serv = { v.serv with cancels := v.serv.cancels ++ [k.rcd] }) ∧
        (st = 0 ∨ 4 < st → ∃ t, exec .srvCancel s = .next t ∧ OnlyReply s t k 0x07 [])) ∧
      (op = 0x12 →
        (st = 6 → ∃ t, exec .srvRelease s = .next t ∧ Replied s t k.ref 0 [] ∧ t.record k.rcd = Record.reset ∧
          (∀ i, i ≠ k.rcd → t.record i = s.record i) ∧ t.mem = s.mem ∧ t.parts = s.parts) ∧
        (st ≠ 6 → ∃ t, exec .srvRelease s = .next t ∧ OnlyReply s t k 0x07 []))) ∧
    (u.owner 5 (k.slot / 16) = some p → s.isLead p = true →
      let x := s.lslot k.slot
      (Takes s u k 0x13 ldrLoadForm → fld (k.w 4) 0 24 ≠ 0 → fld (k.w 4) 0 24 ≤ s.slotUnits p →
        (x.state = 0 ∨ x.state = 3 → ∃ t, exec .ldrLoad s = .next t ∧ Replied s t k.ref 0 [] ∧ (t.lslot k.slot).state = 1 ∧
          (t.lslot k.slot).len = fld (k.w 4) 0 24 ∧ (t.lslot k.slot).refc = x.refc ∧ (t.lslot k.slot).good = false ∧
          (∀ i, i ≠ k.slot → t.lslot i = s.lslot i) ∧ t.mem = s.mem ∧ t.parts = s.parts) ∧
        (x.state ≠ 0 → x.state ≠ 3 → ∃ t, exec .ldrLoad s = .next t ∧ OnlyReply s t k 0x07 [])) ∧
      (Takes s u k 0x14 ldrRetireForm →
        (x.state ≠ 0 → x.state ≠ 4 → ∃ t, exec .ldrRetire s = .next t ∧ Replied s t k.ref 0 [] ∧
          t.lslot k.slot = (if x.refc = 0 then LSlot.reset else { x with state := 4 }) ∧ (∀ i, i ≠ k.slot → t.lslot i = s.lslot i) ∧
          t.mem = s.mem ∧ t.parts = s.parts) ∧
        (x.state = 0 ∨ x.state = 4 → ∃ t, exec .ldrRetire s = .next t ∧ OnlyReply s t k 0x07 []))) ∧
    (Takes s u k 0x15 wdistForm →
      (u.owned p k.addr3 16 = false → ∃ t, exec .wdist s = .next t ∧ OnlyReply s t k 0x0A [3]) ∧
      (u.owned p k.addr3 16 = true → u.owned p k.addr3 (s.descBytes k.addr3) = true → Sound s k.addr3 (s.descBytes k.addr3) →
        let desc := s.rd k.addr3 (s.descBytes k.addr3)
        let d := Dist.start (natAt desc 16 6) 0 s.mnt.up desc true (some k.ref)
        let e : Dist := { d with conv := pad1k d.descLen, poff := pad1k d.descLen }
        (∀ x ∈ d.pieces, x.ok d.mode = true) → d.dev 0 = s.me → u.distRefused p e = false →
        ∃ t, exec .wdist s = .next t ∧ t.mem = s.mem ∧ t.tiles = s.tiles ∧ (t.part p).wts.dists = v.wts.dists.filter (fun y => decide (y.ring ≠ e.ring)) ++ [e])) ∧
    (Takes s u k 0x16 wswapForm → k.lid 3 ≠ 0 → s.isLead p = true →
      (v.wts.swst ≠ 0 → ∃ t, exec .wswap s = .next t ∧ OnlyReply s t k 0x08 []) ∧
      (v.wts.swst = 0 → s.wmapOf p = none → ∃ t, exec .wswap s = .next t ∧ OnlyReply s t k 0x0D [3, 0]) ∧
      (∀ m, v.wts.swst = 0 → s.wmapOf p = some m → ∃ t, exec .wswap s = .next t ∧ (t.part p).wts.swst = (if v.running then 1 else 3) ∧
        (t.part p).wts.gnew = k.lid 3 ∧ (t.part p).wts.reply = some k.ref ∧ (t.part p).wts.ready = [] ∧ t.mem = s.mem ∧
        ∀ d, v.sh.role = 0 → s.members p = [s.me, d] → Signals s t d 0 (word (if v.running then 1 else 2)) ∧ Signals s t d 1 (word (k.lid 3))))

/-- A BIND that passes its checks puts every unit that is not yet as asked under clear, where it belongs to no partition,
and changes nothing but the binding table and the list of binds. BIND_CLEAR_DONE completes the oldest: a single tile's
Loft reads zero, no other byte changes and the tile is as after a clear; a Marl or Cellar region reads zero; a record
block's records are idle; a Larder block's slots are empty; the unit's entry holds the partition and BOUND, and the
command is answered 0x00 with the count of units. (17_partitions_and_security.md R476, 17_partitions_and_security.md
R477, 17_partitions_and_security.md R478, 17_partitions_and_security.md Table 17.1, 06_memory_hierarchy.md R191) -/
def Obligations.BindingAndClearing : Prop :=
  ∀ (s : State),
    (∀ k u, s.front = some (k, u) → k.opc = 0x20 → firstRefusal (u.bindChecks k) = none → ∃ t, exec .bind s = .next t ∧
      t = { u with cmd := { u.cmd with binds := t.cmd.binds }, hrt := { u.hrt with bind := t.hrt.bind } } ∧
      (∃ b, t.cmd.binds = s.cmd.binds ++ [b] ∧ b.ref = k.ref ∧ b.tpart = k.tpart ∧ b.unb = k.unb ∧
        ∀ i, (k.kind, i) ∈ b.units ↔ i ∈ k.units ∧ (k.unb = true ∨ s.owner k.kind i ≠ some k.tpart)) ∧
      ∀ i ∈ k.units, (k.unb = true ∨ s.owner k.kind i ≠ some k.tpart → t.clearing k.kind i = true ∧ t.owner k.kind i = none) ∧
        (k.unb = false → s.owner k.kind i = some k.tpart → t.owner k.kind i = some k.tpart)) ∧
    (∀ b r kind i, s.cmd.binds = b :: r → b.units = [(kind, i)] → b.tpart < 64 → ∃ t, exec .bindClearDone s = .next t ∧
      Replied s t b.ref 0 [1] ∧ t.cmd.binds = r ∧ t.bindEntry kind i = b.tpart + (if b.unb then 0 else 64) ∧
      (kind = 0 → t.tile i = (s.tile i).cleared ∧ (∀ j, j ≠ i → t.tile j = s.tile j) ∧
        ∀ x, t.rdByte x = if loftAddr i 0 ≤ x ∧ x < loftAddr i 0 + 0x100000 then 0 else s.rdByte x) ∧
      (kind = 1 → i < 384 → t.tiles = s.tiles ∧ ∀ x, t.rdByte x = if i * 2 ^ 30 ≤ x ∧ x < (i + 1) * 2 ^ 30 then 0 else s.rdByte x) ∧
      (kind = 2 → i < 128 → t.tiles = s.tiles ∧ ∀ o, o < 2 ^ 34 → t.rdByte (cellarAddr (i * 2 ^ 34 + o)) = 0) ∧
      (kind = 4 → t.mem = s.mem ∧ (∀ n, n / 256 = i → t.record n = Record.reset) ∧ ∀ n, n / 256 ≠ i → t.record n = s.record n) ∧
      (kind = 5 → t.mem = s.mem ∧ (∀ n, n / 16 = i → t.lslot n = LSlot.reset) ∧ ∀ n, n / 16 ≠ i → t.lslot n = s.lslot n))

/-- Each command whose packet is next and passes its checks: PKEY_SET keeps the key digest and ends the partition's unlock,
and is answered 0x07 with a plan loaded. ATTEST and CERT_GET write their report and certificate to host memory. DBG_CHAL
sets the challenge that it answers; DBG_UNLOCK consumes it and unlocks, or is answered the token's failure (0x44 for
another challenge); DBG_LOCK ends the unlock. DBG_PHYS answers the logical number. FW_UPDATE verifies the image before
it marks the flash as being written, and FW_FLASH_WRITE_DONE answers 0x00 with the new image or 0x47. LC_ADVANCE keeps a
permitted transition for the next reset, others are answered 0x43; SVN_COMMIT raises the floor; PWR_SET enters a state
whose condition holds, asks for power-off at P4, and is answered 0x08 otherwise. HANG_GET and RETIRE_GET write the
record and the list to host memory; SELFTEST answers its outcome and is kept as an event; SHADOW_START, SHADOW_PROMOTE
and SHADOW_STOP begin, ask for promotion, and end the pair, and are answered 0x63 on another device and 0x61 unverified.
Nonces, signatures and certificates are free values of the model. (17_partitions_and_security.md R482,
17_partitions_and_security.md R483, 17_partitions_and_security.md R484, 17_partitions_and_security.md R488,
17_partitions_and_security.md R489, 17_partitions_and_security.md R490, 17_partitions_and_security.md R493,
18_faults_and_recovery.md R505, 18_faults_and_recovery.md R508, 18_faults_and_recovery.md R509,
18_faults_and_recovery.md R514, 16_host_interface.md R468) -/
def Obligations.SecurityCommands : Prop :=
  ∀ (s : State) (k : Pkt) (u : State),
    let p := k.part
    let v := s.part p
    (Takes s u k 0x21 pkeyForm → k.pf = true →
      (s.hasPlan p = false → ∃ t, exec .pkeySet s = .next t ∧ Replied s t k.ref 0 [] ∧ t.part p = { v with pkdig := k.w256 3, dbg := false } ∧
        (∀ q, q ≠ p → t.part q = s.part q) ∧ t.hrt = s.hrt ∧ t.mem = s.mem) ∧
      (s.hasPlan p = true → ∃ t, exec .pkeySet s = .next t ∧ OnlyReply s t k 0x07 [])) ∧
    (Takes s u k 0x22 attestForm → k.w64 11 % 256 = 0 → ∃ t, exec .attest s = .next t ∧ OnlyReply s t k 0 [] ∧
      t.hostRd (k.w64 11) 3584 = s.report (if k.scope = 1 then none else some p) (k.w256 3)) ∧
    (Takes s u k 0x23 certForm → k.w64 4 % 256 = 0 → ∃ t, exec .certGet s = .next t ∧
      let c := s.cert (flag (k.w 3) 0)
      OnlyReply s t k 0 [word c.length] ∧ t.hostRd (k.w64 4) c.length = c) ∧
    (∀ level, level = fld (k.w 3) 0 1 →
      (Takes s u k 0x24 (levelForm level) → ∃ t n, exec .dbgChal s = .next t ∧ t.chal level p = some n ∧
        Replied s t k.ref 0 (bytesToWords (toLE 32 n.toNat) 8) ∧ t.mem = s.mem ∧ t.tiles = s.tiles) ∧
      (Takes s u k 0x26 (levelForm level) → ∃ t, exec .dbgLock s = .next t ∧ Replied s t k.ref 0 [] ∧ t.mem = s.mem ∧ t.tiles = s.tiles ∧
        (level = 1 → t.hrt = { s.hrt with dbgDev := false } ∧ t.parts = s.parts) ∧
        (level = 0 → t.part p = { v with dbg := false } ∧ t.hrt = s.hrt))) ∧
    (∀ tok level, tok = s.hostRd (k.w64 3) 5440 → level = fld (wordAt tok 0) 0 1 → Takes s u k 0x25 (unlockForm level) → tokenReserved tok = false →
      k.w64 3 % 256 = 0 → level = 0 ∨ s.hrt.lc ≠ 2 ∨ s.anyPlan = false → ∃ t, exec .dbgUnlock s = .next t ∧ t.chal level p = none ∧
        Replied s t k.ref (s.tokenBad tok level p) [] ∧ t.mem = s.mem ∧
        (s.chal level p ≠ some (BitVec.ofNat 256 (natAt (tok.take 64) 20 32)) → s.tokenBad tok level p = 0x44) ∧
        (s.tokenBad tok level p = 0 → (level = 1 → t.hrt.dbgDev = true) ∧ (level = 0 → (t.part p).dbg = true)) ∧
        (s.tokenBad tok level p ≠ 0 → t.hrt.dbgDev = s.hrt.dbgDev ∧ (t.part p).dbg = v.dbg)) ∧
    (∀ kind i, kind = fld (k.w 3) 0 3 → i = fld (k.w 4) 0 8 → Takes s u k 0x18 physForm → kind ≤ 4 →
      (s.hrt.dbgDev = false → ∃ t, exec .dbgPhys s = .next t ∧ OnlyReply s t k 0x06 [0]) ∧
      (s.hrt.dbgDev = true → i < physCount kind →
        (s.fused kind i = true → ∃ t, exec .dbgPhys s = .next t ∧ OnlyReply s t k 0x05 []) ∧
        (∀ n, s.fused kind i = false → s.logicalOf kind i = some n → ∃ t, exec .dbgPhys s = .next t ∧ OnlyReply s t k 0 [word n, 0]) ∧
        (s.fused kind i = false → s.logicalOf kind i = none → ∃ t, exec .dbgPhys s = .next t ∧ OnlyReply s t k 0 [0xFFFFFFFF, 1]))) ∧
    (∀ img, img = s.hostRd (k.w64 3) (256 * (k.w 5).toNat) → Takes s u k 0x27 fwForm → k.w64 3 % 256 = 0 → 22 ≤ (k.w 5).toNat →
      (k.w 5).toNat ≤ 0x20000 →
      (s.anyPlan = true → ∃ t, exec .fwUpdate s = .next t ∧ OnlyReply s t k 0x08 []) ∧
      (s.anyPlan = false → s.cmd.loads = [] → s.cmd.fwup = none →
        (fwStatus img s.hrt.svnFloor ≠ 0 → ∃ t, exec .fwUpdate s = .next t ∧ OnlyReply s t k (fwStatus img s.hrt.svnFloor) []) ∧
        (fwStatus img s.hrt.svnFloor = 0 → ∃ t, exec .fwUpdate s = .next t ∧
          t = { u with cmd := { u.cmd with fwup := some (k.ref, img) }, hrt := { s.hrt with torn := true } }))) ∧
    (∀ ref img, s.cmd.fwup = some (ref, img) →
      (∃ t, exec (.fwFlashWriteDone true) s = .next t ∧ Replied s t ref 0 [] ∧ t.hrt = { s.hrt with image := img, torn := false } ∧ t.cmd.fwup = none ∧
        t.mem = s.mem) ∧
      (∃ t, exec (.fwFlashWriteDone false) s = .next t ∧ Replied s t ref 0x47 [] ∧ t.hrt = s.hrt ∧ t.cmd.fwup = none ∧ t.mem = s.mem)) ∧
    (∀ tgt, tgt = fld (k.w 3) 0 2 → Takes s u k 0x28 lcForm → 2 ≤ tgt → (tgt = 2 → k.w64 4 = 0) →
      (lcLeaves s.hrt.lc tgt = false → ∃ t, exec .lcAdvance s = .next t ∧ OnlyReply s t k 0x43 []) ∧
      (lcLeaves s.hrt.lc tgt = true → s.hrt.pend = 0 →
        (tgt = 2 → ∃ t, exec .lcAdvance s = .next t ∧ Replied s t k.ref 0 [] ∧ t.hrt = { s.hrt with pend := 2 } ∧ t.mem = s.mem) ∧
        (∀ st, tgt = 3 → fld (wordAt (s.hostRd (k.w64 4) 4) 0) 0 1 = 1 → st = s.tokenBad (s.hostRd (k.w64 4) 5440) 1 0 →
          ∃ t, exec .lcAdvance s = .next t ∧ Replied s t k.ref st [] ∧ t.hrt = { s.hrt with chal := none, pend := if st = 0 then 3 else 0 }))) ∧
    (Takes s u k 0x2A svnForm → ∃ t, exec .svnCommit s = .next t ∧ Replied s t k.ref 0 [] ∧
      t.hrt = { s.hrt with svnFloor := max s.hrt.svnFloor s.hrt.svnRun } ∧ t.mem = s.mem) ∧
    (∀ st, st = fld (k.w 3) 0 3 → Takes s u k 0x29 pwrForm → st ≤ 4 →
      (s.powerHeld st = true → ∃ t, exec .pwrSet s = .next t ∧ OnlyReply s t k 0x08 []) ∧
      (s.powerHeld st = false → ∃ t, exec .pwrSet s = .next t ∧ t.pwr.state = st ∧ t.mem = s.mem ∧
        (st ≠ 3 → s.pwr.state ≠ 3 → Replied s t k.ref 0 [] ∧ t.tiles = s.tiles) ∧
        (st = 3 → s.pwr.state ≠ 3 → t.mnt.td = .unlocked ∧ t.hrt.dbgDev = false ∧ ∀ q, (t.part q).dbg = false) ∧
        (st = 4 → s.pwr.state ≠ 4 → t.pwr.quiesced = true ∧ t.pwr.offReq = true ∧ t.pwr.offAt = s.mnt.up))) ∧
    (Takes s u k 0x30 hangForm → k.w64 3 % 256 = 0 →
      (∀ h, v.flt.hang = some h → ∃ t, exec .hangGet s = .next t ∧ OnlyReply s t k 0 [word h.length] ∧ t.hostRd (k.w64 3) h.length = h) ∧
      (v.flt.hang = none → ∃ t, exec .hangGet s = .next t ∧ OnlyReply s t k 0x60 [])) ∧
    (∀ kind i pass, kind = fld (k.w 3) 0 3 → i = fld (k.w 4) 0 16 → Takes s u k 0x31 selftestForm → kind ≤ 4 →
      (s.testCount kind ≤ i → ∃ t, exec (.selftest pass) s = .next t ∧ OnlyReply s t k 0x04 [4]) ∧
      (i < s.testCount kind → s.inUse kind i = true → ∃ t, exec (.selftest pass) s = .next t ∧ OnlyReply s t k 0x08 []) ∧
      (i < s.testCount kind → s.inUse kind i = false → ∃ t, exec (.selftest pass) s = .next t ∧ Replied s t k.ref 0 [if pass then 0 else 1] ∧
        t.dev.evWp = (s.dev.evWp + 1) % 2 ^ 32 ∧ t.mem = s.mem ∧ t.tiles = s.tiles ∧ (pass = true → t.hrt = s.hrt))) ∧
    (Takes s u k 0x32 retireForm → ∃ t, exec .retireGet s = .next t ∧ OnlyReply s t k 0 [word s.hrt.retired.length] ∧
      t.hostRd (k.w64 3) 2048 = s.hrt.retireBytes) ∧
    (∀ w, w = fld (k.w 3) 0 16 → Takes s u k 0x33 shadowStartForm →
      (s.spareOfPair p w = false → ∃ t, exec .shadowStart s = .next t ∧ OnlyReply s t k 0x63 []) ∧
      (s.spareOfPair p w = true → v.running = false → v.sh.role = 0 → v.sh.start = none → ∃ t, exec .shadowStart s = .next t ∧
        (t.part p).sh.start = some k.ref ∧ (t.part p).sh.peer = w ∧ (t.part p).sh.verified = false ∧ t.mem = s.mem ∧ Signals s t w 0 4)) ∧
    (Takes s u k 0x34 shadowPromoteForm → v.sh.role = 1 ∨ v.sh.role = 2 → v.promoteLate s.now (k.w64 3) = false →
      (v.sh.verified = false → ∃ t, exec .shadowPromote s = .next t ∧ OnlyReply s t k 0x61 []) ∧
      (v.sh.verified = true → v.sh.promote = none → v.run.halted = false → ∃ t, exec .shadowPromote s = .next t ∧
        (t.part p).sh.promote = some (k.w64 3, some k.ref) ∧ (t.part p).sh.acked = false ∧ (t.part p).sh.role = v.sh.role ∧ t.mem = s.mem ∧
        Signals s t v.sh.peer 0 2)) ∧
    (Takes s u k 0x35 shadowStopForm →
      (v.sh.role = 0 → ∃ t, exec .shadowStop s = .next t ∧ OnlyReply s t k 0x63 []) ∧
      (v.sh.role ≠ 0 → v.sh.role ≠ 3 → v.sh.role ≠ 5 → v.sh.promote = none → ∃ t, exec .shadowStop s = .next t ∧ Replied s t k.ref 0 [] ∧
        (t.part p).sh.role = 0 ∧ t.mem = s.mem))

/-- The device owner sets PWR_BUDGET within its limits (else BUDGET_REJ), TIL_HZD_CTL (EN only under an unlock), FAB_DEVID
with no plan loaded (a port that this makes quiet or free re-lays its positions, and no other), FAB_GEN's NEXT, arms a
generation or is refused with REJ, PWR_PRESENT.EN, and starts the full form of stages 6 and 7 from reduced service; a VF
that writes one of these changes nothing but CMD_REG_VIOL. ROUTE_ACTIVATE at FAB_ACT_AT makes the staging bank active,
and ROUTE_RETIRE retires the previous generation 50,000 t later. For its partition an accessor sets MNT_LT_CFG (not
while a launch is armed, confirmed or running), SRV_TWIN with no plan loaded, a serving register that then waits for the
next commit (else CFG_REJ), SRV_STEP_BASE with every record idle, and returns a failed swap to idle. REGISTER_WRITE at
the address of PWR_BUDGET, FAB_DEVID, TIL_HZD_CTL and MNT_LT_CFG is the same as the row of that register (the places
follow R472); every REGISTER_WRITE completes, and one above the register region changes nothing. (16_host_interface.md
R470, 16_host_interface.md R471, 17_partitions_and_security.md R475, 02_plan_contract.md R68, 02_plan_contract.md R65,
09_scheduled_fabric.md R281, 09_scheduled_fabric.md R283, 08_clocks_and_mantel_time.md R252, 15_determinism_and_audit.md
R442, 12_serving_engine.md R383, 14_weight_intake_and_swap.md R427, 19_startup_and_grades.md R523) -/
def Obligations.RegisterWrites : Prop :=
  ∀ (s : State) (a : Accessor), s.accUp a = true →
    (accOwner a = true →
      (∀ v : BitVec 32,
        (600 ≤ fld v 0 11 → fld v 0 11 ≤ 1200 → fld v 0 11 ≤ fld v 16 11 → fld v 16 11 ≤ 1500 → s.plansFit (fld v 0 11) (fld v 16 11) = true →
          exec (.pwrBudgetWrite a v) s = .next { s with pwr := { s.pwr with avgW := fld v 0 11, peakW := fld v 16 11 } } ∧
          exec (.registerWrite a 0x030000002000 (v.zeroExtend 64)) s =
            .next { s with pwr := { s.pwr with avgW := fld v 0 11, peakW := fld v 16 11 } }) ∧
        (fld v 0 11 < 600 ∨ 1200 < fld v 0 11 ∨ fld v 16 11 < fld v 0 11 ∨ 1500 < fld v 16 11 ∨ s.plansFit (fld v 0 11) (fld v 16 11) = false →
          exec (.pwrBudgetWrite a v) s = .next { s with pwr := { s.pwr with rejB := true } }) ∧
        exec (.tilHzdCtlWrite a v) s =
          .next { s with dev := { s.dev with hzdEn := if s.anyDebug then flag v 0 else s.dev.hzdEn, hzdHalt := flag v 1 } } ∧
        (s.anyPlan = true → exec (.fabDevidWrite a v) s = .next s) ∧
        (s.anyPlan = false → ∃ t, exec (.fabDevidWrite a v) s = .next t ∧ t.fab = { s.fab with devid := fld v 0 16 } ∧
          t = { s with fab := t.fab, ports := t.ports } ∧
          ∀ n, (s.port n).lfence = true ∨ (s.me = 0xFFFF ↔ fld v 0 16 = 0xFFFF) → t.port n = s.port n) ∧
        exec (.pwrPresentWrite a v) s = .next { s with hrt := { s.hrt with presEn := flag v 0 } } ∧
        (flag v 16 = false → exec (.fabGenArm a v) s =
          .next { s with fab := { s.fab with next := fld v 12 4, rej := s.fab.rej && !flag v 10 } }) ∧
        (flag v 16 = true → s.fab.armed = true ∨ fld v 12 4 = s.fab.active ∨ s.fab.pvalid = true ∨ s.fab.actAt.toNat < s.now + 10000 →
          exec (.fabGenArm a v) s = .next { s with fab := { s.fab with rej := true } }) ∧
        (flag v 16 = true → s.fab.armed = false → fld v 12 4 ≠ s.fab.active → s.fab.pvalid = false → s.now + 10000 ≤ s.fab.actAt.toNat →
          exec (.fabGenArm a v) s = .next { s with fab := { s.fab with next := fld v 12 4, rej := s.fab.rej && !flag v 10, armed := true } })) ∧
      (s.pwr.rsvc = true → s.anyPlan = false → s.cmd.loads = [] → s.pwr.rerun = none →
        exec (.pwrBrgCtlFullreq a) s = .next { s with pwr := { s.pwr with rerun := some 6, trained := [], trainedC := [] } }) ∧
      (s.pwr.rsvc = false ∨ s.anyPlan = true → exec (.pwrBrgCtlFullreq a) s = .next s)) ∧
    (accOwner a = false → ∀ (v : BitVec 32) c, c ∈ ([.pwrBudgetWrite a v, .tilHzdCtlWrite a v, .fabDevidWrite a v, .pwrPresentWrite a v,
        .fabGenArm a v, .pwrBrgCtlFullreq a, .registerWrite a 0x030000002000 (v.zeroExtend 64)] : List Instr) →
      exec c s = .next { s with cmd := { s.cmd with regViol := min (2 ^ 32 - 1) (s.cmd.regViol + 1) } }) ∧
    (∀ p, p < 64 → accFor a p = true →
      let w := s.part p
      (∀ v : BitVec 32,
        (w.launch.st = .armed ∨ w.launch.st = .confirmed ∨ w.launch.st = .running → exec (.mntLtCfgWrite a p v) s = .next s) ∧
        (w.launch.st ≠ .armed → w.launch.st ≠ .confirmed → w.launch.st ≠ .running → ∃ t, exec (.mntLtCfgWrite a p v) s = .next t ∧
          t.part p = { w with ltParent := fld v 0 4, ltRoot := flag v 4, ltChild := BitVec.ofNat 16 (fld v 16 16) } ∧ t = { s with parts := t.parts }) ∧
        (fld v 0 3 = 0 → w.wts.swst = 4 → ∃ t, exec (.srvWswapStatClear a p v) s = .next t ∧
          t.part p = { w with wts := { w.wts with swst := 0 } } ∧ t = { s with parts := t.parts }) ∧
        (fld v 0 3 ≠ 0 ∨ w.wts.swst ≠ 4 → exec (.srvWswapStatClear a p v) s = .next s) ∧
        exec (.registerWrite a (0x030001000004 + 0x10000 * p) (v.zeroExtend 64)) s = exec (.mntLtCfgWrite a p v) s) ∧
      (∀ v : BitVec 64,
        (w.plan.isSome = true → ∀ b, exec (.srvTwinWrite a p b v) s = .next s) ∧
        (w.plan = none → (∃ t, exec (.srvTwinWrite a p false v) s = .next t ∧
            t.part p = { w with aud := { w.aud with twin := v.toNat % 2 ^ 16 } } ∧ t = { s with parts := t.parts }) ∧
          (v.toNat % 2 ^ 20 = 0 → s.ownedMarl p v.toNat (2 ^ 20) = true → ∃ t, exec (.srvTwinWrite a p true v) s = .next t ∧
            t.part p = { w with aud := { w.aud with twBase := v } } ∧ t = { s with parts := t.parts })) ∧
        (∀ r, s.servRegOk p r v = false → ∃ t, exec (.servingConfigWrite a p r v) s = .next t ∧
          t.part p = { w with serv := { w.serv with cfgRej := true } } ∧ t = { s with parts := t.parts }) ∧
        (∀ r, s.servRegOk p r v = true → (∀ hp, r ≠ .oringRp hp) → ∃ t, exec (.servingConfigWrite a p r v) s = .next t ∧
          t.part p = { w with serv := { w.serv with pend := w.serv.pend ++ [(r, v)] } } ∧ t = { s with parts := t.parts }) ∧
        (v.toNat % oqSize = 0 → s.ownedMarl p v.toNat oqSize = true → s.recordsIdle p = true → ∃ t, exec (.srvStepBaseWrite a p v) s = .next t ∧
          t.part p = { w with serv := { w.serv with stepBase := v } } ∧ t = { s with parts := t.parts }) ∧
        (v.toNat % oqSize ≠ 0 ∨ s.ownedMarl p v.toNat oqSize = false ∨ s.recordsIdle p = false → ∃ t, exec (.srvStepBaseWrite a p v) s = .next t ∧
          t.part p = { w with serv := { w.serv with cfgRej := true } } ∧ t = { s with parts := t.parts }))) ∧
    (∀ (x : Nat) (v : BitVec 64), ∃ t, exec (.registerWrite a x v) s = .next t ∧ (0x030100000000 ≤ x → t = s)) ∧
    (∀ v : BitVec 64, exec (.registerWrite a 0x030000002000 v) s = exec (.pwrBudgetWrite a (v.truncate 32)) s ∧
      exec (.registerWrite a 0x030000003000 v) s = exec (.fabDevidWrite a (v.truncate 32)) s ∧
      exec (.registerWrite a 0x03000000E000 v) s = exec (.tilHzdCtlWrite a (v.truncate 32)) s) ∧
    (s.fab.armed = true → s.fab.actAt.toNat ≤ s.now → ∃ t, exec .routeActivate s = .next t ∧ t.fab.active = s.fab.next ∧ t.fab.prev = s.fab.active ∧
      t.fab.pvalid = true ∧ t.fab.armed = false ∧ t.fab.sel = (!s.fab.sel) ∧ t.fab.retireAt = s.fab.actAt.toNat + 50000 ∧ t = { s with fab := t.fab }) ∧
    (s.fab.armed = false ∨ s.now < s.fab.actAt.toNat → exec .routeActivate s = .next s) ∧
    (s.fab.pvalid = true → s.fab.retireAt ≤ s.now → exec .routeRetire s = .next { s with fab := { s.fab with pvalid := false } })

/-- From the end of stage 1 a status message is answered with PWR_BRG_STAT, HRT_BOOT, PWR_STATE and words 1 to 3 of the
identity header; before that it does nothing. From the end of stage 4, on a device that is out of reset and does not
wait to be switched off, telemetry, register reads, fault summaries and records are answered and change nothing else;
before that they do nothing. A register write acts as REGISTER_WRITE with device-owner access and is answered with the
register's value (the model's choice, in the log); a budget message acts as a write of PWR_BUDGET; a power-state message
enters a state whose rules hold and is answered with the outcome; a device reset records cause 4, keeps the references
and restarts bring-up at stage 3 with both ports as after PERST#. The responses are kept as 64-bit words (the model's
choice, in the log). (19_startup_and_grades.md R530, 19_startup_and_grades.md R531, 19_startup_and_grades.md Table 19.8,
02_plan_contract.md R69, 17_partitions_and_security.md R494, 20_package_and_electrical.md R539,
20_package_and_electrical.md R540) -/
def Obligations.SidebandMessages : Prop :=
  ∀ (s : State),
    (s.pwr.stage = 0 → exec .sbStatus s = .next s) ∧
    (1 ≤ s.pwr.stage → ∃ t, exec .sbStatus s = .next t ∧ t = { s with cmd := { s.cmd with sb := t.cmd.sb } } ∧
      t.cmd.sb = [dword (s.devReg .brgStat), dword (s.devReg .hrtBoot), dword s.pwr.state] ++
        ((s.idHeader.drop 1).take 3).map fun w => dword w.toNat) ∧
    (∀ a v x y p n c, s.pwr.stage < 4 ∨ s.pwr.inReset = true ∨ s.pwr.offLate = true →
      c ∈ ([.sbTelemetry, .sbRegisterRead a, .sbRegisterWrite a v, .sbBudget x y, .sbFaultSummary p, .sbFaultRecord p n, .sbPowerState n,
        .sbDeviceReset] : List Instr) → exec c s = .next s) ∧
    (4 ≤ s.pwr.stage → s.pwr.inReset = false → s.pwr.offLate = false →
      let only : State → List DWord → Prop := fun t ws => t = { s with cmd := { s.cmd with sb := ws } }
      (∃ t, exec .sbTelemetry s = .next t ∧ only t ([dword s.now, dword s.pwr.tCore, dword (max s.pwr.tPorchA s.pwr.tPorchB)] ++
        ((List.range s.nStacks).map fun k => dword ((s.stack k).temp % 256)) ++ [dword s.pwr.avg1ms, dword s.pwr.avg1s, dword s.pwr.tokPeak])) ∧
      (∃ t, exec (.sbRegisterRead 0x030000002000) s = .next t ∧ only t [dword ((s.pwr.avgW + s.pwr.peakW * 2 ^ 16) % 2 ^ 32)]) ∧
      (∀ a, regionOff a = none → ∃ t, exec (.sbRegisterRead a) s = .next t ∧ only t [0]) ∧
      (∀ a v, ∃ u, exec (.registerWrite .sideband a v) s = .next u ∧ exec (.sbRegisterWrite a v) s = .next (u.sbRead a)) ∧
      (∀ x y, x < 2 ^ 11 → y < 2 ^ 11 → ∃ u t, exec (.pwrBudgetWrite .sideband (word (x + y * 2 ^ 16))) s = .next u ∧ exec (.sbBudget x y) s = .next t ∧
        t = { u with cmd := { u.cmd with sb := [dword (u.pwr.avgW + u.pwr.peakW * 2 ^ 16), if u.pwr.rejB then 1 else 0] } }) ∧
      (∀ p, ∃ t, exec (.sbFaultSummary p) s = .next t ∧ only t ([dword (s.part p).pstat, dword (s.part p).flt.wp] ++
        if (s.part p).launch.root = s.me then (s.part p).flt.sum.words.map (fun w => dword w.toNat) else [])) ∧
      (∀ p n, ∃ t, exec (.sbFaultRecord p n) s = .next t ∧
        only t ((SMap.get (List.replicate 16 0) (s.part p).flt.log (n % 256)).map fun w => dword w.toNat)) ∧
      (∀ st, (s.powerStatus st = 0 → ∃ t, exec (.sbPowerState st) s = .next t ∧ t.pwr.state = st ∧ t.cmd.sb = [0] ∧ t.mem = s.mem) ∧
        (s.powerStatus st ≠ 0 → ∃ t, exec (.sbPowerState st) s = .next t ∧ only t [dword (s.powerStatus st)])) ∧
      (s.mnt.up ≠ 0 → ∃ t, exec .sbDeviceReset s = .next t ∧ t.pwr.stage = 2 ∧ t.pwr.rst = word 4 ∧ t.pwr.inReset = false ∧ t.tiles = [] ∧ t.parts = [] ∧
        t.mnt.active = s.mnt.active ∧ t.cmd.waits = [] ∧ t.cmd.fns = [] ∧ t.hrt.svnFloor = s.hrt.svnFloor ∧ t.hrt.torn = s.hrt.torn ∧
        (∀ hp, (t.hport hp).up = false ∧ (t.hport hp).perst = (s.hport hp).perst)))

/-- For every command c and state s, a step of s with c at the front of its queue is exec c on s with the queue's rest. On
an empty queue a step is one Mantel tick (the model's choice, as in the log entry on the tick): device time counts, and
the Mantel count with it once it runs; a device held in reset counts its time and nothing else. (16_host_interface.md
R450, 08_clocks_and_mantel_time.md R223, 08_clocks_and_mantel_time.md R235) -/
def Obligations.StepRunsFrontCommand : Prop :=
  (∀ (s : State) (c : Instr), step { s with pending := c :: s.pending } = exec c s) ∧
  (∀ (s : State) (c : Instr) (r : List Instr), s.pending = c :: r → step s = exec c { s with pending := r }) ∧
  (∀ s : State, s.pending = [] → step s = .next s.tick) ∧
  ∀ s : State, s.pending = [] → s.pwr.inReset = true →
    step s = .next { s with mnt := { s.mnt with up := s.mnt.up + 1, now := if s.mnt.run then (s.mnt.now + 1) % 2 ^ 64 else s.mnt.now } }

/-- After reset no command waits; the budget is 1,200 W and 1,500 W, no stage has ended, the cause is power-on; the Mantel
count stands at 0; the device has no ID, generation 0 is active with NEXT 1, and no route entry is valid; every port is
DOWN with EN = 0; every reply ring is off with RSZ 9 and IRQ_MASK 7; no unit is bound; no plan is loaded; PAN_PEER
fields, SRV_LDIG_CTL.LSZ and SRV_TWIN have the values of their tables; every record and Larder slot is empty; and memory
has its canonical form, where every byte reads 0 (the model's choice, as in the log entry on unwritten memory).
(02_plan_contract.md Table 2.9, 08_clocks_and_mantel_time.md R237, 19_startup_and_grades.md Table 19.1,
09_scheduled_fabric.md R283, 09_scheduled_fabric.md Table 9.7, 10_link_layer.md Table 10.5, 16_host_interface.md Table
16.11, 16_host_interface.md Table 16.13, 17_partitions_and_security.md Table 17.1, 15_determinism_and_audit.md Table
15.6, 12_serving_engine.md Table 12.13, 20_package_and_electrical.md R540) -/
def Obligations.ResetState : Prop :=
  State.reset.pending = [] ∧ State.reset.pwr.avgW = 1200 ∧ State.reset.pwr.peakW = 1500 ∧ State.reset.pwr.stage = 0 ∧ State.reset.pwr.rst = 0 ∧
  State.reset.now = 0 ∧ State.reset.mnt.run = false ∧ State.reset.mnt.td = .unlocked ∧ State.reset.me = 0xFFFF ∧ State.reset.fab.active = 0 ∧
  State.reset.fab.next = 1 ∧ State.reset.fab.pvalid = false ∧ State.reset.fab.armed = false ∧
  (∀ d, ∃ e, State.reset.routeEntry 0 d = some e ∧ bit e 4 = false) ∧
  (∀ n, (State.reset.port n).st = .down ∧ (State.reset.port n).en = false) ∧
  (∀ hp fn, (State.reset.fn hp fn).en = false ∧ (State.reset.fn hp fn).rsz = 9 ∧ (State.reset.fn hp fn).irqMask = 7 ∧
    (State.reset.fn hp fn).wp = 0 ∧ (State.reset.fn hp fn).held = []) ∧
  (∀ kind i, State.reset.owner kind i = none ∧ State.reset.clearing kind i = false) ∧
  (∀ p, (State.reset.part p).plan = none ∧ (State.reset.part p).launch.st = .idle ∧ (State.reset.part p).serv.cshare = 4 ∧
    (State.reset.part p).serv.peerout = 16 ∧ (State.reset.part p).aud.lsz = 16 ∧ (State.reset.part p).aud.twin = 0xFFFF ∧
    (State.reset.part p).flt.wp = 0) ∧
  (∀ r, (State.reset.record r).state = 0) ∧ (∀ n, (State.reset.lslot n).state = 0) ∧
  (∀ a, State.reset.rdByte a = 0) ∧ State.reset.memWf = true

/-- For every header whose fields lie in the widths of Table 9.4, the fields read back from its header flit are its fields,
the flit's HCRC passes and its reserved bits are 0; a change of HOPS alone keeps the HCRC. Conversely every flit whose
HCRC passes and whose reserved bits are 0 is the header flit of the fields read from it. (09_scheduled_fabric.md R265,
09_scheduled_fabric.md R267, 09_scheduled_fabric.md Table 9.4) -/
def Obligations.HeaderRoundTrip : Prop :=
  (∀ h : Hdr, h.dst < 2 ^ 16 → h.src < 2 ^ 16 → h.gen < 16 → h.cls < 2 → h.vc < 4 → h.part < 64 → h.len < 32 → h.opc < 32 → h.hops < 32 →
    h.addr < 2 ^ 48 → h.npre < 2 ^ 32 → h.fi < 2 ^ 16 → h.tag < 2 ^ 16 → h.epoch < 256 → h.status < 16 → h.rlen < 32 → h.opa < 2 ^ 64 →
    h.opb < 2 ^ 64 →
    Hdr.dec h.enc = h ∧ hcrcOk h.enc = true ∧ hdrReserved0 h.enc = true ∧ ∀ n, n < 32 → (Hdr.enc { h with hops := n }).toNat / 2 ^ 480 = h.enc.toNat / 2 ^ 480) ∧
  ∀ f : Flit, hcrcOk f = true → hdrReserved0 f = true → (Hdr.dec f).enc = f

/-- From every state whose memory, valid bits and host memory are in canonical form (addresses strictly rising, no entry at
the value that an unlisted one reads as), whichever command stands at the front of its queue, or none, a step that
answers a next state answers one whose memory, valid bits and host memory are in canonical form. (06_memory_hierarchy.md
R164, 06_memory_hierarchy.md R190, 17_partitions_and_security.md R478) -/
def Obligations.MemoryStaysCanonical : Prop :=
  ∀ s t : State, s.memWf = true → step s = .next t → t.memWf = true
end

