-- ==== Sys2Proof/Laws/Store.lean ====
section
/-! SUPPORT. Laws of the sparse stores: reading back what was written, leaving every other key alone, and keeping the
canonical form. -/

namespace Sys2Proof.Machine

variable {α β : Type}

theorem SMap.find_set_self (m : SMap α) (k : Nat) (v : α) : SMap.find (SMap.set m k v) k = some v := by
  induction m with
  | nil => simp [SMap.set, SMap.find]
  | cons x r ih =>
    obtain ⟨j, w⟩ := x
    simp only [SMap.set]
    split
    · simp [SMap.find]
    · split
      · simp [SMap.find]
      · rename_i h
        simp [SMap.find, h, ih]

theorem SMap.find_set_ne (m : SMap α) {k i : Nat} (v : α) (h : i ≠ k) : SMap.find (SMap.set m k v) i = SMap.find m i := by
  induction m with
  | nil => simp [SMap.set, SMap.find, h]
  | cons x r ih =>
    obtain ⟨j, w⟩ := x
    simp only [SMap.set]
    split
    · simp [SMap.find, h]
    · split
      · rename_i hk
        subst hk
        simp [SMap.find, h]
      · simp only [SMap.find, ih]

theorem SMap.find_erase_self (m : SMap α) (k : Nat) : SMap.find (SMap.erase m k) k = none := by
  induction m with
  | nil => rfl
  | cons x r ih =>
    obtain ⟨j, w⟩ := x
    simp only [SMap.erase]
    split
    · exact ih
    · rename_i h
      simp [SMap.find, h, ih]

theorem SMap.find_erase_ne (m : SMap α) {k i : Nat} (h : i ≠ k) : SMap.find (SMap.erase m k) i = SMap.find m i := by
  induction m with
  | nil => rfl
  | cons x r ih =>
    obtain ⟨j, w⟩ := x
    simp only [SMap.erase]
    split
    · rename_i hk
      subst hk
      simp [SMap.find, h, ih]
    · simp only [SMap.find, ih]

/-- A key reads as what was last written to it. -/
@[simp] theorem SMap.get_put_self [DecidableEq α] (d : α) (m : SMap α) (k : Nat) (v : α) :
    SMap.get d (SMap.put d m k v) k = v := by
  unfold SMap.get SMap.put
  split
  · rename_i h
    simp [SMap.find_erase_self, h]
  · simp [SMap.find_set_self]

/-- A write leaves every other key as it was. -/
theorem SMap.get_put_ne [DecidableEq α] (d : α) (m : SMap α) {k i : Nat} (v : α) (h : i ≠ k) :
    SMap.get d (SMap.put d m k v) i = SMap.get d m i := by
  unfold SMap.get SMap.put
  split
  · rw [SMap.find_erase_ne m h]
  · rw [SMap.find_set_ne m v h]

theorem SMap.get_put [DecidableEq α] (d : α) (m : SMap α) (k i : Nat) (v : α) :
    SMap.get d (SMap.put d m k v) i = if i = k then v else SMap.get d m i := by
  by_cases h : i = k
  · subst h; simp
  · simp [h, SMap.get_put_ne d m v h]

@[simp] theorem SMap.get_nil (d : α) (k : Nat) : SMap.get d [] k = d := rfl

/-- Dropping a range reads as the default in it and as before outside it. -/
theorem SMap.get_clear (d : α) (m : SMap α) (lo n i : Nat) :
    SMap.get d (SMap.clear m lo n) i = if lo ≤ i ∧ i < lo + n then d else SMap.get d m i := by
  unfold SMap.get SMap.clear
  induction m with
  | nil => simp [SMap.find]
  | cons x r ih =>
    obtain ⟨j, w⟩ := x
    simp only [List.filter_cons]
    by_cases hj : (decide (j < lo) || decide (lo + n ≤ j)) = true
    · simp only [hj, if_true, SMap.find]
      by_cases hi : i = j
      · subst hi
        simp only [Bool.or_eq_true, decide_eq_true_eq] at hj
        have : ¬ (lo ≤ i ∧ i < lo + n) := by omega
        simp [this]
      · simp only [hi, if_false]
        exact ih
    · simp only [hj, SMap.find]
      by_cases hi : i = j
      · subst hi
        simp only [Bool.or_eq_true, decide_eq_true_eq] at hj
        have : lo ≤ i ∧ i < lo + n := by omega
        rw [if_pos this] at ih ⊢
        exact ih
      · simp only [hi, if_false]
        exact ih

/-! ## The canonical form -/

theorem SMap.wfFrom_mono [DecidableEq α] {d : α} {m : SMap α} {a b : Nat} (h : b ≤ a) (hm : SMap.wfFrom d a m = true) :
    SMap.wfFrom d b m = true := by
  cases m with
  | nil => rfl
  | cons x r =>
    obtain ⟨j, w⟩ := x
    simp only [SMap.wfFrom, Bool.and_eq_true, decide_eq_true_eq] at hm ⊢
    exact ⟨⟨by omega, hm.1.2⟩, hm.2⟩

theorem SMap.wfFrom_set [DecidableEq α] {d : α} {m : SMap α} {lo k : Nat} {v : α} (hv : v ≠ d) (hk : lo ≤ k)
    (hm : SMap.wfFrom d lo m = true) : SMap.wfFrom d lo (SMap.set m k v) = true := by
  induction m generalizing lo with
  | nil => simp [SMap.set, SMap.wfFrom, hv, hk]
  | cons x r ih =>
    obtain ⟨j, w⟩ := x
    simp only [SMap.wfFrom, Bool.and_eq_true, decide_eq_true_eq] at hm
    simp only [SMap.set]
    split
    · simp only [SMap.wfFrom, Bool.and_eq_true, decide_eq_true_eq]
      exact ⟨⟨hk, hv⟩, ⟨by omega, hm.1.2⟩, hm.2⟩
    · split
      · rename_i h
        subst h
        simp only [SMap.wfFrom, Bool.and_eq_true, decide_eq_true_eq]
        exact ⟨⟨hk, hv⟩, hm.2⟩
      · simp only [SMap.wfFrom, Bool.and_eq_true, decide_eq_true_eq]
        exact ⟨hm.1, ih (by omega) hm.2⟩

theorem SMap.wfFrom_filter [DecidableEq α] {d : α} {m : SMap α} {lo : Nat} (f : Nat × α → Bool)
    (hm : SMap.wfFrom d lo m = true) : SMap.wfFrom d lo (m.filter f) = true := by
  induction m generalizing lo with
  | nil => rfl
  | cons x r ih =>
    obtain ⟨j, w⟩ := x
    simp only [SMap.wfFrom, Bool.and_eq_true, decide_eq_true_eq] at hm
    simp only [List.filter_cons]
    split
    · simp only [SMap.wfFrom, Bool.and_eq_true, decide_eq_true_eq]
      exact ⟨hm.1, ih hm.2⟩
    · exact SMap.wfFrom_mono (by omega) (ih hm.2)

theorem SMap.erase_eq_filter (m : SMap α) (k : Nat) : SMap.erase m k = m.filter fun kv => decide (k ≠ kv.1) := by
  induction m with
  | nil => rfl
  | cons x r ih =>
    obtain ⟨j, w⟩ := x
    simp only [SMap.erase, List.filter_cons]
    by_cases h : k = j
    · rw [if_pos h, ih]
      simp [h]
    · rw [if_neg h, ih]
      simp [h]

/-- A write keeps the canonical form. -/
theorem SMap.wf_put [DecidableEq α] {d : α} {m : SMap α} (k : Nat) (v : α) (hm : SMap.wf d m = true) :
    SMap.wf d (SMap.put d m k v) = true := by
  unfold SMap.put
  split
  · rw [SMap.erase_eq_filter]
    exact SMap.wfFrom_filter _ hm
  · exact SMap.wfFrom_set (by assumption) (by omega) hm

/-- Dropping a range keeps the canonical form. -/
theorem SMap.wf_clear [DecidableEq α] {d : α} {m : SMap α} (lo n : Nat) (hm : SMap.wf d m = true) :
    SMap.wf d (SMap.clear m lo n) = true := SMap.wfFrom_filter _ hm

/-- Writing a list of values keeps the canonical form. -/
theorem SMap.wf_putList [DecidableEq α] {d : α} (vs : List α) : ∀ {m : SMap α} (k : Nat), SMap.wf d m = true →
    SMap.wf d (SMap.putList d m k vs) = true := by
  induction vs with
  | nil => intro m k hm; exact hm
  | cons v r ih => intro m k hm; exact ih (k + 1) (SMap.wf_put k v hm)

/-- A key outside a written range reads as before; a key in it reads as its element. -/
theorem SMap.get_putList [DecidableEq α] (d : α) (vs : List α) : ∀ (m : SMap α) (k i : Nat),
    SMap.get d (SMap.putList d m k vs) i = if k ≤ i ∧ i < k + vs.length then vs.getD (i - k) d else SMap.get d m i := by
  induction vs with
  | nil => intro m k i; simp [SMap.putList] <;> omega
  | cons v r ih =>
    intro m k i
    simp only [SMap.putList, ih, SMap.get_put, List.length_cons]
    by_cases h1 : k + 1 ≤ i ∧ i < k + 1 + r.length
    · have h2 : k ≤ i ∧ i < k + (r.length + 1) := by omega
      rw [if_pos h1, if_pos h2]
      obtain ⟨n, hn⟩ : ∃ n, i - k = n + 1 := ⟨i - (k + 1), by omega⟩
      rw [hn, show i - (k + 1) = n by omega]
      simp
    · rw [if_neg h1]
      by_cases h3 : i = k
      · subst h3; simp
      · have h2 : ¬ (k ≤ i ∧ i < k + (r.length + 1)) := by omega
        simp [h3, h2]

end Sys2Proof.Machine
end

