-- ==== Sys2Proof/Laws/State.lean ====
section
/-! SUPPORT. Laws of the state: what each update of a unit leaves in every field, and reading a unit back. -/

namespace Sys2Proof.Machine

/-! ### setTile -/
@[simp] theorem State.setTile_pending (s : State) (t : Nat) (v : Tile) : (s.setTile t v).pending = s.pending := rfl
@[simp] theorem State.setTile_rooms (s : State) (t : Nat) (v : Tile) : (s.setTile t v).rooms = s.rooms := rfl
@[simp] theorem State.setTile_stks (s : State) (t : Nat) (v : Tile) : (s.setTile t v).stks = s.stks := rfl
@[simp] theorem State.setTile_ports (s : State) (t : Nat) (v : Tile) : (s.setTile t v).ports = s.ports := rfl
@[simp] theorem State.setTile_parts (s : State) (t : Nat) (v : Tile) : (s.setTile t v).parts = s.parts := rfl
@[simp] theorem State.setTile_recs (s : State) (t : Nat) (v : Tile) : (s.setTile t v).recs = s.recs := rfl
@[simp] theorem State.setTile_resd (s : State) (t : Nat) (v : Tile) : (s.setTile t v).resd = s.resd := rfl
@[simp] theorem State.setTile_larder (s : State) (t : Nat) (v : Tile) : (s.setTile t v).larder = s.larder := rfl
@[simp] theorem State.setTile_cmd (s : State) (t : Nat) (v : Tile) : (s.setTile t v).cmd = s.cmd := rfl
@[simp] theorem State.setTile_fab (s : State) (t : Nat) (v : Tile) : (s.setTile t v).fab = s.fab := rfl
@[simp] theorem State.setTile_mnt (s : State) (t : Nat) (v : Tile) : (s.setTile t v).mnt = s.mnt := rfl
@[simp] theorem State.setTile_hrt (s : State) (t : Nat) (v : Tile) : (s.setTile t v).hrt = s.hrt := rfl
@[simp] theorem State.setTile_pwr (s : State) (t : Nat) (v : Tile) : (s.setTile t v).pwr = s.pwr := rfl
@[simp] theorem State.setTile_dev (s : State) (t : Nat) (v : Tile) : (s.setTile t v).dev = s.dev := rfl
@[simp] theorem State.setTile_mem (s : State) (t : Nat) (v : Tile) : (s.setTile t v).mem = s.mem := rfl
@[simp] theorem State.setTile_valid (s : State) (t : Nat) (v : Tile) : (s.setTile t v).valid = s.valid := rfl
@[simp] theorem State.setTile_free (s : State) (t : Nat) (v : Tile) : (s.setTile t v).free = s.free := rfl

/-! ### setRoom -/
@[simp] theorem State.setRoom_pending (s : State) (r : Nat) (v : Room) : (s.setRoom r v).pending = s.pending := rfl
@[simp] theorem State.setRoom_tiles (s : State) (r : Nat) (v : Room) : (s.setRoom r v).tiles = s.tiles := rfl
@[simp] theorem State.setRoom_stks (s : State) (r : Nat) (v : Room) : (s.setRoom r v).stks = s.stks := rfl
@[simp] theorem State.setRoom_ports (s : State) (r : Nat) (v : Room) : (s.setRoom r v).ports = s.ports := rfl
@[simp] theorem State.setRoom_parts (s : State) (r : Nat) (v : Room) : (s.setRoom r v).parts = s.parts := rfl
@[simp] theorem State.setRoom_recs (s : State) (r : Nat) (v : Room) : (s.setRoom r v).recs = s.recs := rfl
@[simp] theorem State.setRoom_resd (s : State) (r : Nat) (v : Room) : (s.setRoom r v).resd = s.resd := rfl
@[simp] theorem State.setRoom_larder (s : State) (r : Nat) (v : Room) : (s.setRoom r v).larder = s.larder := rfl
@[simp] theorem State.setRoom_cmd (s : State) (r : Nat) (v : Room) : (s.setRoom r v).cmd = s.cmd := rfl
@[simp] theorem State.setRoom_fab (s : State) (r : Nat) (v : Room) : (s.setRoom r v).fab = s.fab := rfl
@[simp] theorem State.setRoom_mnt (s : State) (r : Nat) (v : Room) : (s.setRoom r v).mnt = s.mnt := rfl
@[simp] theorem State.setRoom_hrt (s : State) (r : Nat) (v : Room) : (s.setRoom r v).hrt = s.hrt := rfl
@[simp] theorem State.setRoom_pwr (s : State) (r : Nat) (v : Room) : (s.setRoom r v).pwr = s.pwr := rfl
@[simp] theorem State.setRoom_dev (s : State) (r : Nat) (v : Room) : (s.setRoom r v).dev = s.dev := rfl
@[simp] theorem State.setRoom_mem (s : State) (r : Nat) (v : Room) : (s.setRoom r v).mem = s.mem := rfl
@[simp] theorem State.setRoom_valid (s : State) (r : Nat) (v : Room) : (s.setRoom r v).valid = s.valid := rfl
@[simp] theorem State.setRoom_free (s : State) (r : Nat) (v : Room) : (s.setRoom r v).free = s.free := rfl

/-! ### setStack -/
@[simp] theorem State.setStack_pending (s : State) (k : Nat) (v : Stack) : (s.setStack k v).pending = s.pending := rfl
@[simp] theorem State.setStack_tiles (s : State) (k : Nat) (v : Stack) : (s.setStack k v).tiles = s.tiles := rfl
@[simp] theorem State.setStack_rooms (s : State) (k : Nat) (v : Stack) : (s.setStack k v).rooms = s.rooms := rfl
@[simp] theorem State.setStack_ports (s : State) (k : Nat) (v : Stack) : (s.setStack k v).ports = s.ports := rfl
@[simp] theorem State.setStack_parts (s : State) (k : Nat) (v : Stack) : (s.setStack k v).parts = s.parts := rfl
@[simp] theorem State.setStack_recs (s : State) (k : Nat) (v : Stack) : (s.setStack k v).recs = s.recs := rfl
@[simp] theorem State.setStack_resd (s : State) (k : Nat) (v : Stack) : (s.setStack k v).resd = s.resd := rfl
@[simp] theorem State.setStack_larder (s : State) (k : Nat) (v : Stack) : (s.setStack k v).larder = s.larder := rfl
@[simp] theorem State.setStack_cmd (s : State) (k : Nat) (v : Stack) : (s.setStack k v).cmd = s.cmd := rfl
@[simp] theorem State.setStack_fab (s : State) (k : Nat) (v : Stack) : (s.setStack k v).fab = s.fab := rfl
@[simp] theorem State.setStack_mnt (s : State) (k : Nat) (v : Stack) : (s.setStack k v).mnt = s.mnt := rfl
@[simp] theorem State.setStack_hrt (s : State) (k : Nat) (v : Stack) : (s.setStack k v).hrt = s.hrt := rfl
@[simp] theorem State.setStack_pwr (s : State) (k : Nat) (v : Stack) : (s.setStack k v).pwr = s.pwr := rfl
@[simp] theorem State.setStack_dev (s : State) (k : Nat) (v : Stack) : (s.setStack k v).dev = s.dev := rfl
@[simp] theorem State.setStack_mem (s : State) (k : Nat) (v : Stack) : (s.setStack k v).mem = s.mem := rfl
@[simp] theorem State.setStack_valid (s : State) (k : Nat) (v : Stack) : (s.setStack k v).valid = s.valid := rfl
@[simp] theorem State.setStack_free (s : State) (k : Nat) (v : Stack) : (s.setStack k v).free = s.free := rfl

/-! ### setPort -/
@[simp] theorem State.setPort_pending (s : State) (n : Nat) (v : Port) : (s.setPort n v).pending = s.pending := rfl
@[simp] theorem State.setPort_tiles (s : State) (n : Nat) (v : Port) : (s.setPort n v).tiles = s.tiles := rfl
@[simp] theorem State.setPort_rooms (s : State) (n : Nat) (v : Port) : (s.setPort n v).rooms = s.rooms := rfl
@[simp] theorem State.setPort_stks (s : State) (n : Nat) (v : Port) : (s.setPort n v).stks = s.stks := rfl
@[simp] theorem State.setPort_parts (s : State) (n : Nat) (v : Port) : (s.setPort n v).parts = s.parts := rfl
@[simp] theorem State.setPort_recs (s : State) (n : Nat) (v : Port) : (s.setPort n v).recs = s.recs := rfl
@[simp] theorem State.setPort_resd (s : State) (n : Nat) (v : Port) : (s.setPort n v).resd = s.resd := rfl
@[simp] theorem State.setPort_larder (s : State) (n : Nat) (v : Port) : (s.setPort n v).larder = s.larder := rfl
@[simp] theorem State.setPort_cmd (s : State) (n : Nat) (v : Port) : (s.setPort n v).cmd = s.cmd := rfl
@[simp] theorem State.setPort_fab (s : State) (n : Nat) (v : Port) : (s.setPort n v).fab = s.fab := rfl
@[simp] theorem State.setPort_mnt (s : State) (n : Nat) (v : Port) : (s.setPort n v).mnt = s.mnt := rfl
@[simp] theorem State.setPort_hrt (s : State) (n : Nat) (v : Port) : (s.setPort n v).hrt = s.hrt := rfl
@[simp] theorem State.setPort_pwr (s : State) (n : Nat) (v : Port) : (s.setPort n v).pwr = s.pwr := rfl
@[simp] theorem State.setPort_dev (s : State) (n : Nat) (v : Port) : (s.setPort n v).dev = s.dev := rfl
@[simp] theorem State.setPort_mem (s : State) (n : Nat) (v : Port) : (s.setPort n v).mem = s.mem := rfl
@[simp] theorem State.setPort_valid (s : State) (n : Nat) (v : Port) : (s.setPort n v).valid = s.valid := rfl
@[simp] theorem State.setPort_free (s : State) (n : Nat) (v : Port) : (s.setPort n v).free = s.free := rfl

/-! ### setPart -/
@[simp] theorem State.setPart_pending (s : State) (p : Nat) (v : Part) : (s.setPart p v).pending = s.pending := rfl
@[simp] theorem State.setPart_tiles (s : State) (p : Nat) (v : Part) : (s.setPart p v).tiles = s.tiles := rfl
@[simp] theorem State.setPart_rooms (s : State) (p : Nat) (v : Part) : (s.setPart p v).rooms = s.rooms := rfl
@[simp] theorem State.setPart_stks (s : State) (p : Nat) (v : Part) : (s.setPart p v).stks = s.stks := rfl
@[simp] theorem State.setPart_ports (s : State) (p : Nat) (v : Part) : (s.setPart p v).ports = s.ports := rfl
@[simp] theorem State.setPart_recs (s : State) (p : Nat) (v : Part) : (s.setPart p v).recs = s.recs := rfl
@[simp] theorem State.setPart_resd (s : State) (p : Nat) (v : Part) : (s.setPart p v).resd = s.resd := rfl
@[simp] theorem State.setPart_larder (s : State) (p : Nat) (v : Part) : (s.setPart p v).larder = s.larder := rfl
@[simp] theorem State.setPart_cmd (s : State) (p : Nat) (v : Part) : (s.setPart p v).cmd = s.cmd := rfl
@[simp] theorem State.setPart_fab (s : State) (p : Nat) (v : Part) : (s.setPart p v).fab = s.fab := rfl
@[simp] theorem State.setPart_mnt (s : State) (p : Nat) (v : Part) : (s.setPart p v).mnt = s.mnt := rfl
@[simp] theorem State.setPart_hrt (s : State) (p : Nat) (v : Part) : (s.setPart p v).hrt = s.hrt := rfl
@[simp] theorem State.setPart_pwr (s : State) (p : Nat) (v : Part) : (s.setPart p v).pwr = s.pwr := rfl
@[simp] theorem State.setPart_dev (s : State) (p : Nat) (v : Part) : (s.setPart p v).dev = s.dev := rfl
@[simp] theorem State.setPart_mem (s : State) (p : Nat) (v : Part) : (s.setPart p v).mem = s.mem := rfl
@[simp] theorem State.setPart_valid (s : State) (p : Nat) (v : Part) : (s.setPart p v).valid = s.valid := rfl
@[simp] theorem State.setPart_free (s : State) (p : Nat) (v : Part) : (s.setPart p v).free = s.free := rfl

/-! ### setRecord -/
@[simp] theorem State.setRecord_pending (s : State) (r : Nat) (v : Record) : (s.setRecord r v).pending = s.pending := rfl
@[simp] theorem State.setRecord_tiles (s : State) (r : Nat) (v : Record) : (s.setRecord r v).tiles = s.tiles := rfl
@[simp] theorem State.setRecord_rooms (s : State) (r : Nat) (v : Record) : (s.setRecord r v).rooms = s.rooms := rfl
@[simp] theorem State.setRecord_stks (s : State) (r : Nat) (v : Record) : (s.setRecord r v).stks = s.stks := rfl
@[simp] theorem State.setRecord_ports (s : State) (r : Nat) (v : Record) : (s.setRecord r v).ports = s.ports := rfl
@[simp] theorem State.setRecord_parts (s : State) (r : Nat) (v : Record) : (s.setRecord r v).parts = s.parts := rfl
@[simp] theorem State.setRecord_resd (s : State) (r : Nat) (v : Record) : (s.setRecord r v).resd = s.resd := rfl
@[simp] theorem State.setRecord_larder (s : State) (r : Nat) (v : Record) : (s.setRecord r v).larder = s.larder := rfl
@[simp] theorem State.setRecord_cmd (s : State) (r : Nat) (v : Record) : (s.setRecord r v).cmd = s.cmd := rfl
@[simp] theorem State.setRecord_fab (s : State) (r : Nat) (v : Record) : (s.setRecord r v).fab = s.fab := rfl
@[simp] theorem State.setRecord_mnt (s : State) (r : Nat) (v : Record) : (s.setRecord r v).mnt = s.mnt := rfl
@[simp] theorem State.setRecord_hrt (s : State) (r : Nat) (v : Record) : (s.setRecord r v).hrt = s.hrt := rfl
@[simp] theorem State.setRecord_pwr (s : State) (r : Nat) (v : Record) : (s.setRecord r v).pwr = s.pwr := rfl
@[simp] theorem State.setRecord_dev (s : State) (r : Nat) (v : Record) : (s.setRecord r v).dev = s.dev := rfl
@[simp] theorem State.setRecord_mem (s : State) (r : Nat) (v : Record) : (s.setRecord r v).mem = s.mem := rfl
@[simp] theorem State.setRecord_valid (s : State) (r : Nat) (v : Record) : (s.setRecord r v).valid = s.valid := rfl
@[simp] theorem State.setRecord_free (s : State) (r : Nat) (v : Record) : (s.setRecord r v).free = s.free := rfl

/-! ### setResDig -/
@[simp] theorem State.setResDig_pending (s : State) (r : Nat) (v : ResDig) : (s.setResDig r v).pending = s.pending := rfl
@[simp] theorem State.setResDig_tiles (s : State) (r : Nat) (v : ResDig) : (s.setResDig r v).tiles = s.tiles := rfl
@[simp] theorem State.setResDig_rooms (s : State) (r : Nat) (v : ResDig) : (s.setResDig r v).rooms = s.rooms := rfl
@[simp] theorem State.setResDig_stks (s : State) (r : Nat) (v : ResDig) : (s.setResDig r v).stks = s.stks := rfl
@[simp] theorem State.setResDig_ports (s : State) (r : Nat) (v : ResDig) : (s.setResDig r v).ports = s.ports := rfl
@[simp] theorem State.setResDig_parts (s : State) (r : Nat) (v : ResDig) : (s.setResDig r v).parts = s.parts := rfl
@[simp] theorem State.setResDig_recs (s : State) (r : Nat) (v : ResDig) : (s.setResDig r v).recs = s.recs := rfl
@[simp] theorem State.setResDig_larder (s : State) (r : Nat) (v : ResDig) : (s.setResDig r v).larder = s.larder := rfl
@[simp] theorem State.setResDig_cmd (s : State) (r : Nat) (v : ResDig) : (s.setResDig r v).cmd = s.cmd := rfl
@[simp] theorem State.setResDig_fab (s : State) (r : Nat) (v : ResDig) : (s.setResDig r v).fab = s.fab := rfl
@[simp] theorem State.setResDig_mnt (s : State) (r : Nat) (v : ResDig) : (s.setResDig r v).mnt = s.mnt := rfl
@[simp] theorem State.setResDig_hrt (s : State) (r : Nat) (v : ResDig) : (s.setResDig r v).hrt = s.hrt := rfl
@[simp] theorem State.setResDig_pwr (s : State) (r : Nat) (v : ResDig) : (s.setResDig r v).pwr = s.pwr := rfl
@[simp] theorem State.setResDig_dev (s : State) (r : Nat) (v : ResDig) : (s.setResDig r v).dev = s.dev := rfl
@[simp] theorem State.setResDig_mem (s : State) (r : Nat) (v : ResDig) : (s.setResDig r v).mem = s.mem := rfl
@[simp] theorem State.setResDig_valid (s : State) (r : Nat) (v : ResDig) : (s.setResDig r v).valid = s.valid := rfl
@[simp] theorem State.setResDig_free (s : State) (r : Nat) (v : ResDig) : (s.setResDig r v).free = s.free := rfl

/-! ### setLslot -/
@[simp] theorem State.setLslot_pending (s : State) (n : Nat) (v : LSlot) : (s.setLslot n v).pending = s.pending := rfl
@[simp] theorem State.setLslot_tiles (s : State) (n : Nat) (v : LSlot) : (s.setLslot n v).tiles = s.tiles := rfl
@[simp] theorem State.setLslot_rooms (s : State) (n : Nat) (v : LSlot) : (s.setLslot n v).rooms = s.rooms := rfl
@[simp] theorem State.setLslot_stks (s : State) (n : Nat) (v : LSlot) : (s.setLslot n v).stks = s.stks := rfl
@[simp] theorem State.setLslot_ports (s : State) (n : Nat) (v : LSlot) : (s.setLslot n v).ports = s.ports := rfl
@[simp] theorem State.setLslot_parts (s : State) (n : Nat) (v : LSlot) : (s.setLslot n v).parts = s.parts := rfl
@[simp] theorem State.setLslot_recs (s : State) (n : Nat) (v : LSlot) : (s.setLslot n v).recs = s.recs := rfl
@[simp] theorem State.setLslot_resd (s : State) (n : Nat) (v : LSlot) : (s.setLslot n v).resd = s.resd := rfl
@[simp] theorem State.setLslot_cmd (s : State) (n : Nat) (v : LSlot) : (s.setLslot n v).cmd = s.cmd := rfl
@[simp] theorem State.setLslot_fab (s : State) (n : Nat) (v : LSlot) : (s.setLslot n v).fab = s.fab := rfl
@[simp] theorem State.setLslot_mnt (s : State) (n : Nat) (v : LSlot) : (s.setLslot n v).mnt = s.mnt := rfl
@[simp] theorem State.setLslot_hrt (s : State) (n : Nat) (v : LSlot) : (s.setLslot n v).hrt = s.hrt := rfl
@[simp] theorem State.setLslot_pwr (s : State) (n : Nat) (v : LSlot) : (s.setLslot n v).pwr = s.pwr := rfl
@[simp] theorem State.setLslot_dev (s : State) (n : Nat) (v : LSlot) : (s.setLslot n v).dev = s.dev := rfl
@[simp] theorem State.setLslot_mem (s : State) (n : Nat) (v : LSlot) : (s.setLslot n v).mem = s.mem := rfl
@[simp] theorem State.setLslot_valid (s : State) (n : Nat) (v : LSlot) : (s.setLslot n v).valid = s.valid := rfl
@[simp] theorem State.setLslot_free (s : State) (n : Nat) (v : LSlot) : (s.setLslot n v).free = s.free := rfl

/-! ### modTile -/
@[simp] theorem State.modTile_pending (s : State) (t : Nat) (f : Tile → Tile) : (s.modTile t f).pending = s.pending := rfl
@[simp] theorem State.modTile_rooms (s : State) (t : Nat) (f : Tile → Tile) : (s.modTile t f).rooms = s.rooms := rfl
@[simp] theorem State.modTile_stks (s : State) (t : Nat) (f : Tile → Tile) : (s.modTile t f).stks = s.stks := rfl
@[simp] theorem State.modTile_ports (s : State) (t : Nat) (f : Tile → Tile) : (s.modTile t f).ports = s.ports := rfl
@[simp] theorem State.modTile_parts (s : State) (t : Nat) (f : Tile → Tile) : (s.modTile t f).parts = s.parts := rfl
@[simp] theorem State.modTile_recs (s : State) (t : Nat) (f : Tile → Tile) : (s.modTile t f).recs = s.recs := rfl
@[simp] theorem State.modTile_resd (s : State) (t : Nat) (f : Tile → Tile) : (s.modTile t f).resd = s.resd := rfl
@[simp] theorem State.modTile_larder (s : State) (t : Nat) (f : Tile → Tile) : (s.modTile t f).larder = s.larder := rfl
@[simp] theorem State.modTile_cmd (s : State) (t : Nat) (f : Tile → Tile) : (s.modTile t f).cmd = s.cmd := rfl
@[simp] theorem State.modTile_fab (s : State) (t : Nat) (f : Tile → Tile) : (s.modTile t f).fab = s.fab := rfl
@[simp] theorem State.modTile_mnt (s : State) (t : Nat) (f : Tile → Tile) : (s.modTile t f).mnt = s.mnt := rfl
@[simp] theorem State.modTile_hrt (s : State) (t : Nat) (f : Tile → Tile) : (s.modTile t f).hrt = s.hrt := rfl
@[simp] theorem State.modTile_pwr (s : State) (t : Nat) (f : Tile → Tile) : (s.modTile t f).pwr = s.pwr := rfl
@[simp] theorem State.modTile_dev (s : State) (t : Nat) (f : Tile → Tile) : (s.modTile t f).dev = s.dev := rfl
@[simp] theorem State.modTile_mem (s : State) (t : Nat) (f : Tile → Tile) : (s.modTile t f).mem = s.mem := rfl
@[simp] theorem State.modTile_valid (s : State) (t : Nat) (f : Tile → Tile) : (s.modTile t f).valid = s.valid := rfl
@[simp] theorem State.modTile_free (s : State) (t : Nat) (f : Tile → Tile) : (s.modTile t f).free = s.free := rfl

/-! ### modRoom -/
@[simp] theorem State.modRoom_pending (s : State) (r : Nat) (f : Room → Room) : (s.modRoom r f).pending = s.pending := rfl
@[simp] theorem State.modRoom_tiles (s : State) (r : Nat) (f : Room → Room) : (s.modRoom r f).tiles = s.tiles := rfl
@[simp] theorem State.modRoom_stks (s : State) (r : Nat) (f : Room → Room) : (s.modRoom r f).stks = s.stks := rfl
@[simp] theorem State.modRoom_ports (s : State) (r : Nat) (f : Room → Room) : (s.modRoom r f).ports = s.ports := rfl
@[simp] theorem State.modRoom_parts (s : State) (r : Nat) (f : Room → Room) : (s.modRoom r f).parts = s.parts := rfl
@[simp] theorem State.modRoom_recs (s : State) (r : Nat) (f : Room → Room) : (s.modRoom r f).recs = s.recs := rfl
@[simp] theorem State.modRoom_resd (s : State) (r : Nat) (f : Room → Room) : (s.modRoom r f).resd = s.resd := rfl
@[simp] theorem State.modRoom_larder (s : State) (r : Nat) (f : Room → Room) : (s.modRoom r f).larder = s.larder := rfl
@[simp] theorem State.modRoom_cmd (s : State) (r : Nat) (f : Room → Room) : (s.modRoom r f).cmd = s.cmd := rfl
@[simp] theorem State.modRoom_fab (s : State) (r : Nat) (f : Room → Room) : (s.modRoom r f).fab = s.fab := rfl
@[simp] theorem State.modRoom_mnt (s : State) (r : Nat) (f : Room → Room) : (s.modRoom r f).mnt = s.mnt := rfl
@[simp] theorem State.modRoom_hrt (s : State) (r : Nat) (f : Room → Room) : (s.modRoom r f).hrt = s.hrt := rfl
@[simp] theorem State.modRoom_pwr (s : State) (r : Nat) (f : Room → Room) : (s.modRoom r f).pwr = s.pwr := rfl
@[simp] theorem State.modRoom_dev (s : State) (r : Nat) (f : Room → Room) : (s.modRoom r f).dev = s.dev := rfl
@[simp] theorem State.modRoom_mem (s : State) (r : Nat) (f : Room → Room) : (s.modRoom r f).mem = s.mem := rfl
@[simp] theorem State.modRoom_valid (s : State) (r : Nat) (f : Room → Room) : (s.modRoom r f).valid = s.valid := rfl
@[simp] theorem State.modRoom_free (s : State) (r : Nat) (f : Room → Room) : (s.modRoom r f).free = s.free := rfl

/-! ### modStack -/
@[simp] theorem State.modStack_pending (s : State) (k : Nat) (f : Stack → Stack) : (s.modStack k f).pending = s.pending := rfl
@[simp] theorem State.modStack_tiles (s : State) (k : Nat) (f : Stack → Stack) : (s.modStack k f).tiles = s.tiles := rfl
@[simp] theorem State.modStack_rooms (s : State) (k : Nat) (f : Stack → Stack) : (s.modStack k f).rooms = s.rooms := rfl
@[simp] theorem State.modStack_ports (s : State) (k : Nat) (f : Stack → Stack) : (s.modStack k f).ports = s.ports := rfl
@[simp] theorem State.modStack_parts (s : State) (k : Nat) (f : Stack → Stack) : (s.modStack k f).parts = s.parts := rfl
@[simp] theorem State.modStack_recs (s : State) (k : Nat) (f : Stack → Stack) : (s.modStack k f).recs = s.recs := rfl
@[simp] theorem State.modStack_resd (s : State) (k : Nat) (f : Stack → Stack) : (s.modStack k f).resd = s.resd := rfl
@[simp] theorem State.modStack_larder (s : State) (k : Nat) (f : Stack → Stack) : (s.modStack k f).larder = s.larder := rfl
@[simp] theorem State.modStack_cmd (s : State) (k : Nat) (f : Stack → Stack) : (s.modStack k f).cmd = s.cmd := rfl
@[simp] theorem State.modStack_fab (s : State) (k : Nat) (f : Stack → Stack) : (s.modStack k f).fab = s.fab := rfl
@[simp] theorem State.modStack_mnt (s : State) (k : Nat) (f : Stack → Stack) : (s.modStack k f).mnt = s.mnt := rfl
@[simp] theorem State.modStack_hrt (s : State) (k : Nat) (f : Stack → Stack) : (s.modStack k f).hrt = s.hrt := rfl
@[simp] theorem State.modStack_pwr (s : State) (k : Nat) (f : Stack → Stack) : (s.modStack k f).pwr = s.pwr := rfl
@[simp] theorem State.modStack_dev (s : State) (k : Nat) (f : Stack → Stack) : (s.modStack k f).dev = s.dev := rfl
@[simp] theorem State.modStack_mem (s : State) (k : Nat) (f : Stack → Stack) : (s.modStack k f).mem = s.mem := rfl
@[simp] theorem State.modStack_valid (s : State) (k : Nat) (f : Stack → Stack) : (s.modStack k f).valid = s.valid := rfl
@[simp] theorem State.modStack_free (s : State) (k : Nat) (f : Stack → Stack) : (s.modStack k f).free = s.free := rfl

/-! ### modPort -/
@[simp] theorem State.modPort_pending (s : State) (n : Nat) (f : Port → Port) : (s.modPort n f).pending = s.pending := rfl
@[simp] theorem State.modPort_tiles (s : State) (n : Nat) (f : Port → Port) : (s.modPort n f).tiles = s.tiles := rfl
@[simp] theorem State.modPort_rooms (s : State) (n : Nat) (f : Port → Port) : (s.modPort n f).rooms = s.rooms := rfl
@[simp] theorem State.modPort_stks (s : State) (n : Nat) (f : Port → Port) : (s.modPort n f).stks = s.stks := rfl
@[simp] theorem State.modPort_parts (s : State) (n : Nat) (f : Port → Port) : (s.modPort n f).parts = s.parts := rfl
@[simp] theorem State.modPort_recs (s : State) (n : Nat) (f : Port → Port) : (s.modPort n f).recs = s.recs := rfl
@[simp] theorem State.modPort_resd (s : State) (n : Nat) (f : Port → Port) : (s.modPort n f).resd = s.resd := rfl
@[simp] theorem State.modPort_larder (s : State) (n : Nat) (f : Port → Port) : (s.modPort n f).larder = s.larder := rfl
@[simp] theorem State.modPort_cmd (s : State) (n : Nat) (f : Port → Port) : (s.modPort n f).cmd = s.cmd := rfl
@[simp] theorem State.modPort_fab (s : State) (n : Nat) (f : Port → Port) : (s.modPort n f).fab = s.fab := rfl
@[simp] theorem State.modPort_mnt (s : State) (n : Nat) (f : Port → Port) : (s.modPort n f).mnt = s.mnt := rfl
@[simp] theorem State.modPort_hrt (s : State) (n : Nat) (f : Port → Port) : (s.modPort n f).hrt = s.hrt := rfl
@[simp] theorem State.modPort_pwr (s : State) (n : Nat) (f : Port → Port) : (s.modPort n f).pwr = s.pwr := rfl
@[simp] theorem State.modPort_dev (s : State) (n : Nat) (f : Port → Port) : (s.modPort n f).dev = s.dev := rfl
@[simp] theorem State.modPort_mem (s : State) (n : Nat) (f : Port → Port) : (s.modPort n f).mem = s.mem := rfl
@[simp] theorem State.modPort_valid (s : State) (n : Nat) (f : Port → Port) : (s.modPort n f).valid = s.valid := rfl
@[simp] theorem State.modPort_free (s : State) (n : Nat) (f : Port → Port) : (s.modPort n f).free = s.free := rfl

/-! ### modPart -/
@[simp] theorem State.modPart_pending (s : State) (p : Nat) (f : Part → Part) : (s.modPart p f).pending = s.pending := rfl
@[simp] theorem State.modPart_tiles (s : State) (p : Nat) (f : Part → Part) : (s.modPart p f).tiles = s.tiles := rfl
@[simp] theorem State.modPart_rooms (s : State) (p : Nat) (f : Part → Part) : (s.modPart p f).rooms = s.rooms := rfl
@[simp] theorem State.modPart_stks (s : State) (p : Nat) (f : Part → Part) : (s.modPart p f).stks = s.stks := rfl
@[simp] theorem State.modPart_ports (s : State) (p : Nat) (f : Part → Part) : (s.modPart p f).ports = s.ports := rfl
@[simp] theorem State.modPart_recs (s : State) (p : Nat) (f : Part → Part) : (s.modPart p f).recs = s.recs := rfl
@[simp] theorem State.modPart_resd (s : State) (p : Nat) (f : Part → Part) : (s.modPart p f).resd = s.resd := rfl
@[simp] theorem State.modPart_larder (s : State) (p : Nat) (f : Part → Part) : (s.modPart p f).larder = s.larder := rfl
@[simp] theorem State.modPart_cmd (s : State) (p : Nat) (f : Part → Part) : (s.modPart p f).cmd = s.cmd := rfl
@[simp] theorem State.modPart_fab (s : State) (p : Nat) (f : Part → Part) : (s.modPart p f).fab = s.fab := rfl
@[simp] theorem State.modPart_mnt (s : State) (p : Nat) (f : Part → Part) : (s.modPart p f).mnt = s.mnt := rfl
@[simp] theorem State.modPart_hrt (s : State) (p : Nat) (f : Part → Part) : (s.modPart p f).hrt = s.hrt := rfl
@[simp] theorem State.modPart_pwr (s : State) (p : Nat) (f : Part → Part) : (s.modPart p f).pwr = s.pwr := rfl
@[simp] theorem State.modPart_dev (s : State) (p : Nat) (f : Part → Part) : (s.modPart p f).dev = s.dev := rfl
@[simp] theorem State.modPart_mem (s : State) (p : Nat) (f : Part → Part) : (s.modPart p f).mem = s.mem := rfl
@[simp] theorem State.modPart_valid (s : State) (p : Nat) (f : Part → Part) : (s.modPart p f).valid = s.valid := rfl
@[simp] theorem State.modPart_free (s : State) (p : Nat) (f : Part → Part) : (s.modPart p f).free = s.free := rfl

/-! ### modRecord -/
@[simp] theorem State.modRecord_pending (s : State) (r : Nat) (f : Record → Record) : (s.modRecord r f).pending = s.pending := rfl
@[simp] theorem State.modRecord_tiles (s : State) (r : Nat) (f : Record → Record) : (s.modRecord r f).tiles = s.tiles := rfl
@[simp] theorem State.modRecord_rooms (s : State) (r : Nat) (f : Record → Record) : (s.modRecord r f).rooms = s.rooms := rfl
@[simp] theorem State.modRecord_stks (s : State) (r : Nat) (f : Record → Record) : (s.modRecord r f).stks = s.stks := rfl
@[simp] theorem State.modRecord_ports (s : State) (r : Nat) (f : Record → Record) : (s.modRecord r f).ports = s.ports := rfl
@[simp] theorem State.modRecord_parts (s : State) (r : Nat) (f : Record → Record) : (s.modRecord r f).parts = s.parts := rfl
@[simp] theorem State.modRecord_resd (s : State) (r : Nat) (f : Record → Record) : (s.modRecord r f).resd = s.resd := rfl
@[simp] theorem State.modRecord_larder (s : State) (r : Nat) (f : Record → Record) : (s.modRecord r f).larder = s.larder := rfl
@[simp] theorem State.modRecord_cmd (s : State) (r : Nat) (f : Record → Record) : (s.modRecord r f).cmd = s.cmd := rfl
@[simp] theorem State.modRecord_fab (s : State) (r : Nat) (f : Record → Record) : (s.modRecord r f).fab = s.fab := rfl
@[simp] theorem State.modRecord_mnt (s : State) (r : Nat) (f : Record → Record) : (s.modRecord r f).mnt = s.mnt := rfl
@[simp] theorem State.modRecord_hrt (s : State) (r : Nat) (f : Record → Record) : (s.modRecord r f).hrt = s.hrt := rfl
@[simp] theorem State.modRecord_pwr (s : State) (r : Nat) (f : Record → Record) : (s.modRecord r f).pwr = s.pwr := rfl
@[simp] theorem State.modRecord_dev (s : State) (r : Nat) (f : Record → Record) : (s.modRecord r f).dev = s.dev := rfl
@[simp] theorem State.modRecord_mem (s : State) (r : Nat) (f : Record → Record) : (s.modRecord r f).mem = s.mem := rfl
@[simp] theorem State.modRecord_valid (s : State) (r : Nat) (f : Record → Record) : (s.modRecord r f).valid = s.valid := rfl
@[simp] theorem State.modRecord_free (s : State) (r : Nat) (f : Record → Record) : (s.modRecord r f).free = s.free := rfl

/-! ### modCmd -/
@[simp] theorem State.modCmd_pending (s : State) (f : Cmd → Cmd) : (s.modCmd f).pending = s.pending := rfl
@[simp] theorem State.modCmd_tiles (s : State) (f : Cmd → Cmd) : (s.modCmd f).tiles = s.tiles := rfl
@[simp] theorem State.modCmd_rooms (s : State) (f : Cmd → Cmd) : (s.modCmd f).rooms = s.rooms := rfl
@[simp] theorem State.modCmd_stks (s : State) (f : Cmd → Cmd) : (s.modCmd f).stks = s.stks := rfl
@[simp] theorem State.modCmd_ports (s : State) (f : Cmd → Cmd) : (s.modCmd f).ports = s.ports := rfl
@[simp] theorem State.modCmd_parts (s : State) (f : Cmd → Cmd) : (s.modCmd f).parts = s.parts := rfl
@[simp] theorem State.modCmd_recs (s : State) (f : Cmd → Cmd) : (s.modCmd f).recs = s.recs := rfl
@[simp] theorem State.modCmd_resd (s : State) (f : Cmd → Cmd) : (s.modCmd f).resd = s.resd := rfl
@[simp] theorem State.modCmd_larder (s : State) (f : Cmd → Cmd) : (s.modCmd f).larder = s.larder := rfl
@[simp] theorem State.modCmd_fab (s : State) (f : Cmd → Cmd) : (s.modCmd f).fab = s.fab := rfl
@[simp] theorem State.modCmd_mnt (s : State) (f : Cmd → Cmd) : (s.modCmd f).mnt = s.mnt := rfl
@[simp] theorem State.modCmd_hrt (s : State) (f : Cmd → Cmd) : (s.modCmd f).hrt = s.hrt := rfl
@[simp] theorem State.modCmd_pwr (s : State) (f : Cmd → Cmd) : (s.modCmd f).pwr = s.pwr := rfl
@[simp] theorem State.modCmd_dev (s : State) (f : Cmd → Cmd) : (s.modCmd f).dev = s.dev := rfl
@[simp] theorem State.modCmd_mem (s : State) (f : Cmd → Cmd) : (s.modCmd f).mem = s.mem := rfl
@[simp] theorem State.modCmd_valid (s : State) (f : Cmd → Cmd) : (s.modCmd f).valid = s.valid := rfl
@[simp] theorem State.modCmd_free (s : State) (f : Cmd → Cmd) : (s.modCmd f).free = s.free := rfl

/-! ### setFn -/
@[simp] theorem State.setFn_pending (s : State) (hp fn : Nat) (v : Fn) : (s.setFn hp fn v).pending = s.pending := rfl
@[simp] theorem State.setFn_tiles (s : State) (hp fn : Nat) (v : Fn) : (s.setFn hp fn v).tiles = s.tiles := rfl
@[simp] theorem State.setFn_rooms (s : State) (hp fn : Nat) (v : Fn) : (s.setFn hp fn v).rooms = s.rooms := rfl
@[simp] theorem State.setFn_stks (s : State) (hp fn : Nat) (v : Fn) : (s.setFn hp fn v).stks = s.stks := rfl
@[simp] theorem State.setFn_ports (s : State) (hp fn : Nat) (v : Fn) : (s.setFn hp fn v).ports = s.ports := rfl
@[simp] theorem State.setFn_parts (s : State) (hp fn : Nat) (v : Fn) : (s.setFn hp fn v).parts = s.parts := rfl
@[simp] theorem State.setFn_recs (s : State) (hp fn : Nat) (v : Fn) : (s.setFn hp fn v).recs = s.recs := rfl
@[simp] theorem State.setFn_resd (s : State) (hp fn : Nat) (v : Fn) : (s.setFn hp fn v).resd = s.resd := rfl
@[simp] theorem State.setFn_larder (s : State) (hp fn : Nat) (v : Fn) : (s.setFn hp fn v).larder = s.larder := rfl
@[simp] theorem State.setFn_fab (s : State) (hp fn : Nat) (v : Fn) : (s.setFn hp fn v).fab = s.fab := rfl
@[simp] theorem State.setFn_mnt (s : State) (hp fn : Nat) (v : Fn) : (s.setFn hp fn v).mnt = s.mnt := rfl
@[simp] theorem State.setFn_hrt (s : State) (hp fn : Nat) (v : Fn) : (s.setFn hp fn v).hrt = s.hrt := rfl
@[simp] theorem State.setFn_pwr (s : State) (hp fn : Nat) (v : Fn) : (s.setFn hp fn v).pwr = s.pwr := rfl
@[simp] theorem State.setFn_dev (s : State) (hp fn : Nat) (v : Fn) : (s.setFn hp fn v).dev = s.dev := rfl
@[simp] theorem State.setFn_mem (s : State) (hp fn : Nat) (v : Fn) : (s.setFn hp fn v).mem = s.mem := rfl
@[simp] theorem State.setFn_valid (s : State) (hp fn : Nat) (v : Fn) : (s.setFn hp fn v).valid = s.valid := rfl
@[simp] theorem State.setFn_free (s : State) (hp fn : Nat) (v : Fn) : (s.setFn hp fn v).free = s.free := rfl

/-! ### modFn -/
@[simp] theorem State.modFn_pending (s : State) (hp fn : Nat) (f : Fn → Fn) : (s.modFn hp fn f).pending = s.pending := rfl
@[simp] theorem State.modFn_tiles (s : State) (hp fn : Nat) (f : Fn → Fn) : (s.modFn hp fn f).tiles = s.tiles := rfl
@[simp] theorem State.modFn_rooms (s : State) (hp fn : Nat) (f : Fn → Fn) : (s.modFn hp fn f).rooms = s.rooms := rfl
@[simp] theorem State.modFn_stks (s : State) (hp fn : Nat) (f : Fn → Fn) : (s.modFn hp fn f).stks = s.stks := rfl
@[simp] theorem State.modFn_ports (s : State) (hp fn : Nat) (f : Fn → Fn) : (s.modFn hp fn f).ports = s.ports := rfl
@[simp] theorem State.modFn_parts (s : State) (hp fn : Nat) (f : Fn → Fn) : (s.modFn hp fn f).parts = s.parts := rfl
@[simp] theorem State.modFn_recs (s : State) (hp fn : Nat) (f : Fn → Fn) : (s.modFn hp fn f).recs = s.recs := rfl
@[simp] theorem State.modFn_resd (s : State) (hp fn : Nat) (f : Fn → Fn) : (s.modFn hp fn f).resd = s.resd := rfl
@[simp] theorem State.modFn_larder (s : State) (hp fn : Nat) (f : Fn → Fn) : (s.modFn hp fn f).larder = s.larder := rfl
@[simp] theorem State.modFn_fab (s : State) (hp fn : Nat) (f : Fn → Fn) : (s.modFn hp fn f).fab = s.fab := rfl
@[simp] theorem State.modFn_mnt (s : State) (hp fn : Nat) (f : Fn → Fn) : (s.modFn hp fn f).mnt = s.mnt := rfl
@[simp] theorem State.modFn_hrt (s : State) (hp fn : Nat) (f : Fn → Fn) : (s.modFn hp fn f).hrt = s.hrt := rfl
@[simp] theorem State.modFn_pwr (s : State) (hp fn : Nat) (f : Fn → Fn) : (s.modFn hp fn f).pwr = s.pwr := rfl
@[simp] theorem State.modFn_dev (s : State) (hp fn : Nat) (f : Fn → Fn) : (s.modFn hp fn f).dev = s.dev := rfl
@[simp] theorem State.modFn_mem (s : State) (hp fn : Nat) (f : Fn → Fn) : (s.modFn hp fn f).mem = s.mem := rfl
@[simp] theorem State.modFn_valid (s : State) (hp fn : Nat) (f : Fn → Fn) : (s.modFn hp fn f).valid = s.valid := rfl
@[simp] theorem State.modFn_free (s : State) (hp fn : Nat) (f : Fn → Fn) : (s.modFn hp fn f).free = s.free := rfl

/-! ### modHport -/
@[simp] theorem State.modHport_pending (s : State) (hp : Nat) (f : HostPort → HostPort) : (s.modHport hp f).pending = s.pending := rfl
@[simp] theorem State.modHport_tiles (s : State) (hp : Nat) (f : HostPort → HostPort) : (s.modHport hp f).tiles = s.tiles := rfl
@[simp] theorem State.modHport_rooms (s : State) (hp : Nat) (f : HostPort → HostPort) : (s.modHport hp f).rooms = s.rooms := rfl
@[simp] theorem State.modHport_stks (s : State) (hp : Nat) (f : HostPort → HostPort) : (s.modHport hp f).stks = s.stks := rfl
@[simp] theorem State.modHport_ports (s : State) (hp : Nat) (f : HostPort → HostPort) : (s.modHport hp f).ports = s.ports := rfl
@[simp] theorem State.modHport_parts (s : State) (hp : Nat) (f : HostPort → HostPort) : (s.modHport hp f).parts = s.parts := rfl
@[simp] theorem State.modHport_recs (s : State) (hp : Nat) (f : HostPort → HostPort) : (s.modHport hp f).recs = s.recs := rfl
@[simp] theorem State.modHport_resd (s : State) (hp : Nat) (f : HostPort → HostPort) : (s.modHport hp f).resd = s.resd := rfl
@[simp] theorem State.modHport_larder (s : State) (hp : Nat) (f : HostPort → HostPort) : (s.modHport hp f).larder = s.larder := rfl
@[simp] theorem State.modHport_fab (s : State) (hp : Nat) (f : HostPort → HostPort) : (s.modHport hp f).fab = s.fab := rfl
@[simp] theorem State.modHport_mnt (s : State) (hp : Nat) (f : HostPort → HostPort) : (s.modHport hp f).mnt = s.mnt := rfl
@[simp] theorem State.modHport_hrt (s : State) (hp : Nat) (f : HostPort → HostPort) : (s.modHport hp f).hrt = s.hrt := rfl
@[simp] theorem State.modHport_pwr (s : State) (hp : Nat) (f : HostPort → HostPort) : (s.modHport hp f).pwr = s.pwr := rfl
@[simp] theorem State.modHport_dev (s : State) (hp : Nat) (f : HostPort → HostPort) : (s.modHport hp f).dev = s.dev := rfl
@[simp] theorem State.modHport_mem (s : State) (hp : Nat) (f : HostPort → HostPort) : (s.modHport hp f).mem = s.mem := rfl
@[simp] theorem State.modHport_valid (s : State) (hp : Nat) (f : HostPort → HostPort) : (s.modHport hp f).valid = s.valid := rfl
@[simp] theorem State.modHport_free (s : State) (hp : Nat) (f : HostPort → HostPort) : (s.modHport hp f).free = s.free := rfl

/-! ### modFab -/
@[simp] theorem State.modFab_pending (s : State) (f : Fab → Fab) : (s.modFab f).pending = s.pending := rfl
@[simp] theorem State.modFab_tiles (s : State) (f : Fab → Fab) : (s.modFab f).tiles = s.tiles := rfl
@[simp] theorem State.modFab_rooms (s : State) (f : Fab → Fab) : (s.modFab f).rooms = s.rooms := rfl
@[simp] theorem State.modFab_stks (s : State) (f : Fab → Fab) : (s.modFab f).stks = s.stks := rfl
@[simp] theorem State.modFab_ports (s : State) (f : Fab → Fab) : (s.modFab f).ports = s.ports := rfl
@[simp] theorem State.modFab_parts (s : State) (f : Fab → Fab) : (s.modFab f).parts = s.parts := rfl
@[simp] theorem State.modFab_recs (s : State) (f : Fab → Fab) : (s.modFab f).recs = s.recs := rfl
@[simp] theorem State.modFab_resd (s : State) (f : Fab → Fab) : (s.modFab f).resd = s.resd := rfl
@[simp] theorem State.modFab_larder (s : State) (f : Fab → Fab) : (s.modFab f).larder = s.larder := rfl
@[simp] theorem State.modFab_cmd (s : State) (f : Fab → Fab) : (s.modFab f).cmd = s.cmd := rfl
@[simp] theorem State.modFab_mnt (s : State) (f : Fab → Fab) : (s.modFab f).mnt = s.mnt := rfl
@[simp] theorem State.modFab_hrt (s : State) (f : Fab → Fab) : (s.modFab f).hrt = s.hrt := rfl
@[simp] theorem State.modFab_pwr (s : State) (f : Fab → Fab) : (s.modFab f).pwr = s.pwr := rfl
@[simp] theorem State.modFab_dev (s : State) (f : Fab → Fab) : (s.modFab f).dev = s.dev := rfl
@[simp] theorem State.modFab_mem (s : State) (f : Fab → Fab) : (s.modFab f).mem = s.mem := rfl
@[simp] theorem State.modFab_valid (s : State) (f : Fab → Fab) : (s.modFab f).valid = s.valid := rfl
@[simp] theorem State.modFab_free (s : State) (f : Fab → Fab) : (s.modFab f).free = s.free := rfl

/-! ### modMnt -/
@[simp] theorem State.modMnt_pending (s : State) (f : Mnt → Mnt) : (s.modMnt f).pending = s.pending := rfl
@[simp] theorem State.modMnt_tiles (s : State) (f : Mnt → Mnt) : (s.modMnt f).tiles = s.tiles := rfl
@[simp] theorem State.modMnt_rooms (s : State) (f : Mnt → Mnt) : (s.modMnt f).rooms = s.rooms := rfl
@[simp] theorem State.modMnt_stks (s : State) (f : Mnt → Mnt) : (s.modMnt f).stks = s.stks := rfl
@[simp] theorem State.modMnt_ports (s : State) (f : Mnt → Mnt) : (s.modMnt f).ports = s.ports := rfl
@[simp] theorem State.modMnt_parts (s : State) (f : Mnt → Mnt) : (s.modMnt f).parts = s.parts := rfl
@[simp] theorem State.modMnt_recs (s : State) (f : Mnt → Mnt) : (s.modMnt f).recs = s.recs := rfl
@[simp] theorem State.modMnt_resd (s : State) (f : Mnt → Mnt) : (s.modMnt f).resd = s.resd := rfl
@[simp] theorem State.modMnt_larder (s : State) (f : Mnt → Mnt) : (s.modMnt f).larder = s.larder := rfl
@[simp] theorem State.modMnt_cmd (s : State) (f : Mnt → Mnt) : (s.modMnt f).cmd = s.cmd := rfl
@[simp] theorem State.modMnt_fab (s : State) (f : Mnt → Mnt) : (s.modMnt f).fab = s.fab := rfl
@[simp] theorem State.modMnt_hrt (s : State) (f : Mnt → Mnt) : (s.modMnt f).hrt = s.hrt := rfl
@[simp] theorem State.modMnt_pwr (s : State) (f : Mnt → Mnt) : (s.modMnt f).pwr = s.pwr := rfl
@[simp] theorem State.modMnt_dev (s : State) (f : Mnt → Mnt) : (s.modMnt f).dev = s.dev := rfl
@[simp] theorem State.modMnt_mem (s : State) (f : Mnt → Mnt) : (s.modMnt f).mem = s.mem := rfl
@[simp] theorem State.modMnt_valid (s : State) (f : Mnt → Mnt) : (s.modMnt f).valid = s.valid := rfl
@[simp] theorem State.modMnt_free (s : State) (f : Mnt → Mnt) : (s.modMnt f).free = s.free := rfl

/-! ### modHrt -/
@[simp] theorem State.modHrt_pending (s : State) (f : Hearth → Hearth) : (s.modHrt f).pending = s.pending := rfl
@[simp] theorem State.modHrt_tiles (s : State) (f : Hearth → Hearth) : (s.modHrt f).tiles = s.tiles := rfl
@[simp] theorem State.modHrt_rooms (s : State) (f : Hearth → Hearth) : (s.modHrt f).rooms = s.rooms := rfl
@[simp] theorem State.modHrt_stks (s : State) (f : Hearth → Hearth) : (s.modHrt f).stks = s.stks := rfl
@[simp] theorem State.modHrt_ports (s : State) (f : Hearth → Hearth) : (s.modHrt f).ports = s.ports := rfl
@[simp] theorem State.modHrt_parts (s : State) (f : Hearth → Hearth) : (s.modHrt f).parts = s.parts := rfl
@[simp] theorem State.modHrt_recs (s : State) (f : Hearth → Hearth) : (s.modHrt f).recs = s.recs := rfl
@[simp] theorem State.modHrt_resd (s : State) (f : Hearth → Hearth) : (s.modHrt f).resd = s.resd := rfl
@[simp] theorem State.modHrt_larder (s : State) (f : Hearth → Hearth) : (s.modHrt f).larder = s.larder := rfl
@[simp] theorem State.modHrt_cmd (s : State) (f : Hearth → Hearth) : (s.modHrt f).cmd = s.cmd := rfl
@[simp] theorem State.modHrt_fab (s : State) (f : Hearth → Hearth) : (s.modHrt f).fab = s.fab := rfl
@[simp] theorem State.modHrt_mnt (s : State) (f : Hearth → Hearth) : (s.modHrt f).mnt = s.mnt := rfl
@[simp] theorem State.modHrt_pwr (s : State) (f : Hearth → Hearth) : (s.modHrt f).pwr = s.pwr := rfl
@[simp] theorem State.modHrt_dev (s : State) (f : Hearth → Hearth) : (s.modHrt f).dev = s.dev := rfl
@[simp] theorem State.modHrt_mem (s : State) (f : Hearth → Hearth) : (s.modHrt f).mem = s.mem := rfl
@[simp] theorem State.modHrt_valid (s : State) (f : Hearth → Hearth) : (s.modHrt f).valid = s.valid := rfl
@[simp] theorem State.modHrt_free (s : State) (f : Hearth → Hearth) : (s.modHrt f).free = s.free := rfl

/-! ### modPwr -/
@[simp] theorem State.modPwr_pending (s : State) (f : Pwr → Pwr) : (s.modPwr f).pending = s.pending := rfl
@[simp] theorem State.modPwr_tiles (s : State) (f : Pwr → Pwr) : (s.modPwr f).tiles = s.tiles := rfl
@[simp] theorem State.modPwr_rooms (s : State) (f : Pwr → Pwr) : (s.modPwr f).rooms = s.rooms := rfl
@[simp] theorem State.modPwr_stks (s : State) (f : Pwr → Pwr) : (s.modPwr f).stks = s.stks := rfl
@[simp] theorem State.modPwr_ports (s : State) (f : Pwr → Pwr) : (s.modPwr f).ports = s.ports := rfl
@[simp] theorem State.modPwr_parts (s : State) (f : Pwr → Pwr) : (s.modPwr f).parts = s.parts := rfl
@[simp] theorem State.modPwr_recs (s : State) (f : Pwr → Pwr) : (s.modPwr f).recs = s.recs := rfl
@[simp] theorem State.modPwr_resd (s : State) (f : Pwr → Pwr) : (s.modPwr f).resd = s.resd := rfl
@[simp] theorem State.modPwr_larder (s : State) (f : Pwr → Pwr) : (s.modPwr f).larder = s.larder := rfl
@[simp] theorem State.modPwr_cmd (s : State) (f : Pwr → Pwr) : (s.modPwr f).cmd = s.cmd := rfl
@[simp] theorem State.modPwr_fab (s : State) (f : Pwr → Pwr) : (s.modPwr f).fab = s.fab := rfl
@[simp] theorem State.modPwr_mnt (s : State) (f : Pwr → Pwr) : (s.modPwr f).mnt = s.mnt := rfl
@[simp] theorem State.modPwr_hrt (s : State) (f : Pwr → Pwr) : (s.modPwr f).hrt = s.hrt := rfl
@[simp] theorem State.modPwr_dev (s : State) (f : Pwr → Pwr) : (s.modPwr f).dev = s.dev := rfl
@[simp] theorem State.modPwr_mem (s : State) (f : Pwr → Pwr) : (s.modPwr f).mem = s.mem := rfl
@[simp] theorem State.modPwr_valid (s : State) (f : Pwr → Pwr) : (s.modPwr f).valid = s.valid := rfl
@[simp] theorem State.modPwr_free (s : State) (f : Pwr → Pwr) : (s.modPwr f).free = s.free := rfl

/-! ### modDev -/
@[simp] theorem State.modDev_pending (s : State) (f : Dev → Dev) : (s.modDev f).pending = s.pending := rfl
@[simp] theorem State.modDev_tiles (s : State) (f : Dev → Dev) : (s.modDev f).tiles = s.tiles := rfl
@[simp] theorem State.modDev_rooms (s : State) (f : Dev → Dev) : (s.modDev f).rooms = s.rooms := rfl
@[simp] theorem State.modDev_stks (s : State) (f : Dev → Dev) : (s.modDev f).stks = s.stks := rfl
@[simp] theorem State.modDev_ports (s : State) (f : Dev → Dev) : (s.modDev f).ports = s.ports := rfl
@[simp] theorem State.modDev_parts (s : State) (f : Dev → Dev) : (s.modDev f).parts = s.parts := rfl
@[simp] theorem State.modDev_recs (s : State) (f : Dev → Dev) : (s.modDev f).recs = s.recs := rfl
@[simp] theorem State.modDev_resd (s : State) (f : Dev → Dev) : (s.modDev f).resd = s.resd := rfl
@[simp] theorem State.modDev_larder (s : State) (f : Dev → Dev) : (s.modDev f).larder = s.larder := rfl
@[simp] theorem State.modDev_cmd (s : State) (f : Dev → Dev) : (s.modDev f).cmd = s.cmd := rfl
@[simp] theorem State.modDev_fab (s : State) (f : Dev → Dev) : (s.modDev f).fab = s.fab := rfl
@[simp] theorem State.modDev_mnt (s : State) (f : Dev → Dev) : (s.modDev f).mnt = s.mnt := rfl
@[simp] theorem State.modDev_hrt (s : State) (f : Dev → Dev) : (s.modDev f).hrt = s.hrt := rfl
@[simp] theorem State.modDev_pwr (s : State) (f : Dev → Dev) : (s.modDev f).pwr = s.pwr := rfl
@[simp] theorem State.modDev_mem (s : State) (f : Dev → Dev) : (s.modDev f).mem = s.mem := rfl
@[simp] theorem State.modDev_valid (s : State) (f : Dev → Dev) : (s.modDev f).valid = s.valid := rfl
@[simp] theorem State.modDev_free (s : State) (f : Dev → Dev) : (s.modDev f).free = s.free := rfl

/-! ### Reading a tile back -/
@[simp] theorem State.tile_setTile_self (s : State) (k : Nat) (v : Tile) : (s.setTile k v).tile k = v := SMap.get_put_self _ _ _ _
theorem State.tile_setTile_ne (s : State) {k j : Nat} (v : Tile) (h : j ≠ k) : (s.setTile k v).tile j = s.tile j := SMap.get_put_ne _ _ _ h
@[simp] theorem State.tile_modTile_self (s : State) (k : Nat) (f : Tile → Tile) : (s.modTile k f).tile k = f (s.tile k) := SMap.get_put_self _ _ _ _
theorem State.tile_modTile_ne (s : State) {k j : Nat} (f : Tile → Tile) (h : j ≠ k) : (s.modTile k f).tile j = s.tile j := SMap.get_put_ne _ _ _ h

/-! ### Reading a room back -/
@[simp] theorem State.room_setRoom_self (s : State) (k : Nat) (v : Room) : (s.setRoom k v).room k = v := SMap.get_put_self _ _ _ _
theorem State.room_setRoom_ne (s : State) {k j : Nat} (v : Room) (h : j ≠ k) : (s.setRoom k v).room j = s.room j := SMap.get_put_ne _ _ _ h
@[simp] theorem State.room_modRoom_self (s : State) (k : Nat) (f : Room → Room) : (s.modRoom k f).room k = f (s.room k) := SMap.get_put_self _ _ _ _
theorem State.room_modRoom_ne (s : State) {k j : Nat} (f : Room → Room) (h : j ≠ k) : (s.modRoom k f).room j = s.room j := SMap.get_put_ne _ _ _ h

/-! ### Reading a stack back -/
@[simp] theorem State.stack_setStack_self (s : State) (k : Nat) (v : Stack) : (s.setStack k v).stack k = v := SMap.get_put_self _ _ _ _
theorem State.stack_setStack_ne (s : State) {k j : Nat} (v : Stack) (h : j ≠ k) : (s.setStack k v).stack j = s.stack j := SMap.get_put_ne _ _ _ h
@[simp] theorem State.stack_modStack_self (s : State) (k : Nat) (f : Stack → Stack) : (s.modStack k f).stack k = f (s.stack k) := SMap.get_put_self _ _ _ _
theorem State.stack_modStack_ne (s : State) {k j : Nat} (f : Stack → Stack) (h : j ≠ k) : (s.modStack k f).stack j = s.stack j := SMap.get_put_ne _ _ _ h

/-! ### Reading a port back -/
@[simp] theorem State.port_setPort_self (s : State) (k : Nat) (v : Port) : (s.setPort k v).port k = v := SMap.get_put_self _ _ _ _
theorem State.port_setPort_ne (s : State) {k j : Nat} (v : Port) (h : j ≠ k) : (s.setPort k v).port j = s.port j := SMap.get_put_ne _ _ _ h
@[simp] theorem State.port_modPort_self (s : State) (k : Nat) (f : Port → Port) : (s.modPort k f).port k = f (s.port k) := SMap.get_put_self _ _ _ _
theorem State.port_modPort_ne (s : State) {k j : Nat} (f : Port → Port) (h : j ≠ k) : (s.modPort k f).port j = s.port j := SMap.get_put_ne _ _ _ h

/-! ### Reading a part back -/
@[simp] theorem State.part_setPart_self (s : State) (k : Nat) (v : Part) : (s.setPart k v).part k = v := SMap.get_put_self _ _ _ _
theorem State.part_setPart_ne (s : State) {k j : Nat} (v : Part) (h : j ≠ k) : (s.setPart k v).part j = s.part j := SMap.get_put_ne _ _ _ h
@[simp] theorem State.part_modPart_self (s : State) (k : Nat) (f : Part → Part) : (s.modPart k f).part k = f (s.part k) := SMap.get_put_self _ _ _ _
theorem State.part_modPart_ne (s : State) {k j : Nat} (f : Part → Part) (h : j ≠ k) : (s.modPart k f).part j = s.part j := SMap.get_put_ne _ _ _ h

/-! ### Reading a record back -/
@[simp] theorem State.record_setRecord_self (s : State) (k : Nat) (v : Record) : (s.setRecord k v).record k = v := SMap.get_put_self _ _ _ _
theorem State.record_setRecord_ne (s : State) {k j : Nat} (v : Record) (h : j ≠ k) : (s.setRecord k v).record j = s.record j := SMap.get_put_ne _ _ _ h
@[simp] theorem State.record_modRecord_self (s : State) (k : Nat) (f : Record → Record) : (s.modRecord k f).record k = f (s.record k) := SMap.get_put_self _ _ _ _
theorem State.record_modRecord_ne (s : State) {k j : Nat} (f : Record → Record) (h : j ≠ k) : (s.modRecord k f).record j = s.record j := SMap.get_put_ne _ _ _ h

/-! ### A unit of one kind is not touched by an update of another -/
@[simp] theorem State.room_setTile (s : State) (t : Nat) (v : Tile) (j : Nat) : (s.setTile t v).room j = s.room j := rfl
@[simp] theorem State.stack_setTile (s : State) (t : Nat) (v : Tile) (j : Nat) : (s.setTile t v).stack j = s.stack j := rfl
@[simp] theorem State.port_setTile (s : State) (t : Nat) (v : Tile) (j : Nat) : (s.setTile t v).port j = s.port j := rfl
@[simp] theorem State.part_setTile (s : State) (t : Nat) (v : Tile) (j : Nat) : (s.setTile t v).part j = s.part j := rfl
@[simp] theorem State.record_setTile (s : State) (t : Nat) (v : Tile) (j : Nat) : (s.setTile t v).record j = s.record j := rfl
@[simp] theorem State.tile_setRoom (s : State) (r : Nat) (v : Room) (j : Nat) : (s.setRoom r v).tile j = s.tile j := rfl
@[simp] theorem State.stack_setRoom (s : State) (r : Nat) (v : Room) (j : Nat) : (s.setRoom r v).stack j = s.stack j := rfl
@[simp] theorem State.port_setRoom (s : State) (r : Nat) (v : Room) (j : Nat) : (s.setRoom r v).port j = s.port j := rfl
@[simp] theorem State.part_setRoom (s : State) (r : Nat) (v : Room) (j : Nat) : (s.setRoom r v).part j = s.part j := rfl
@[simp] theorem State.record_setRoom (s : State) (r : Nat) (v : Room) (j : Nat) : (s.setRoom r v).record j = s.record j := rfl
@[simp] theorem State.tile_setStack (s : State) (k : Nat) (v : Stack) (j : Nat) : (s.setStack k v).tile j = s.tile j := rfl
@[simp] theorem State.room_setStack (s : State) (k : Nat) (v : Stack) (j : Nat) : (s.setStack k v).room j = s.room j := rfl
@[simp] theorem State.port_setStack (s : State) (k : Nat) (v : Stack) (j : Nat) : (s.setStack k v).port j = s.port j := rfl
@[simp] theorem State.part_setStack (s : State) (k : Nat) (v : Stack) (j : Nat) : (s.setStack k v).part j = s.part j := rfl
@[simp] theorem State.record_setStack (s : State) (k : Nat) (v : Stack) (j : Nat) : (s.setStack k v).record j = s.record j := rfl
@[simp] theorem State.tile_setPort (s : State) (n : Nat) (v : Port) (j : Nat) : (s.setPort n v).tile j = s.tile j := rfl
@[simp] theorem State.room_setPort (s : State) (n : Nat) (v : Port) (j : Nat) : (s.setPort n v).room j = s.room j := rfl
@[simp] theorem State.stack_setPort (s : State) (n : Nat) (v : Port) (j : Nat) : (s.setPort n v).stack j = s.stack j := rfl
@[simp] theorem State.part_setPort (s : State) (n : Nat) (v : Port) (j : Nat) : (s.setPort n v).part j = s.part j := rfl
@[simp] theorem State.record_setPort (s : State) (n : Nat) (v : Port) (j : Nat) : (s.setPort n v).record j = s.record j := rfl
@[simp] theorem State.tile_setPart (s : State) (p : Nat) (v : Part) (j : Nat) : (s.setPart p v).tile j = s.tile j := rfl
@[simp] theorem State.room_setPart (s : State) (p : Nat) (v : Part) (j : Nat) : (s.setPart p v).room j = s.room j := rfl
@[simp] theorem State.stack_setPart (s : State) (p : Nat) (v : Part) (j : Nat) : (s.setPart p v).stack j = s.stack j := rfl
@[simp] theorem State.port_setPart (s : State) (p : Nat) (v : Part) (j : Nat) : (s.setPart p v).port j = s.port j := rfl
@[simp] theorem State.record_setPart (s : State) (p : Nat) (v : Part) (j : Nat) : (s.setPart p v).record j = s.record j := rfl
@[simp] theorem State.tile_setRecord (s : State) (r : Nat) (v : Record) (j : Nat) : (s.setRecord r v).tile j = s.tile j := rfl
@[simp] theorem State.room_setRecord (s : State) (r : Nat) (v : Record) (j : Nat) : (s.setRecord r v).room j = s.room j := rfl
@[simp] theorem State.stack_setRecord (s : State) (r : Nat) (v : Record) (j : Nat) : (s.setRecord r v).stack j = s.stack j := rfl
@[simp] theorem State.port_setRecord (s : State) (r : Nat) (v : Record) (j : Nat) : (s.setRecord r v).port j = s.port j := rfl
@[simp] theorem State.part_setRecord (s : State) (r : Nat) (v : Record) (j : Nat) : (s.setRecord r v).part j = s.part j := rfl
@[simp] theorem State.tile_setResDig (s : State) (r : Nat) (v : ResDig) (j : Nat) : (s.setResDig r v).tile j = s.tile j := rfl
@[simp] theorem State.room_setResDig (s : State) (r : Nat) (v : ResDig) (j : Nat) : (s.setResDig r v).room j = s.room j := rfl
@[simp] theorem State.stack_setResDig (s : State) (r : Nat) (v : ResDig) (j : Nat) : (s.setResDig r v).stack j = s.stack j := rfl
@[simp] theorem State.port_setResDig (s : State) (r : Nat) (v : ResDig) (j : Nat) : (s.setResDig r v).port j = s.port j := rfl
@[simp] theorem State.part_setResDig (s : State) (r : Nat) (v : ResDig) (j : Nat) : (s.setResDig r v).part j = s.part j := rfl
@[simp] theorem State.record_setResDig (s : State) (r : Nat) (v : ResDig) (j : Nat) : (s.setResDig r v).record j = s.record j := rfl
@[simp] theorem State.tile_setLslot (s : State) (n : Nat) (v : LSlot) (j : Nat) : (s.setLslot n v).tile j = s.tile j := rfl
@[simp] theorem State.room_setLslot (s : State) (n : Nat) (v : LSlot) (j : Nat) : (s.setLslot n v).room j = s.room j := rfl
@[simp] theorem State.stack_setLslot (s : State) (n : Nat) (v : LSlot) (j : Nat) : (s.setLslot n v).stack j = s.stack j := rfl
@[simp] theorem State.port_setLslot (s : State) (n : Nat) (v : LSlot) (j : Nat) : (s.setLslot n v).port j = s.port j := rfl
@[simp] theorem State.part_setLslot (s : State) (n : Nat) (v : LSlot) (j : Nat) : (s.setLslot n v).part j = s.part j := rfl
@[simp] theorem State.record_setLslot (s : State) (n : Nat) (v : LSlot) (j : Nat) : (s.setLslot n v).record j = s.record j := rfl
@[simp] theorem State.room_modTile (s : State) (t : Nat) (f : Tile → Tile) (j : Nat) : (s.modTile t f).room j = s.room j := rfl
@[simp] theorem State.stack_modTile (s : State) (t : Nat) (f : Tile → Tile) (j : Nat) : (s.modTile t f).stack j = s.stack j := rfl
@[simp] theorem State.port_modTile (s : State) (t : Nat) (f : Tile → Tile) (j : Nat) : (s.modTile t f).port j = s.port j := rfl
@[simp] theorem State.part_modTile (s : State) (t : Nat) (f : Tile → Tile) (j : Nat) : (s.modTile t f).part j = s.part j := rfl
@[simp] theorem State.record_modTile (s : State) (t : Nat) (f : Tile → Tile) (j : Nat) : (s.modTile t f).record j = s.record j := rfl
@[simp] theorem State.tile_modRoom (s : State) (r : Nat) (f : Room → Room) (j : Nat) : (s.modRoom r f).tile j = s.tile j := rfl
@[simp] theorem State.stack_modRoom (s : State) (r : Nat) (f : Room → Room) (j : Nat) : (s.modRoom r f).stack j = s.stack j := rfl
@[simp] theorem State.port_modRoom (s : State) (r : Nat) (f : Room → Room) (j : Nat) : (s.modRoom r f).port j = s.port j := rfl
@[simp] theorem State.part_modRoom (s : State) (r : Nat) (f : Room → Room) (j : Nat) : (s.modRoom r f).part j = s.part j := rfl
@[simp] theorem State.record_modRoom (s : State) (r : Nat) (f : Room → Room) (j : Nat) : (s.modRoom r f).record j = s.record j := rfl
@[simp] theorem State.tile_modStack (s : State) (k : Nat) (f : Stack → Stack) (j : Nat) : (s.modStack k f).tile j = s.tile j := rfl
@[simp] theorem State.room_modStack (s : State) (k : Nat) (f : Stack → Stack) (j : Nat) : (s.modStack k f).room j = s.room j := rfl
@[simp] theorem State.port_modStack (s : State) (k : Nat) (f : Stack → Stack) (j : Nat) : (s.modStack k f).port j = s.port j := rfl
@[simp] theorem State.part_modStack (s : State) (k : Nat) (f : Stack → Stack) (j : Nat) : (s.modStack k f).part j = s.part j := rfl
@[simp] theorem State.record_modStack (s : State) (k : Nat) (f : Stack → Stack) (j : Nat) : (s.modStack k f).record j = s.record j := rfl
@[simp] theorem State.tile_modPort (s : State) (n : Nat) (f : Port → Port) (j : Nat) : (s.modPort n f).tile j = s.tile j := rfl
@[simp] theorem State.room_modPort (s : State) (n : Nat) (f : Port → Port) (j : Nat) : (s.modPort n f).room j = s.room j := rfl
@[simp] theorem State.stack_modPort (s : State) (n : Nat) (f : Port → Port) (j : Nat) : (s.modPort n f).stack j = s.stack j := rfl
@[simp] theorem State.part_modPort (s : State) (n : Nat) (f : Port → Port) (j : Nat) : (s.modPort n f).part j = s.part j := rfl
@[simp] theorem State.record_modPort (s : State) (n : Nat) (f : Port → Port) (j : Nat) : (s.modPort n f).record j = s.record j := rfl
@[simp] theorem State.tile_modPart (s : State) (p : Nat) (f : Part → Part) (j : Nat) : (s.modPart p f).tile j = s.tile j := rfl
@[simp] theorem State.room_modPart (s : State) (p : Nat) (f : Part → Part) (j : Nat) : (s.modPart p f).room j = s.room j := rfl
@[simp] theorem State.stack_modPart (s : State) (p : Nat) (f : Part → Part) (j : Nat) : (s.modPart p f).stack j = s.stack j := rfl
@[simp] theorem State.port_modPart (s : State) (p : Nat) (f : Part → Part) (j : Nat) : (s.modPart p f).port j = s.port j := rfl
@[simp] theorem State.record_modPart (s : State) (p : Nat) (f : Part → Part) (j : Nat) : (s.modPart p f).record j = s.record j := rfl
@[simp] theorem State.tile_modRecord (s : State) (r : Nat) (f : Record → Record) (j : Nat) : (s.modRecord r f).tile j = s.tile j := rfl
@[simp] theorem State.room_modRecord (s : State) (r : Nat) (f : Record → Record) (j : Nat) : (s.modRecord r f).room j = s.room j := rfl
@[simp] theorem State.stack_modRecord (s : State) (r : Nat) (f : Record → Record) (j : Nat) : (s.modRecord r f).stack j = s.stack j := rfl
@[simp] theorem State.port_modRecord (s : State) (r : Nat) (f : Record → Record) (j : Nat) : (s.modRecord r f).port j = s.port j := rfl
@[simp] theorem State.part_modRecord (s : State) (r : Nat) (f : Record → Record) (j : Nat) : (s.modRecord r f).part j = s.part j := rfl
@[simp] theorem State.tile_modCmd (s : State) (f : Cmd → Cmd) (j : Nat) : (s.modCmd f).tile j = s.tile j := rfl
@[simp] theorem State.room_modCmd (s : State) (f : Cmd → Cmd) (j : Nat) : (s.modCmd f).room j = s.room j := rfl
@[simp] theorem State.stack_modCmd (s : State) (f : Cmd → Cmd) (j : Nat) : (s.modCmd f).stack j = s.stack j := rfl
@[simp] theorem State.port_modCmd (s : State) (f : Cmd → Cmd) (j : Nat) : (s.modCmd f).port j = s.port j := rfl
@[simp] theorem State.part_modCmd (s : State) (f : Cmd → Cmd) (j : Nat) : (s.modCmd f).part j = s.part j := rfl
@[simp] theorem State.record_modCmd (s : State) (f : Cmd → Cmd) (j : Nat) : (s.modCmd f).record j = s.record j := rfl
@[simp] theorem State.tile_setFn (s : State) (hp fn : Nat) (v : Fn) (j : Nat) : (s.setFn hp fn v).tile j = s.tile j := rfl
@[simp] theorem State.room_setFn (s : State) (hp fn : Nat) (v : Fn) (j : Nat) : (s.setFn hp fn v).room j = s.room j := rfl
@[simp] theorem State.stack_setFn (s : State) (hp fn : Nat) (v : Fn) (j : Nat) : (s.setFn hp fn v).stack j = s.stack j := rfl
@[simp] theorem State.port_setFn (s : State) (hp fn : Nat) (v : Fn) (j : Nat) : (s.setFn hp fn v).port j = s.port j := rfl
@[simp] theorem State.part_setFn (s : State) (hp fn : Nat) (v : Fn) (j : Nat) : (s.setFn hp fn v).part j = s.part j := rfl
@[simp] theorem State.record_setFn (s : State) (hp fn : Nat) (v : Fn) (j : Nat) : (s.setFn hp fn v).record j = s.record j := rfl
@[simp] theorem State.tile_modFn (s : State) (hp fn : Nat) (f : Fn → Fn) (j : Nat) : (s.modFn hp fn f).tile j = s.tile j := rfl
@[simp] theorem State.room_modFn (s : State) (hp fn : Nat) (f : Fn → Fn) (j : Nat) : (s.modFn hp fn f).room j = s.room j := rfl
@[simp] theorem State.stack_modFn (s : State) (hp fn : Nat) (f : Fn → Fn) (j : Nat) : (s.modFn hp fn f).stack j = s.stack j := rfl
@[simp] theorem State.port_modFn (s : State) (hp fn : Nat) (f : Fn → Fn) (j : Nat) : (s.modFn hp fn f).port j = s.port j := rfl
@[simp] theorem State.part_modFn (s : State) (hp fn : Nat) (f : Fn → Fn) (j : Nat) : (s.modFn hp fn f).part j = s.part j := rfl
@[simp] theorem State.record_modFn (s : State) (hp fn : Nat) (f : Fn → Fn) (j : Nat) : (s.modFn hp fn f).record j = s.record j := rfl
@[simp] theorem State.tile_modHport (s : State) (hp : Nat) (f : HostPort → HostPort) (j : Nat) : (s.modHport hp f).tile j = s.tile j := rfl
@[simp] theorem State.room_modHport (s : State) (hp : Nat) (f : HostPort → HostPort) (j : Nat) : (s.modHport hp f).room j = s.room j := rfl
@[simp] theorem State.stack_modHport (s : State) (hp : Nat) (f : HostPort → HostPort) (j : Nat) : (s.modHport hp f).stack j = s.stack j := rfl
@[simp] theorem State.port_modHport (s : State) (hp : Nat) (f : HostPort → HostPort) (j : Nat) : (s.modHport hp f).port j = s.port j := rfl
@[simp] theorem State.part_modHport (s : State) (hp : Nat) (f : HostPort → HostPort) (j : Nat) : (s.modHport hp f).part j = s.part j := rfl
@[simp] theorem State.record_modHport (s : State) (hp : Nat) (f : HostPort → HostPort) (j : Nat) : (s.modHport hp f).record j = s.record j := rfl
@[simp] theorem State.tile_modFab (s : State) (f : Fab → Fab) (j : Nat) : (s.modFab f).tile j = s.tile j := rfl
@[simp] theorem State.room_modFab (s : State) (f : Fab → Fab) (j : Nat) : (s.modFab f).room j = s.room j := rfl
@[simp] theorem State.stack_modFab (s : State) (f : Fab → Fab) (j : Nat) : (s.modFab f).stack j = s.stack j := rfl
@[simp] theorem State.port_modFab (s : State) (f : Fab → Fab) (j : Nat) : (s.modFab f).port j = s.port j := rfl
@[simp] theorem State.part_modFab (s : State) (f : Fab → Fab) (j : Nat) : (s.modFab f).part j = s.part j := rfl
@[simp] theorem State.record_modFab (s : State) (f : Fab → Fab) (j : Nat) : (s.modFab f).record j = s.record j := rfl
@[simp] theorem State.tile_modMnt (s : State) (f : Mnt → Mnt) (j : Nat) : (s.modMnt f).tile j = s.tile j := rfl
@[simp] theorem State.room_modMnt (s : State) (f : Mnt → Mnt) (j : Nat) : (s.modMnt f).room j = s.room j := rfl
@[simp] theorem State.stack_modMnt (s : State) (f : Mnt → Mnt) (j : Nat) : (s.modMnt f).stack j = s.stack j := rfl
@[simp] theorem State.port_modMnt (s : State) (f : Mnt → Mnt) (j : Nat) : (s.modMnt f).port j = s.port j := rfl
@[simp] theorem State.part_modMnt (s : State) (f : Mnt → Mnt) (j : Nat) : (s.modMnt f).part j = s.part j := rfl
@[simp] theorem State.record_modMnt (s : State) (f : Mnt → Mnt) (j : Nat) : (s.modMnt f).record j = s.record j := rfl
@[simp] theorem State.tile_modHrt (s : State) (f : Hearth → Hearth) (j : Nat) : (s.modHrt f).tile j = s.tile j := rfl
@[simp] theorem State.room_modHrt (s : State) (f : Hearth → Hearth) (j : Nat) : (s.modHrt f).room j = s.room j := rfl
@[simp] theorem State.stack_modHrt (s : State) (f : Hearth → Hearth) (j : Nat) : (s.modHrt f).stack j = s.stack j := rfl
@[simp] theorem State.port_modHrt (s : State) (f : Hearth → Hearth) (j : Nat) : (s.modHrt f).port j = s.port j := rfl
@[simp] theorem State.part_modHrt (s : State) (f : Hearth → Hearth) (j : Nat) : (s.modHrt f).part j = s.part j := rfl
@[simp] theorem State.record_modHrt (s : State) (f : Hearth → Hearth) (j : Nat) : (s.modHrt f).record j = s.record j := rfl
@[simp] theorem State.tile_modPwr (s : State) (f : Pwr → Pwr) (j : Nat) : (s.modPwr f).tile j = s.tile j := rfl
@[simp] theorem State.room_modPwr (s : State) (f : Pwr → Pwr) (j : Nat) : (s.modPwr f).room j = s.room j := rfl
@[simp] theorem State.stack_modPwr (s : State) (f : Pwr → Pwr) (j : Nat) : (s.modPwr f).stack j = s.stack j := rfl
@[simp] theorem State.port_modPwr (s : State) (f : Pwr → Pwr) (j : Nat) : (s.modPwr f).port j = s.port j := rfl
@[simp] theorem State.part_modPwr (s : State) (f : Pwr → Pwr) (j : Nat) : (s.modPwr f).part j = s.part j := rfl
@[simp] theorem State.record_modPwr (s : State) (f : Pwr → Pwr) (j : Nat) : (s.modPwr f).record j = s.record j := rfl
@[simp] theorem State.tile_modDev (s : State) (f : Dev → Dev) (j : Nat) : (s.modDev f).tile j = s.tile j := rfl
@[simp] theorem State.room_modDev (s : State) (f : Dev → Dev) (j : Nat) : (s.modDev f).room j = s.room j := rfl
@[simp] theorem State.stack_modDev (s : State) (f : Dev → Dev) (j : Nat) : (s.modDev f).stack j = s.stack j := rfl
@[simp] theorem State.port_modDev (s : State) (f : Dev → Dev) (j : Nat) : (s.modDev f).port j = s.port j := rfl
@[simp] theorem State.part_modDev (s : State) (f : Dev → Dev) (j : Nat) : (s.modDev f).part j = s.part j := rfl
@[simp] theorem State.record_modDev (s : State) (f : Dev → Dev) (j : Nat) : (s.modDev f).record j = s.record j := rfl

/-! ### Functions and host ports -/
@[simp] theorem State.fn_setFn_self (s : State) (hp fn : Nat) (v : Fn) : (s.setFn hp fn v).fn hp fn = v := SMap.get_put_self _ _ _ _
@[simp] theorem State.fn_modFn_self (s : State) (hp fn : Nat) (f : Fn → Fn) : (s.modFn hp fn f).fn hp fn = f (s.fn hp fn) := SMap.get_put_self _ _ _ _
@[simp] theorem State.hport_modHport_self (s : State) (hp : Nat) (f : HostPort → HostPort) : (s.modHport hp f).hport hp = f (s.hport hp) := SMap.get_put_self _ _ _ _
theorem State.hport_modHport_ne (s : State) {hp i : Nat} (f : HostPort → HostPort) (h : i ≠ hp) : (s.modHport hp f).hport i = s.hport i := SMap.get_put_ne _ _ _ h
@[simp] theorem State.modCmd_cmd (s : State) (f : Cmd → Cmd) : (s.modCmd f).cmd = f s.cmd := rfl
@[simp] theorem State.modFab_fab (s : State) (f : Fab → Fab) : (s.modFab f).fab = f s.fab := rfl
@[simp] theorem State.modMnt_mnt (s : State) (f : Mnt → Mnt) : (s.modMnt f).mnt = f s.mnt := rfl
@[simp] theorem State.modHrt_hrt (s : State) (f : Hearth → Hearth) : (s.modHrt f).hrt = f s.hrt := rfl
@[simp] theorem State.modPwr_pwr (s : State) (f : Pwr → Pwr) : (s.modPwr f).pwr = f s.pwr := rfl
@[simp] theorem State.modDev_dev (s : State) (f : Dev → Dev) : (s.modDev f).dev = f s.dev := rfl

end Sys2Proof.Machine
end

