-- ==== Sys2Proof/Laws/Beat.lean ====
section
/-! SUPPORT. What the completion of an operation can do (R84, R85, R89), and flags of a vector after one is written. -/

namespace Sys2Proof

open Machine

/-- The oldest operation of a queue that may complete does so. -/
theorem operationComplete_of_completes {s : State} {t : Nat} {q : Queue} {f : Flight} (h : Completes s t q f) :
    exec (.operationComplete t q) s = .next (s.complete t f) := by
  show Host.Outcome.next (match (s.tile t).fly.find? fun f => decide (f.q = q) with
    | some f => if f.ends (s.tile t).tim.cb && !(s.tile t).issuesLeft then s.complete t f else s
    | none => s) = _
  rw [h.1]
  simp [h.2]

/-- A queue with nothing in flight completes nothing. -/
theorem operationComplete_none {s : State} {t : Nat} {q : Queue} (h : (s.tile t).fly.find? (fun x => decide (x.q = q)) = none) :
    exec (.operationComplete t q) s = .next s := by
  show Host.Outcome.next (match (s.tile t).fly.find? fun f => decide (f.q = q) with
    | some f => if f.ends (s.tile t).tim.cb && !(s.tile t).issuesLeft then s.complete t f else s
    | none => s) = _
  rw [h]

/-- Without a barrier bit to set, the effects become visible on the tile without the operation. -/
theorem complete_unset {s : State} {t : Nat} {f : Flight} (h : f.set = none) :
    s.complete t f = f.eff.foldl (fun u e => u.effect t e) (s.setTile t (Landed (s.tile t) f)) := by
  unfold State.complete State.setBit
  rw [h]
  rfl

/-- With a bit that was 0, and no effect, the bit is set and nothing else happens. -/
theorem complete_sets {s : State} {t i : Nat} {f : Flight} (he : f.eff = []) (hs : f.set = some i) (hx : flag16 (s.tile t).xbc i = false) :
    s.complete t f = (s.setTile t (Landed (s.tile t) f)).setTile t ((Landed (s.tile t) f).setXb i) := by
  have hl : (s.setTile t (Landed (s.tile t) f)).tile t = Landed (s.tile t) f := State.tile_setTile_self _ _ _
  have hb : (Landed (s.tile t) f).xbFault i = false := hx
  unfold State.complete State.setBit
  rw [hs, he]
  simp only [List.foldl]
  show (if ((s.setTile t (Landed (s.tile t) f)).tile t).xbFault i = true then _ else
    (s.setTile t (Landed (s.tile t) f)).setTile t (((s.setTile t (Landed (s.tile t) f)).tile t).setXb i)) = _
  rw [hl, hb]
  rfl

/-- A flag written reads as its value, every other as before. -/
theorem getLsbD_setFlag16 (x : BitVec 16) {i j : Nat} (b : Bool) (hi : i < 16) (hj : j < 16) :
    (setFlag16 x i b).getLsbD j = if j = i then b else x.getLsbD j := by
  have key : ∀ i : Fin 16, ∀ j : Fin 16, (BitVec.ofNat 16 (2 ^ i.val)).getLsbD j.val = decide (j = i) := by decide
  have k := key ⟨i, hi⟩ ⟨j, hj⟩
  simp only [Fin.mk.injEq] at k
  unfold setFlag16
  cases b
  · simp only [Bool.false_eq_true, if_false, BitVec.getLsbD_and, BitVec.getLsbD_not, k, hj, decide_true, Bool.true_and]
    by_cases h : j = i <;> simp [h]
  · simp only [if_true, BitVec.getLsbD_or, k]
    by_cases h : j = i <;> simp [h]

end Sys2Proof
end

