-- ==== Sys2Proof/Laws/Command.lean ====
section
/-! SUPPORT. What the shared operations of host commands can do: taking the next packet, the checks of R454, and the step. -/

namespace Sys2Proof

open Machine

/-- A step runs the command at the front of the queue on the queue's rest. -/
theorem step_cons {s : State} {c : Instr} {r : List Instr} (h : s.pending = c :: r) : step s = exec c { s with pending := r } := by
  unfold step; rw [h]

/-- On an empty queue a step lets one tick pass. -/
theorem step_nil {s : State} (h : s.pending = []) : step s = .next s.tick := by
  unfold step; rw [h]

/-- The packet taken next leaves everything but the ports of the command processor as it was (R450). -/
theorem front_frame {s u : State} {k : Pkt} (h : s.front = some (k, u)) :
    ∃ n p, u = { s with cmd := { s.cmd with ports := p, lastPort := n } } := by
  unfold State.front at h
  split at h
  · cases h
  · split at h
    · cases h
    · split at h
      · cases h
      · have e := (Prod.mk.inj (Option.some.inj h)).2
        exact ⟨_, _, e.symm⟩

theorem front_fns {s u : State} {k : Pkt} (h : s.front = some (k, u)) : u.cmd.fns = s.cmd.fns := by
  obtain ⟨n, p, rfl⟩ := front_frame h; rfl

theorem front_fn {s u : State} {k : Pkt} (h : s.front = some (k, u)) (hp fn : Nat) : u.fn hp fn = s.fn hp fn := by
  unfold State.fn; rw [front_fns h]

/-- The next packet is taken by the row of its operation code. -/
theorem takeOpc_front {s u : State} {k : Pkt} {op : Nat} {f : State → Pkt → State} (h : s.front = some (k, u)) (ho : k.opc = op) :
    s.takeOpc op f = f u k := by
  unfold State.takeOpc; rw [h]; exact if_pos ho

/-- A row whose operation code the next packet does not carry does nothing. -/
theorem takeOpc_other {s : State} {op : Nat} {f : State → Pkt → State} (h : ∀ k u, s.front = some (k, u) → k.opc ≠ op) :
    s.takeOpc op f = s := by
  unfold State.takeOpc
  split
  · rename_i k u hk; exact if_neg (h k u hk)
  · rfl

/-- All checks pass just when each of them passes. -/
theorem firstRefusal_none {l : List Refuse} : firstRefusal l = none ↔ ∀ r ∈ l, r = none := by
  induction l with
  | nil => simp [firstRefusal]
  | cons x r ih => cases x <;> simp [firstRefusal, ih]

/-- Two lists of checks in one: the first that fails decides. -/
theorem firstRefusal_append (l m : List Refuse) : firstRefusal (l ++ m) = (firstRefusal l).or (firstRefusal m) := by
  induction l with
  | nil => simp [firstRefusal]
  | cons x r ih => cases x <;> simp [firstRefusal, ih]

/-- A packet that passes its checks has its effect. -/
theorem decideOn_pass {s t : State} {k : Pkt} {l : List Refuse} (h : firstRefusal l = none) : s.decideOn k l t = t := by
  unfold State.decideOn; rw [h]

/-- A packet is refused at the first check that fails, with no other effect (R454). -/
theorem decideOn_refuse {s t : State} {k : Pkt} {l : List Refuse} {st : Nat} {res : List Word} (h : firstRefusal l = some (st, res)) :
    s.decideOn k l t = s.reply k.ref st res := by
  unfold State.decideOn; rw [h]

/-- The checks that a command adds to those of its form. -/
theorem formBad_codes {s : State} {k : Pkt} {f : Form} {codes : List Refuse} (h : s.formBad k f [] = none) (hc : ∀ r ∈ codes, r = none) :
    s.formBad k f codes = none := by
  unfold State.formBad at h ⊢
  rw [firstRefusal_none] at h ⊢
  intro r hr
  simp only [List.append_nil, List.mem_append] at h hr
  rcases hr with ((hr | hr) | hr) | hr
  · exact h r (.inl (.inl hr))
  · exact hc r hr
  · exact h r (.inl (.inr hr))
  · exact h r (.inr hr)

@[simp] theorem stop_false (c : Nat) : stop false c = none := rfl
@[simp] theorem stop_true (c : Nat) : stop true c = some (c, []) := rfl
@[simp] theorem offendIf_false (c w b : Nat) : offendIf false c w b = none := rfl
@[simp] theorem offendIf_true (c w b : Nat) : offendIf true c w b = some (c, [word (w + b * 256)]) := rfl

end Sys2Proof
end

