-- ==== Sys2Proof/Laws/Memory.lean ====
section
/-! SUPPORT. Laws of memory: a read after a write, and the canonical form, which every memory operation keeps. -/

namespace Sys2Proof

open Machine

/-! ## Read after write -/

/-- A byte read depends on memory and on the valid bits alone. -/
theorem rdByte_congr {s u : State} (hm : u.mem = s.mem) (hv : u.valid = s.valid) (a : Nat) : u.rdByte a = s.rdByte a := by
  unfold State.rdByte; rw [hm, hv]

theorem rd_congr {s u : State} (hm : u.mem = s.mem) (hv : u.valid = s.valid) (a n : Nat) : u.rd a n = s.rd a n := by
  unfold State.rd; simp only [rdByte_congr hm hv]

/-- Where the two Cellar windows lie, and the offset of an address in them. -/
theorem cellarOff_some {a o : Nat} (h : cellarOff a = some o) :
    (0x010000000000 ≤ a ∧ a < 0x020000000000 ∧ o + 0x010000000000 = a) ∨
    (0x040000000000 ≤ a ∧ a < 0x050000000000 ∧ o + 0x030000000000 = a) := by
  unfold cellarOff at h
  split at h
  · have := Option.some.inj h; omega
  · split at h
    · have := Option.some.inj h; omega
    · exact absurd h (by simp)

theorem cellarOff_none {a : Nat} (h : cellarOff a = none) :
    ¬ (0x010000000000 ≤ a ∧ a < 0x020000000000) ∧ ¬ (0x040000000000 ≤ a ∧ a < 0x050000000000) := by
  unfold cellarOff at h
  split at h
  · exact absurd h (by simp)
  · rename_i h1
    split at h
    · exact absurd h (by simp)
    · rename_i h2
      exact ⟨h1, h2⟩

/-- Two Cellar addresses lie in one granule of 64 KiB just when they lie in one aligned range of 64 KiB. -/
theorem cellar_granule {a x o p : Nat} (ha : cellarOff a = some o) (hx : cellarOff x = some p) :
    p / 65536 = o / 65536 ↔ a - o % 65536 ≤ x ∧ x < a - o % 65536 + 65536 := by
  have h1 := cellarOff_some ha
  have h2 := cellarOff_some hx
  omega

/-- An address outside the Cellar lies in no granule. -/
theorem cellar_outside {a x o : Nat} (ha : cellarOff a = some o) (hx : cellarOff x = none) :
    ¬ (a - o % 65536 ≤ x ∧ x < a - o % 65536 + 65536) := by
  have h1 := cellarOff_some ha
  have h2 := cellarOff_none hx
  omega

theorem wrByte_plain {s : State} {a : Nat} (b : Byte) (h : cellarOff a = none) :
    s.wrByte a b = { s with mem := SMap.put memDefault s.mem a b } := by
  unfold State.wrByte; rw [h]

theorem wrByte_cellar {s : State} {a o : Nat} (b : Byte) (h : cellarOff a = some o) (hv : SMap.get false s.valid (o / 65536) = true) :
    s.wrByte a b = { s with mem := SMap.put memDefault s.mem a b } := by
  unfold State.wrByte; rw [h]; exact if_pos hv

/-- The first write to a granule clears the rest of it (R190). -/
theorem wrByte_first {s : State} {a o : Nat} (b : Byte) (h : cellarOff a = some o) (hv : ¬ SMap.get false s.valid (o / 65536) = true) :
    s.wrByte a b = { s with mem := SMap.put memDefault (SMap.clear s.mem (a - o % 65536) 65536) a b,
                            valid := SMap.put false s.valid (o / 65536) true } := by
  unfold State.wrByte; rw [h]; exact if_neg hv

/-- A byte reads as what was written to it, and no other byte changes (R164, R190). -/
theorem rdByte_wrByte (s : State) (a : Nat) (b : Byte) (x : Nat) :
    (s.wrByte a b).rdByte x = if x = a then b else s.rdByte x := by
  cases ha : cellarOff a with
  | none =>
    rw [wrByte_plain b ha]
    by_cases hx : x = a
    · rw [if_pos hx, hx]; unfold State.rdByte; rw [ha]; exact SMap.get_put_self _ _ _ _
    · rw [if_neg hx]; unfold State.rdByte; simp only [SMap.get_put_ne memDefault s.mem b hx]
  | some o =>
    by_cases hv : SMap.get false s.valid (o / 65536) = true
    · rw [wrByte_cellar b ha hv]
      by_cases hx : x = a
      · rw [if_pos hx, hx]; unfold State.rdByte; rw [ha]; simp only [hv, if_true]; exact SMap.get_put_self _ _ _ _
      · rw [if_neg hx]; unfold State.rdByte; simp only [SMap.get_put_ne memDefault s.mem b hx]
    · rw [wrByte_first b ha hv]
      by_cases hx : x = a
      · rw [if_pos hx, hx]; unfold State.rdByte; rw [ha]; simp only [SMap.get_put_self, if_true]
      · rw [if_neg hx]
        unfold State.rdByte
        simp only [SMap.get_put_ne memDefault _ b hx, SMap.get_clear]
        cases hp : cellarOff x with
        | none => simp only; rw [if_neg (cellar_outside ha hp)]
        | some p =>
          simp only [SMap.get_put]
          have hg := cellar_granule ha hp
          by_cases h : p / 65536 = o / 65536
          · rw [if_pos h, if_pos rfl, if_pos (hg.1 h), h, if_neg hv]; rfl
          · rw [if_neg h, if_neg (fun y => h (hg.2 y))]

theorem rdByte_wrBytes (bs : List Byte) : ∀ (s : State) (a x : Nat),
    (s.wrBytes a bs).rdByte x = if a ≤ x ∧ x < a + bs.length then bs.getD (x - a) 0 else s.rdByte x := by
  induction bs with
  | nil => intro s a x; simp [State.wrBytes] <;> omega
  | cons b r ih =>
    intro s a x
    simp only [State.wrBytes, ih, rdByte_wrByte, List.length_cons]
    by_cases h1 : a + 1 ≤ x ∧ x < a + 1 + r.length
    · have h2 : a ≤ x ∧ x < a + (r.length + 1) := by omega
      rw [if_pos h1, if_pos h2]
      obtain ⟨n, hn⟩ : ∃ n, x - a = n + 1 := ⟨x - (a + 1), by omega⟩
      rw [hn, show x - (a + 1) = n by omega]
      simp
    · rw [if_neg h1]
      by_cases h3 : x = a
      · subst h3; simp
      · have h2 : ¬ (a ≤ x ∧ x < a + (r.length + 1)) := by omega
        simp [h3, h2]

/-! ## What a reply leaves alone (R455) -/

theorem reply_cmd_only (s : State) (r : CmdRef) (st : Nat) (res : List Word) : s.reply r st res = { s with cmd := (s.reply r st res).cmd } := by
  unfold State.reply
  split
  · rfl
  · simp only
    split <;> rfl

@[simp] theorem reply_mem (s : State) (r : CmdRef) (st : Nat) (res : List Word) : (s.reply r st res).mem = s.mem := by
  rw [reply_cmd_only]
@[simp] theorem reply_valid (s : State) (r : CmdRef) (st : Nat) (res : List Word) : (s.reply r st res).valid = s.valid := by
  rw [reply_cmd_only]
@[simp] theorem reply_host (s : State) (r : CmdRef) (st : Nat) (res : List Word) : (s.reply r st res).cmd.host = s.cmd.host := by
  unfold State.reply
  split
  · rfl
  · simp only
    split <;> rfl

/-- A reply joins the replies of its function (R455, R456). -/
theorem reply_replied (s : State) (r : CmdRef) (st : Nat) (res : List Word) : Replied s (s.reply r st res) r st res := by
  intro h
  unfold State.reply
  rw [if_neg (by omega)]
  simp only
  split
  · simp [answerTo]
  · simp [State.fnCount, answerTo]

theorem reply_cmd_host (s : State) (r : CmdRef) (st : Nat) (res : List Word) :
    ∃ c, s.reply r st res = { s with cmd := c } ∧ c.host = s.cmd.host := ⟨_, reply_cmd_only .., reply_host ..⟩

theorem foldl_reply_cmd_only {α : Type} (f : α → CmdRef) (g : α → List Word) (st : Nat) (l : List α) :
    ∀ s : State, ∃ c, l.foldl (fun u h => u.reply (f h) st (g h)) s = { s with cmd := c } ∧ c.host = s.cmd.host := by
  induction l with
  | nil => intro s; exact ⟨_, rfl, rfl⟩
  | cons x r ih =>
    intro s
    obtain ⟨c, h1, h2⟩ := reply_cmd_host s (f x) st (g x)
    obtain ⟨d, h3, h4⟩ := ih { s with cmd := c }
    refine ⟨d, ?_, h4.trans h2⟩
    rw [List.foldl_cons, h1, h3]

/-- What answers the host waits of a write changes nothing but the command processor (R463). -/
theorem wakeHosts_cmd_only (s : State) (a n : Nat) : ∃ c, s.wakeHosts a n = { s with cmd := c } ∧ c.host = s.cmd.host := by
  unfold State.wakeHosts
  obtain ⟨c, h1, h2⟩ := foldl_reply_cmd_only (fun h : HostWait => h.ref) (fun h => lohi (s.rdW h.addr).toNat) 0
    (s.cmd.waits.filter fun h => decide (h.addr < a + n ∧ a < h.addr + 8) && h.met (s.rdW h.addr))
    (s.modCmd fun c => { c with waits := c.waits.filter fun h => !(decide (h.addr < a + n ∧ a < h.addr + 8) && h.met (s.rdW h.addr)) })
  exact ⟨c, h1, h2⟩

/-! ## Writes -/

theorem wr_mem (s : State) (a : Nat) (bs : List Byte) : (s.wr a bs).mem = (s.wrBytes a bs).mem := by
  obtain ⟨c, h, -⟩ := wakeHosts_cmd_only (((s.wrBytes a bs).modDev fun d =>
    { d with bad := d.bad.filter fun x => decide (x < a ∨ a + bs.length ≤ x),
              soft := d.soft.filter fun x => decide (x < a ∨ a + bs.length ≤ x) }).notify a bs.length) a bs.length
  exact (congrArg State.mem h).trans rfl
theorem wr_valid (s : State) (a : Nat) (bs : List Byte) : (s.wr a bs).valid = (s.wrBytes a bs).valid := by
  obtain ⟨c, h, -⟩ := wakeHosts_cmd_only (((s.wrBytes a bs).modDev fun d =>
    { d with bad := d.bad.filter fun x => decide (x < a ∨ a + bs.length ≤ x),
              soft := d.soft.filter fun x => decide (x < a ∨ a + bs.length ≤ x) }).notify a bs.length) a bs.length
  exact (congrArg State.valid h).trans rfl

/-- A write writes its bytes and no others. -/
theorem wr_wrote (s : State) (a : Nat) (bs : List Byte) : Wrote s (s.wr a bs) a bs := by
  intro x
  rw [rdByte_congr (wr_mem s a bs) (wr_valid s a bs), rdByte_wrBytes]

/-! ## The canonical form -/

/-- Memory, valid bits and host memory as in a state that has the canonical form. -/
theorem memWf_congr {s u : State} (hm : u.mem = s.mem) (hv : u.valid = s.valid) (hh : u.cmd.host = s.cmd.host) (h : s.memWf = true) :
    u.memWf = true := by
  unfold State.memWf; rw [hm, hv, hh]; exact h

theorem memWf_iff (s : State) : s.memWf = true ↔ s.mem.wf memDefault = true ∧ s.valid.wf false = true ∧ s.cmd.host.wf 0 = true := by
  unfold State.memWf; simp [Bool.and_eq_true, and_assoc]

theorem wrByte_memWf {s : State} (a : Nat) (b : Byte) (h : s.memWf = true) : (s.wrByte a b).memWf = true := by
  rw [memWf_iff] at h ⊢
  cases ha : cellarOff a with
  | none => rw [wrByte_plain b ha]; exact ⟨SMap.wf_put _ _ h.1, h.2⟩
  | some o =>
    by_cases hv : SMap.get false s.valid (o / 65536) = true
    · rw [wrByte_cellar b ha hv]; exact ⟨SMap.wf_put _ _ h.1, h.2⟩
    · rw [wrByte_first b ha hv]
      refine ⟨SMap.wf_put _ _ (SMap.wf_clear _ _ h.1), ?_, h.2.2⟩
      show SMap.wf false (SMap.put false s.valid (o / 65536) true) = true
      exact SMap.wf_put (o / 65536) true h.2.1

theorem wrBytes_memWf (bs : List Byte) : ∀ {s : State} (a : Nat), s.memWf = true → (s.wrBytes a bs).memWf = true := by
  induction bs with
  | nil => intro s a h; exact h
  | cons b r ih => intro s a h; exact ih (a + 1) (wrByte_memWf a b h)

theorem wrByte_cmd (s : State) (a : Nat) (b : Byte) : (s.wrByte a b).cmd = s.cmd := by
  cases ha : cellarOff a with
  | none => rw [wrByte_plain b ha]
  | some o =>
    by_cases hv : SMap.get false s.valid (o / 65536) = true
    · rw [wrByte_cellar b ha hv]
    · rw [wrByte_first b ha hv]

theorem wrBytes_cmd (bs : List Byte) : ∀ (s : State) (a : Nat), (s.wrBytes a bs).cmd = s.cmd := by
  induction bs with
  | nil => intro s a; rfl
  | cons b r ih => intro s a; exact (ih _ _).trans (wrByte_cmd s a b)

theorem wr_host (s : State) (a : Nat) (bs : List Byte) : (s.wr a bs).cmd.host = s.cmd.host := by
  obtain ⟨c, h, h2⟩ := wakeHosts_cmd_only (((s.wrBytes a bs).modDev fun d =>
    { d with bad := d.bad.filter fun x => decide (x < a ∨ a + bs.length ≤ x),
             soft := d.soft.filter fun x => decide (x < a ∨ a + bs.length ≤ x) }).notify a bs.length) a bs.length
  exact (congrArg (fun u : State => u.cmd.host) h).trans (h2.trans (congrArg Cmd.host (wrBytes_cmd bs s a)))

theorem wr_memWf {s : State} (a : Nat) (bs : List Byte) (h : s.memWf = true) : (s.wr a bs).memWf = true :=
  memWf_congr (wr_mem s a bs) (wr_valid s a bs) ((wr_host s a bs).trans (congrArg Cmd.host (wrBytes_cmd bs s a)).symm) (wrBytes_memWf bs a h)

theorem wrW_memWf {s : State} (a : Nat) (v : DWord) (h : s.memWf = true) : (s.wrW a v).memWf = true := wr_memWf a _ h

theorem clearMem_memWf {s : State} (a n : Nat) (h : s.memWf = true) : (s.clearMem a n).memWf = true := by
  rw [memWf_iff] at h ⊢
  exact ⟨SMap.wf_clear _ _ h.1, h.2⟩

theorem hostWr_memWf {s : State} (a : Nat) (bs : List Byte) (h : s.memWf = true) : (s.hostWr a bs).memWf = true := by
  rw [memWf_iff] at h ⊢
  exact ⟨h.1, h.2.1, SMap.wf_putList _ _ h.2.2⟩

theorem reply_memWf {s : State} (r : CmdRef) (st : Nat) (res : List Word) (h : s.memWf = true) : (s.reply r st res).memWf = true :=
  memWf_congr (reply_mem ..) (reply_valid ..) (reply_host ..) h

theorem reset_memWf : State.reset.memWf = true := by decide

end Sys2Proof
end

