-- ==== Sys2Proof/Laws/Fabric.lean ====
section
/-! SUPPORT. What sending a packet and raising a fault can do: which fields they may change, the packet that stands on its queue, and the
record of a fault that halts. -/

namespace Sys2Proof

open Machine

/-! ## Sending (R272, R279, R285) -/

/-- `u` differs from `s` in the fabric and the ports alone. -/
def FabricOnly (s u : State) : Prop := u = { s with fab := u.fab, ports := u.ports }

theorem FabricOnly.refl (s : State) : FabricOnly s s := rfl

theorem FabricOnly.trans {s u w : State} (h : FabricOnly s u) (k : FabricOnly u w) : FabricOnly s w := by
  unfold FabricOnly at h k ⊢
  rw [k, h]

theorem way_frame (s : State) (h : Hdr) : FabricOnly s (s.way h).2 := by
  unfold State.way
  simp only
  split
  · rfl
  · split
    · rfl
    · split
      · rfl
      · split
        · rfl
        · split <;> rfl

theorem stamp_frame (s : State) (h : Hdr) : FabricOnly s (s.stamp h).2 := rfl
theorem pushLoc_frame (s : State) (vc : Nat) (k : Packet) : FabricOnly s (s.pushLoc vc k) := rfl
theorem pushEgress_frame (s : State) (n vc : Nat) (k : Packet) : FabricOnly s (s.pushEgress n vc k) := rfl

/-- Sending without an answer changes the fabric and the ports alone. -/
theorem sendRaw_frame (s : State) (h : Hdr) (d : List Flit) : FabricOnly s (s.sendRaw h d).1 := by
  unfold State.sendRaw
  split
  · rfl
  · simp only
    have hs := (stamp_frame s h).trans (way_frame (s.stamp h).2 (s.stamp h).1)
    split
    · rename_i u e; rw [e] at hs; exact hs.trans (pushLoc_frame ..)
    · rename_i n u e; rw [e] at hs; exact hs.trans (pushEgress_frame ..)
    · rename_i st u e; rw [e] at hs; exact hs

theorem closeFull_frame (s : State) (h : Hdr) : FabricOnly s (s.closeFull h) := by
  unfold State.closeFull
  split
  · rfl
  · have hn := sendRaw_frame s (nullHdr h.dst h.part) []
    split
    · rename_i u e; rw [e] at hn; exact hn
    · rename_i u h' st e
      rw [e] at hn
      refine hn.trans (FabricOnly.trans ?_ (sendRaw_frame ..))
      split
      · exact sendRaw_frame ..
      · rfl

theorem answerDrop_frame (s : State) (h : Hdr) (st : Nat) : FabricOnly s (s.answerDrop h st) := by
  unfold State.answerDrop
  split
  · rfl
  · exact (closeFull_frame ..).trans (sendRaw_frame ..)

theorem sendAny_frame (s : State) (h : Hdr) (d : List Flit) : FabricOnly s (s.sendAny h d) := by
  have hc : FabricOnly s (if s.me = 0xFFFF then s else s.closeFull h) := by
    split
    · rfl
    · exact closeFull_frame ..
  have hs := hc.trans (sendRaw_frame (if s.me = 0xFFFF then s else s.closeFull h) h d)
  unfold State.sendAny
  split
  · rename_i u e; rw [e] at hs; exact hs
  · rename_i u h' st e; rw [e] at hs; exact hs.trans (answerDrop_frame ..)

/-- A packet of a partition changes the fabric and the ports alone. -/
theorem send_frame (s : State) (h : Hdr) (d : List Flit) : FabricOnly s (s.send h d) := by
  unfold State.send
  split
  · rfl
  · exact sendAny_frame ..

theorem foldl_frame {α : Type} (f : State → α → State) (hf : ∀ u a, FabricOnly u (f u a)) (l : List α) :
    ∀ s, FabricOnly s (l.foldl f s) := by
  induction l with
  | nil => intro s; rfl
  | cons a r ih => intro s; exact (hf s a).trans (ih _)

theorem sendMsg_frame (s : State) (p dst addr : Nat) (ord : Bool) (ws : List Word) : FabricOnly s (s.sendMsg p dst addr ord ws) :=
  send_frame ..

/-- A packet that is not muted stands last on the egress queue of its route's port, with the stamps of its source. -/
theorem send_sends {s : State} {h : Hdr} {d : List Flit} {f : Packet → Prop} (hm : s.muted h.part = false)
    (hf : f { hdr := (s.stamp h).1.enc, data := d, ready := s.now, ing := none }) : Sends s (s.send h d) h.vc h.dst f := by
  intro e h1 h2 h3 h4 h5 h6 h7 h8 h9
  have hc : s.closeFull h = s := by
    have hn : s.fullFor h.dst = false := decide_eq_false (by omega)
    unfold State.closeFull
    rw [hn]
    simp
  have hw : (s.stamp h).2.way (s.stamp h).1 = (.egress (bits e 0 4), (s.stamp h).2) := by
    unfold State.way
    have a1 : (s.stamp h).1.dst ≠ (s.stamp h).2.me := h2
    have a2 : (s.stamp h).2.routeEntry (s.stamp h).1.gen (s.stamp h).1.dst = some e := h3
    rw [if_neg a1, a2]
    simp only
    have a3 : ¬ (bits e 0 4 ≥ (s.stamp h).2.nPorts) := by
      have : (s.stamp h).2.nPorts = s.nPorts := rfl
      omega
    have a4 : (s.stamp h).2.port (bits e 0 4) = s.port (bits e 0 4) := rfl
    rw [a4]
    simp [h4, a3, h6, h7, h8]
  have hs : s.send h d =
      (s.stamp h).2.pushEgress (bits e 0 4) h.vc { hdr := (s.stamp h).1.enc, data := d, ready := s.now, ing := none } := by
    have hr : s.sendRaw h d =
        ((s.stamp h).2.pushEgress (bits e 0 4) h.vc { hdr := (s.stamp h).1.enc, data := d, ready := s.now, ing := none }, none) := by
      unfold State.sendRaw
      rw [if_neg h1]
      simp only [hw]
      rfl
    unfold State.send State.sendAny
    rw [hm, if_neg (by simp), if_neg h1, hc, hr]
  rw [hs]
  refine ⟨_, ?_, hf⟩
  unfold State.pushEgress
  rw [State.port_modPort_self]
  exact SMap.get_put_self _ _ _ _

/-! ## Raising a fault (R499 to R503) -/

/-- What a fault may change of the rest: nothing of the memory, the clocks, the tables of Hearth and what the sender commanded. -/
def Kept (s u : State) : Prop :=
  u.mem = s.mem ∧ u.valid = s.valid ∧ u.cmd.host = s.cmd.host ∧ u.mnt = s.mnt ∧ u.pwr = s.pwr ∧ u.hrt = s.hrt ∧ u.rooms = s.rooms ∧
  u.recs = s.recs ∧ u.larder = s.larder ∧ u.pending = s.pending ∧ u.free = s.free

theorem Kept.refl (s : State) : Kept s s := ⟨rfl, rfl, rfl, rfl, rfl, rfl, rfl, rfl, rfl, rfl, rfl⟩

theorem Kept.trans {s u w : State} (h : Kept s u) (k : Kept u w) : Kept s w := by
  obtain ⟨a1, a2, a3, a4, a5, a6, a7, a8, a9, a10, a11⟩ := h
  obtain ⟨b1, b2, b3, b4, b5, b6, b7, b8, b9, b10, b11⟩ := k
  exact ⟨b1.trans a1, b2.trans a2, b3.trans a3, b4.trans a4, b5.trans a5, b6.trans a6, b7.trans a7, b8.trans a8, b9.trans a9,
    b10.trans a10, b11.trans a11⟩

theorem Kept.memWf {s u : State} (h : Kept s u) (hs : s.memWf = true) : u.memWf = true := memWf_congr h.1 h.2.1 h.2.2.1 hs

theorem FabricOnly.kept {s u : State} (h : FabricOnly s u) : Kept s u := by
  unfold FabricOnly at h
  rw [h]; exact ⟨rfl, rfl, rfl, rfl, rfl, rfl, rfl, rfl, rfl, rfl, rfl⟩

theorem FabricOnly.part {s u : State} (h : FabricOnly s u) (p : Nat) : u.part p = s.part p := by
  unfold FabricOnly at h
  rw [h]; rfl

theorem foldl_kept {α : Type} (f : State → α → State) (hf : ∀ u a, Kept u (f u a)) (l : List α) : ∀ s, Kept s (l.foldl f s) := by
  induction l with
  | nil => exact Kept.refl
  | cons a r ih => intro s; exact (hf s a).trans (ih _)

theorem modTile_kept (s : State) (t : Nat) (f : Tile → Tile) : Kept s (s.modTile t f) := ⟨rfl, rfl, rfl, rfl, rfl, rfl, rfl, rfl, rfl, rfl, rfl⟩
theorem modPart_kept (s : State) (p : Nat) (f : Part → Part) : Kept s (s.modPart p f) := ⟨rfl, rfl, rfl, rfl, rfl, rfl, rfl, rfl, rfl, rfl, rfl⟩
theorem modStack_kept (s : State) (k : Nat) (f : Stack → Stack) : Kept s (s.modStack k f) :=
  ⟨rfl, rfl, rfl, rfl, rfl, rfl, rfl, rfl, rfl, rfl, rfl⟩
theorem modPort_kept (s : State) (n : Nat) (f : Port → Port) : Kept s (s.modPort n f) := ⟨rfl, rfl, rfl, rfl, rfl, rfl, rfl, rfl, rfl, rfl, rfl⟩
theorem irq_kept (s : State) (hp fn v : Nat) : Kept s (s.irq hp fn v) := ⟨rfl, rfl, rfl, rfl, rfl, rfl, rfl, rfl, rfl, rfl, rfl⟩
theorem irqFault_kept (s : State) (p : Nat) : Kept s (s.irqFault p) :=
  (((irq_kept s 0 (p + 1) 2).trans (irq_kept _ 0 0 2)).trans (irq_kept _ 1 (p + 1) 2)).trans (irq_kept _ 1 0 2)
theorem irq_part (s : State) (hp fn v p : Nat) : (s.irq hp fn v).part p = s.part p := rfl
theorem irqFault_part (s : State) (q p : Nat) : (s.irqFault q).part p = s.part p := by
  unfold State.irqFault
  rw [irq_part, irq_part, irq_part, irq_part]
theorem writeRecord_kept (s : State) (p : Nat) (ws : List Word) : Kept s (s.writeRecord p ws) := (modPart_kept ..).trans (irqFault_kept ..)

theorem reply_kept (s : State) (r : CmdRef) (st : Nat) (res : List Word) : Kept s (s.reply r st res) := by
  refine ⟨reply_mem .., reply_valid .., reply_host .., ?_, ?_, ?_, ?_, ?_, ?_, ?_, ?_⟩ <;> rw [reply_cmd_only]

theorem reply_part (s : State) (r : CmdRef) (st : Nat) (res : List Word) (p : Nat) : (s.reply r st res).part p = s.part p := by
  rw [reply_cmd_only]; rfl

/-- A swap that fails changes its partition's weights and answers its command: the fault log and the run stand. -/
theorem failSwap_kept (s : State) (p : Nat) : Kept s (s.failSwap p) := by
  unfold State.failSwap
  simp only
  split
  · split
    · exact ((modPart_kept ..).trans (modPart_kept ..)).trans (reply_kept ..)
    · exact (modPart_kept ..).trans (modPart_kept ..)
  · exact modPart_kept ..

theorem failSwap_part (s : State) (p : Nat) : ∃ w, (s.failSwap p).part p = { s.part p with wts := w } := by
  unfold State.failSwap
  simp only
  split
  · split
    · rw [reply_part, State.part_modPart_self, State.part_modPart_self]; exact ⟨_, rfl⟩
    · rw [State.part_modPart_self, State.part_modPart_self]; exact ⟨_, rfl⟩
  · rw [State.part_modPart_self]; exact ⟨_, rfl⟩

theorem foldl_modTile_part {α : Type} (g : α → Nat) (f : α → Tile → Tile) (l : List α) (p : Nat) :
    ∀ s : State, (l.foldl (fun u a => u.modTile (g a) (f a)) s).part p = s.part p := by
  induction l with
  | nil => intro s; rfl
  | cons a r ih => intro s; exact ih _

theorem foldl_modStack_part {α : Type} (g : α → Nat) (f : α → Stack → Stack) (l : List α) (p : Nat) :
    ∀ s : State, (l.foldl (fun u a => u.modStack (g a) (f a)) s).part p = s.part p := by
  induction l with
  | nil => intro s; rfl
  | cons a r ih => intro s; exact ih _

theorem haltPart_kept (s : State) (p : Nat) : Kept s (s.haltPart p) := by
  unfold State.haltPart
  simp only
  have h1 := foldl_kept (fun (u : State) t => u.modTile t fun v => { v with wait := none, drained := false }) (fun u t => modTile_kept u t _) (s.tilesOf p) s
  have h2 := h1.trans (foldl_kept (fun (u : State) k => u.modStack k fun v =>
    { v with sweep := v.sweep.map fun w => if w.part = p then { w with stopped := true } else w }) (fun u k => modStack_kept u k _) (List.range 8) _)
  refine Kept.trans ?_ (modPart_kept ..)
  refine Kept.trans ?_ (failSwap_kept ..)
  split
  · exact h2.trans (reply_kept ..)
  · exact h2

/-- The partition after its halt: halted in this tick; its fault log, plan and launch stand. -/
theorem haltPart_part (s : State) (p : Nat) : ∃ w a, (s.haltPart p).part p =
    { s.part p with wts := w, run := { (s.part p).run with halted := true, haltAt := s.now },
                    flt := { (s.part p).flt with hangDue := true }, sh := a } := by
  unfold State.haltPart
  simp only
  rw [State.part_modPart_self]
  generalize hb : (List.foldl (fun (u : State) k => u.modStack k fun v =>
    { v with sweep := v.sweep.map fun w => if w.part = p then { w with stopped := true } else w })
    (List.foldl (fun (u : State) t => u.modTile t fun v => { v with wait := none, drained := false }) s (s.tilesOf p)) (List.range 8)) = b
  have e1 : b.part p = s.part p := by
    rw [← hb]
    exact (foldl_modStack_part (fun k => k) (fun _ v => { v with sweep := v.sweep.map fun w => if w.part = p then { w with stopped := true } else w })
      (List.range 8) p _).trans (foldl_modTile_part (fun t => t) (fun _ v => { v with wait := none, drained := false }) (s.tilesOf p) p s)
  clear hb
  split
  · obtain ⟨w, hw⟩ := failSwap_part (b.reply _ 0x62 []) p
    rw [hw, reply_part, e1]; exact ⟨_, _, rfl⟩
  · obtain ⟨w, hw⟩ := failSwap_part b p
    rw [hw, e1]; exact ⟨_, _, rfl⟩

theorem sendNotice_kept (s : State) (p lid cls origin tick : Nat) (from? : Option Nat) : Kept s (s.sendNotice p lid cls origin tick from?) := by
  unfold State.sendNotice
  split
  · exact Kept.refl s
  · split
    · exact Kept.refl s
    · exact (modPart_kept ..).trans (foldl_kept _ (fun u d => (sendMsg_frame ..).kept) _ _)

theorem sendNotice_part (s : State) (p lid cls origin tick : Nat) (from? : Option Nat) :
    ∃ b, (s.sendNotice p lid cls origin tick from?).part p = { s.part p with flt := { (s.part p).flt with noteSent := b } } := by
  unfold State.sendNotice
  split
  · exact ⟨_, rfl⟩
  · split
    · exact ⟨_, rfl⟩
    · refine ⟨true, ?_⟩
      rw [(foldl_frame _ (fun u d => sendMsg_frame ..) _ _).part, State.part_modPart_self]

/-- A fault leaves the memory, the clocks and the tables of Hearth as they were. -/
theorem raise_kept (s : State) (p : Nat) (f : FInfo) : Kept s (s.raise p f) := by
  unfold State.raise
  simp only
  split
  · exact writeRecord_kept ..
  · split
    · exact writeRecord_kept ..
    · split
      · exact (((writeRecord_kept ..).trans (haltPart_kept ..)).trans (modPart_kept ..)).trans (sendNotice_kept ..)
      · split
        · exact writeRecord_kept ..
        · exact (writeRecord_kept ..).trans (modPart_kept ..)

theorem writeRecord_part (s : State) (p : Nat) (ws : List Word) : (s.writeRecord p ws).part p =
    { s.part p with flt := { (s.part p).flt with
        log := SMap.put [] (s.part p).flt.log ((s.part p).flt.wp % 256) ws, wp := ((s.part p).flt.wp + 1) % 2 ^ 32 } } := by
  unfold State.writeRecord
  rw [irqFault_part, State.part_modPart_self]

/-- The first fault of a partition that runs is recorded with ROLE 0 and halts it. -/
theorem raise_faulted {s : State} {p : Nat} (f : FInfo) (h : Healthy s p) : Faulted s (s.raise p f) p f := by
  obtain ⟨h1, h2, h3⟩ := h
  have hr : s.raise p f = ((((s.writeRecord p (s.recordWords p 0 (s.part p).launch.lid f)).haltPart p).modPart p fun u =>
      { u with flt := { u.flt with first := some (s.recordWords p 0 (s.part p).launch.lid f) } }).sendNotice p (s.part p).launch.lid f.cls s.me s.now none) := by
    unfold State.raise
    simp [h1, h2, h3]
  obtain ⟨w, a, e1⟩ := haltPart_part (s.writeRecord p (s.recordWords p 0 (s.part p).launch.lid f)) p
  obtain ⟨b, e2⟩ := sendNotice_part (((s.writeRecord p (s.recordWords p 0 (s.part p).launch.lid f)).haltPart p).modPart p fun u =>
      { u with flt := { u.flt with first := some (s.recordWords p 0 (s.part p).launch.lid f) } }) p (s.part p).launch.lid f.cls s.me s.now none
  rw [State.part_modPart_self, e1, writeRecord_part] at e2
  have e3 : (s.writeRecord p (s.recordWords p 0 (s.part p).launch.lid f)).now = s.now := rfl
  refine ⟨?_, ?_, ?_, ?_, (raise_kept s p f).1⟩
  · rw [hr, e2]
  · rw [hr, e2]
    exact SMap.get_put_self ([] : List Word) (s.part p).flt.log ((s.part p).flt.wp % 256) (s.recordWords p 0 (s.part p).launch.lid f)
  · rw [hr, e2]
  · rw [hr, e2]; exact e3

end Sys2Proof
end

