-- ==== Sys2Proof/Laws/Issue.lean ====
section
/-! SUPPORT. What the shared operation of issue can do: nothing, a precise fault, a flight, or a wait. -/

namespace Sys2Proof

open Machine

theorem slotOf_inj {q r : Queue} (h : slotOf r = slotOf q) : r = q := by
  cases q <;> cases r <;> simp_all [slotOf]

@[simp] theorem queue_setQueue_self (v : Tile) (q : Queue) (x : QState) : (v.setQueue q x).queue q = x :=
  SMap.get_put_self _ _ _ _

theorem queue_setQueue_ne (v : Tile) {q r : Queue} (x : QState) (h : r ≠ q) : (v.setQueue q x).queue r = v.queue r :=
  SMap.get_put_ne _ _ _ fun hh => h (slotOf_inj hh)

theorem popHead_eq (v : Tile) (q : Queue) (e : QEntry) (occ : Nat) :
    v.popHead q e occ =
      { v with
        q := SMap.put QState.reset v.q (slotOf q) { ents := (v.queue q).ents.drop 1, free := v.now + occ, last := v.tim.cb }
        xb := if opWen e.w0 then setFlag16 v.xb (opWidx e.w0) false else v.xb
        xbc := if opWen e.w0 then setFlag16 v.xbc (opWidx e.w0) false else v.xbc } := by
  unfold Tile.popHead
  cases opWen e.w0 <;> rfl

theorem popHead_queue (v : Tile) (q : Queue) (e : QEntry) (occ : Nat) :
    (v.popHead q e occ).queue q = { ents := (v.queue q).ents.drop 1, free := v.now + occ, last := v.tim.cb } := by
  unfold Tile.popHead
  simp only
  split
  · exact queue_setQueue_self _ _ _
  · exact queue_setQueue_self _ _ _

theorem popHead_queue_ne (v : Tile) {q r : Queue} (e : QEntry) (occ : Nat) (h : r ≠ q) :
    (v.popHead q e occ).queue r = v.queue r := by
  unfold Tile.popHead
  simp only
  split
  · exact queue_setQueue_ne v _ h
  · exact queue_setQueue_ne v _ h

theorem popHead_xb (v : Tile) (q : Queue) (e : QEntry) (occ : Nat) :
    (v.popHead q e occ).xb = if opWen e.w0 then setFlag16 v.xb (opWidx e.w0) false else v.xb := by
  unfold Tile.popHead
  simp only
  split <;> rfl

theorem waitBeat_eq (v : Tile) (q : Queue) (e : QEntry) : v.waitBeat q e = { v with ctr := (v.waitBeat q e).ctr } := by
  unfold Tile.waitBeat
  split <;> rfl

/-- Only an operation that waits counts a beat of waiting at its issue. -/
theorem waitBeat_ne (v : Tile) {q : Queue} (e : QEntry) (h : q ≠ .sy) : v.waitBeat q e = v := by
  unfold Tile.waitBeat
  simp [h]

/-- An operation that issues with no fault leaves its flight behind. -/
theorem issue_go {s w : State} {t : Nat} {q : Queue} {op : Nat} {e : QEntry} {act : State → QEntry → Act} {eff : List Effect}
    {need : Nat} (h : s.issuing t q = some e) (ho : opcode e.w0 = op) (ha : act s e = .go w eff need) :
    Issued w (s.issue t q op act) t q e
      (s.latPub t q e.w0 e.w1 e.aux + s.tscale t * (s.lat t q e.w0 e.w1 e.aux - s.latPub t q e.w0 e.w1 e.aux))
      (s.tscale t * s.occ t q e.w0 e.w1) need eff := by
  unfold State.issue
  simp only [h, ho, ha, ne_eq, not_true, if_false]
  simp only [State.modTile, popHead_eq]
  rw [waitBeat_eq]
  refine ⟨_, _, rfl, by rw [waitBeat_eq (w.tile t)], rfl, rfl, Nat.add_assoc _ _ _, rfl, rfl, rfl, ?_, ?_, rfl⟩
  · exact SMap.get_put_self _ _ _ _
  · intro r hr
    exact SMap.get_put_ne _ _ _ fun hh => hr (slotOf_inj hh)

/-- An operation that issues as a wait leaves the wait behind. -/
theorem issue_wait {s w : State} {t op : Nat} {e : QEntry} {act : State → QEntry → Act} {x : Wait}
    (h : s.issuing t .sy = some e) (ho : opcode e.w0 = op) (ha : act s e = .wait w x) :
    WaitBegun w (s.issue t .sy op act) t e x := by
  unfold State.issue
  simp only [h, ho, ha, ne_eq, not_true, if_false]
  simp only [State.modTile, popHead_eq]
  rw [waitBeat_eq]
  refine ⟨_, rfl, by rw [waitBeat_eq (w.tile t)], ?_, ?_, rfl⟩
  · exact congrArg QState.ents (SMap.get_put_self _ _ _ _)
  · intro r hr
    exact SMap.get_put_ne _ _ _ fun hh => hr (slotOf_inj hh)

/-- An operation that faults precisely does not issue: its queue stops, and the fault is raised (R163); of an MXR
the engine is idle in that beat (R130). -/
theorem issue_fault {s : State} {t : Nat} {q : Queue} {op : Nat} {e : QEntry} {act : State → QEntry → Act} {cls cause : Nat}
    {fs : List Word} (h : s.issuing t q = some e) (ho : opcode e.w0 = op) (ha : act s e = .fault cls cause fs) :
    s.issue t q op act = (if q = .mx ∧ op = 1 then s.modTile t Tile.mxQuiet else s).opFault t q cls cause e.iaddr fs := by
  unfold State.issue
  simp only [h, ho, ha, ne_eq, not_true, if_false]

/-- A queue whose head does not issue, or is another operation, is left alone. -/
theorem issue_other {s : State} {t : Nat} {q : Queue} {op : Nat} {act : State → QEntry → Act}
    (h : ∀ e, s.issuing t q = some e → opcode e.w0 ≠ op) : s.issue t q op act = s := by
  unfold State.issue
  split
  · rfl
  · rename_i e he
    simp [h e he]

end Sys2Proof
end

