-- ==== Sys2Proof/Laws/Service.lean ====
section
/-! SUPPORT. What a service block can do: its crossing and its ECC outcome count, ask for tests and raise faults, and change nothing of the
memory (R172, R178 to R188). -/

namespace Sys2Proof

open Machine

theorem modDev_kept (s : State) (f : Dev → Dev) : Kept s (s.modDev f) := ⟨rfl, rfl, rfl, rfl, rfl, rfl, rfl, rfl, rfl, rfl, rfl⟩

theorem svcBlk_kept (s : State) (a : Nat) : Kept s (s.svcBlk a) := by
  unfold State.svcBlk
  simp only
  split
  · exact (modStack_kept ..).trans (modStack_kept ..)
  · exact modStack_kept ..

theorem askTest_kept (s : State) (kind idx : Nat) : Kept s (s.askTest kind idx) := by
  unfold State.askTest
  split <;> exact modDev_kept ..

theorem transferFault_kept (s : State) (a : Nat) (t : Option Nat) (fs : List Word) : Kept s (s.transferFault a t fs) := by
  unfold State.transferFault
  split
  · exact raise_kept ..
  · exact Kept.refl s

theorem svcCross_kept (s : State) (wr : Bool) (r : Bool × State) (a : Nat) : Kept r.2 (s.svcCross wr r a).2 := by
  unfold State.svcCross
  split
  · rename_i k o _ _
    simp only
    split
    · exact svcBlk_kept ..
    · split
      · exact (svcBlk_kept ..).trans ((modDev_kept ..).trans ((modStack_kept ..).trans ((askTest_kept ..).trans (svcBlk_kept ..))))
      · exact (svcBlk_kept ..).trans ((modDev_kept ..).trans ((modStack_kept ..).trans ((askTest_kept ..).trans
          ((svcBlk_kept ..).trans (transferFault_kept ..)))))
  · exact Kept.refl _

/-- The blocks of a service access cross with or without a second failure, and the memory is as before. -/
theorem svcPass_kept (s : State) (wr : Bool) (a n : Nat) : Kept s (s.svcPass wr a n).2 := by
  have h : ∀ (l : List Nat) (r : Bool × State), Kept r.2 (l.foldl (fun r b => r.2.svcCross wr r b) r).2 := by
    intro l
    induction l with
    | nil => intro r; exact Kept.refl _
    | cons b l ih => intro r; exact (svcCross_kept r.2 wr r b).trans (ih _)
  unfold State.svcPass
  split
  · exact Kept.refl s
  · exact h _ _

theorem countCe_kept (s : State) (a n : Nat) : Kept s (s.countCe a n) := by
  unfold State.countCe
  split
  · exact (modStack_kept ..).trans (askTest_kept ..)
  · exact (modDev_kept ..).trans (askTest_kept ..)
  · exact (modTile_kept ..).trans (askTest_kept ..)
  · exact Kept.refl s

theorem memSoft_kept (s : State) (a n : Nat) : Kept s (s.memSoft a n) := foldl_kept _ (fun u x => countCe_kept u x 1) _ s

theorem loftSoft_kept (s : State) (t off n : Nat) : Kept s (s.loftSoft t off n) :=
  foldl_kept _ (fun _ _ => (modTile_kept ..).trans (askTest_kept ..)) _ s

/-- An uncorrectable word met by a service read draws free values, asks for a test and faults its owner; the memory is as before. -/
theorem svcBad_mem (s : State) (a : Nat) : (s.svcBad a).mem = s.mem ∧ (s.svcBad a).valid = s.valid := by
  have h0 : ∀ k i, Kept ({ s with free := s.free + 1 } : State) (({ s with free := s.free + 1 } : State).askTest k i) := askTest_kept _
  unfold State.svcBad
  simp only
  split
  · exact ⟨((h0 _ _).trans (raise_kept ..)).1, ((h0 _ _).trans (raise_kept ..)).2.1⟩
  · exact ⟨(h0 _ _).1, (h0 _ _).2.1⟩

end Sys2Proof
end

