-- ==== Sys2Proof/WellFormed.lean ====
section
/-! DEFINITION. Well-formed commands: the units that a command names exist in the largest grade (R2, Table 1.7), and
what it carries has the size that the interface gives it. -/

namespace Sys2Proof

/-- 256 logical tiles (R2). -/
def tileOk (t : Nat) : Bool := decide (t < 256)
/-- 16 Rooms. -/
def roomOk (r : Nat) : Bool := decide (r < 16)
/-- A droop is of Level 1 or Level 2 (Table 8.1). -/
def levelOk (l : Nat) : Bool := decide (l = 1) || decide (l = 2)
/-- 48 Doorways (R24). -/
def doorOk (d : Nat) : Bool := decide (d < 48)
/-- 16 Eloagal ports (R2). -/
def portOk (n : Nat) : Bool := decide (n < 16)
/-- Four virtual channels (R260). -/
def vcOk (v : Nat) : Bool := decide (v < 4)
/-- Where a packet arrives: a port, or 16 for the device's own units. -/
def ingressOk (n : Nat) : Bool := decide (n < 17)
/-- Eight Marl stacks (R2). -/
def stackOk (s : Nat) : Bool := decide (s < 8)
/-- 16 channels of a stack (R169). -/
def channelOk (c : Nat) : Bool := decide (c < 16)
/-- Eight Cellar channels (R24). -/
def cellarChannelOk (c : Nat) : Bool := decide (c < 8)
/-- 64 partitions. -/
def partOk (p : Nat) : Bool := decide (p < 64)
/-- Two host ports. -/
def hostPortOk (h : Nat) : Bool := decide (h < 2)
/-- The PF and 64 VFs (R447). -/
def fnOk (f : Nat) : Bool := decide (f < 65)
/-- Eight mask barriers (R342). -/
def maskOk (m : Nat) : Bool := decide (m < 8)
/-- Two references (R236). -/
def refOk (r : Nat) : Bool := decide (r < 2)
/-- Rails 1 to 7 are monitored (R538). -/
def railOk (r : Nat) : Bool := decide (0 < r) && decide (r < 8)
/-- A device ID. -/
def srcOk (d : Nat) : Bool := decide (d < 65536)
/-- Layer numbers of 16 bits (Table 14.1). -/
def layerOk (l : Nat) : Bool := decide (l < 65536)
/-- A sector of 32 bytes of a 48 GiB stack (R167). -/
def sectorOk (n : Nat) : Bool := decide (n < 48 * 2 ^ 25)
/-- Sources of a thermal trip (Table 20.4). -/
def thermSrcOk (n : Nat) : Bool := decide (n < 4)
/-- Power states P0 to P4 (Table 17.7). -/
def powerOk (n : Nat) : Bool := decide (n < 5)
/-- A write into the 64 KiB command window (Table 16.1). -/
def windowOk (off len : Nat) : Bool := decide (0 < len) && decide (off + len ≤ 65536)
/-- An access within the 64 GiB memory aperture (Table 16.1). -/
def apertureOk (off size : Nat) : Bool := decide (0 < size) && decide (off + size ≤ 2 ^ 36)

/-- Accessors that exist. -/
def Accessor.ok : Accessor → Bool
  | .host hp fn => hostPortOk hp && fnOk fn
  | .sideband => true

/-- Positions of the flits of a group rise and lie in 0 to 63 (R256, R294). -/
def Group.ok (g : Group) : Bool := g.flits.all fun f => decide (f.1 < 64)

/-- Well-formed commands. DESIGN CHOICE (log entry 10). -/
def Instr.wf : Instr → Bool
  | .shaleWordDecode t => tileOk t
  | .operationComplete t _ => tileOk t
  | .snop t => tileOk t
  | .li t => tileOk t
  | .lih t => tileOk t
  | .add t => tileOk t
  | .sub t => tileOk t
  | .and t => tileOk t
  | .or t => tileOk t
  | .xor t => tileOk t
  | .shl t => tileOk t
  | .shr t => tileOk t
  | .sar t => tileOk t
  | .mul t => tileOk t
  | .setp t => tileOk t
  | .plog t => tileOk t
  | .loop t => tileOk t
  | .cnti t => tileOk t
  | .cmpc t => tileOk t
  | .vadd t => tileOk t
  | .vsub t => tileOk t
  | .vmul t => tileOk t
  | .vfma t => tileOk t
  | .vmax t => tileOk t
  | .vmin t => tileOk t
  | .vscl t => tileOk t
  | .vfn t => tileOk t
  | .vred t => tileOk t
  | .vcvt t => tileOk t
  | .vslb t => tileOk t
  | .vsld t => tileOk t
  | .vsclr t => tileOk t
  | .mxr t => tileOk t
  | .warm t => tileOk t
  | .mxcfg t => tileOk t
  | .ldl t => tileOk t
  | .ldg t => tileOk t
  | .ldm t => tileOk t
  | .lds t => tileOk t
  | .fetch t => tileOk t
  | .stl t => tileOk t
  | .sta t => tileOk t
  | .stn t => tileOk t
  | .std t => tileOk t
  | .stm t => tileOk t
  | .sts t => tileOk t
  | .sadd t => tileOk t
  | .sset t => tileOk t
  | .scas t => tileOk t
  | .swge t => tileOk t
  | .sweq t => tileOk t
  | .rbar t => tileOk t
  | .rwait t => tileOk t
  | .mbar t => tileOk t
  | .engineCold t => tileOk t
  | .insertedRampEnd t => tileOk t
  | .icacheMissFill t => tileOk t
  | .monitorNotify t => tileOk t
  | .syncPollRead t => tileOk t
  | .rafterRelease t => tileOk t
  | .maskBarrierRelease p mid => partOk p && maskOk mid
  | .courseStart t => tileOk t
  | .katSegment t _ => tileOk t
  | .planCompletion p => partOk p
  | .droopDetect r level => roomOk r && levelOk level
  | .stretchEcho r => roomOk r
  | .alarmArrival r => roomOk r
  | .stepdownEnd r => roomOk r
  | .sbnRestart r => roomOk r
  | .doorwayWordWrite door _ => doorOk door
  | .onDieLandingWrite t => tileOk t
  | .departureSend port => portOk port
  | .landingPacket port => portOk port
  | .hazardLandingRelease port => portOk port
  | .planPacketForward port => portOk port
  | .servicePacketEgress port => portOk port
  | .servicePacketForward port vc => portOk port && vcOk vc
  | .writePacket ing vc => ingressOk ing && vcOk vc
  | .readPacket ing vc => ingressOk ing && vcOk vc
  | .readRspPacket ing vc => ingressOk ing && vcOk vc
  | .writeCplPacket ing vc => ingressOk ing && vcOk vc
  | .errCplPacket ing vc => ingressOk ing && vcOk vc
  | .saddPacket ing vc => ingressOk ing && vcOk vc
  | .ssetPacket ing vc => ingressOk ing && vcOk vc
  | .scasPacket ing vc => ingressOk ing && vcOk vc
  | .msgPacket ing vc => ingressOk ing && vcOk vc
  | .nullPacket ing vc => ingressOk ing && vcOk vc
  | .vestibuleTimeout src => srcOk src
  | .linkGroupReceive port g _ => portOk port && g.ok
  | .controlFlitReceive port => portOk port
  | .timeRequestReceive port _ => portOk port
  | .timeReplyReceive port _ _ => portOk port
  | .timeExchangeTimer port => portOk port
  | .launchArmReceive port => portOk port
  | .launchAckReceive port => portOk port
  | .launchConfirmReceive port => portOk port
  | .launchConfirmDeadline p => partOk p
  | .launchCutoff p => partOk p
  | .launchFire p => partOk p
  | .retrainRequestReceive port => portOk port
  | .replayPositionSend port => portOk port
  | .serviceReplayTimeout port => portOk port
  | .planReplayTimeout port => portOk port
  | .creditTimeout port vc => portOk port && vcOk vc
  | .fecLockLost port => portOk port
  | .trainingComplete port _ _ => portOk port
  | .trainingTimeout port => portOk port
  | .retrainComplete port _ => portOk port
  | .retrainAttemptTimeout port => portOk port
  | .autoTrainTick port => portOk port
  | .peerTrainingDetect port => portOk port
  | .marlPositionTransfer stk ch _ _ => stackOk stk && channelOk ch
  | .marlBlockResend stk ch _ _ => stackOk stk && channelOk ch
  | .marlRefreshWindow stk ch _ => stackOk stk && channelOk ch
  | .stackTempChange stk _ => stackOk stk
  | .patrolScrub stk sector _ => stackOk stk && sectorOk sector
  | .loftEccWriteback t => tileOk t
  | .loftServiceWrite t => tileOk t
  | .cellarRefresh ch => cellarChannelOk ch
  | .sweepStart stk => stackOk stk
  | .sweepComplete stk => stackOk stk
  | .sweepDeadline stk => stackOk stk
  | .stepCommit p => partOk p
  | .stepCompose p => partOk p
  | .manifestRead p => partOk p
  | .pantryAllocExtend p => partOk p
  | .pantryPromote p => partOk p
  | .pantryOrderReceive p => partOk p
  | .pantryConfirmReceive p => partOk p
  | .outputRingCopy p hp => partOk p && hostPortOk hp
  | .wdDescriptorArrival p => partOk p
  | .wdStreamForward p => partOk p
  | .wdPieceConvert p => partOk p
  | .wdReportReceive p => partOk p
  | .wdDtmoTimeout p => partOk p
  | .wdHeadTimeout p => partOk p
  | .wswapOrderReceive p => partOk p
  | .wswapConfirmReceive p => partOk p
  | .weightRewriteStart p layer => partOk p && layerOk layer
  | .rowCopyDone p layer stk _ => partOk p && layerOk layer && stackOk stk
  | .layerDigestClose p => partOk p
  | .twinRecordReceive p => partOk p
  | .faultNoticeReceive p => partOk p
  | .haltReportSend p => partOk p
  | .haltReportReceive p => partOk p
  | .tileDrainEnd t => tileOk t
  | .hangRecordCollect p => partOk p
  | .selfTestRun _ _ _ => true
  | .shadowDigestReceive p => partOk p
  | .shadowPromoteRequestReceive p => partOk p
  | .shadowAckReceive p => partOk p
  | .shadowRoleSwitch p => partOk p
  | .routeActivate => true
  | .routeRetire => true
  | .refclkWindowEnd ref _ => refOk ref
  | .refclkMissingEdges ref => refOk ref
  | .refRevertTimeout => true
  | .parentSilenceTimeout => true
  | .holdoverLimit => true
  | .resumeRestart p => partOk p
  | .hostSyncWaitTimeout _ => true
  | .replyRingWrite hp fn => hostPortOk hp && fnOk fn
  | .dmaCopyDone hp _ => hostPortOk hp
  | .bindClearDone => true
  | .fwFlashWriteDone _ => true
  | .recoveryRomReset => true
  | .powerGood => true
  | .bringupStageDone _ => true
  | .perstDeassert hp _ => hostPortOk hp
  | .pwrOkDeassert => true
  | .railFault rail => railOk rail
  | .thermalTrip src stk => thermSrcOk src && stackOk stk
  | .offRequestTimeout => true
  | .commandSlotWrite hp fn off bytes => hostPortOk hp && fnOk fn && windowOk off bytes.length
  | .undefinedCommand => true
  | .nop => true
  | .dmaCopy => true
  | .planLoad => true
  | .planUnload => true
  | .launch => true
  | .launchCancel => true
  | .pause => true
  | .resume => true
  | .ctxReset => true
  | .syncWait => true
  | .syncOp => true
  | .srvSubmit => true
  | .srvCancel => true
  | .srvRelease => true
  | .ldrLoad => true
  | .ldrRetire => true
  | .wdist => true
  | .wswap => true
  | .dbgPhys => true
  | .bind => true
  | .pkeySet => true
  | .attest => true
  | .certGet => true
  | .dbgChal => true
  | .dbgUnlock => true
  | .dbgLock => true
  | .fwUpdate => true
  | .lcAdvance => true
  | .pwrSet => true
  | .svnCommit => true
  | .hangGet => true
  | .selftest _ => true
  | .retireGet => true
  | .shadowStart => true
  | .shadowPromote => true
  | .shadowStop => true
  | .sbStatus => true
  | .sbTelemetry => true
  | .sbRegisterRead _ => true
  | .sbRegisterWrite _ _ => true
  | .sbBudget _ _ => true
  | .sbFaultSummary p => partOk p
  | .sbFaultRecord p _ => partOk p
  | .sbPowerState st => powerOk st
  | .sbDeviceReset => true
  | .hostApertureAccess hp fn off size _ => hostPortOk hp && fnOk fn && apertureOk off size
  | .pwrBudgetWrite acc _ => acc.ok
  | .tilHzdCtlWrite acc _ => acc.ok
  | .fabGenArm acc _ => acc.ok
  | .fabDevidWrite acc _ => acc.ok
  | .mntWcCommit acc _ => acc.ok
  | .mntTdCtlWrite acc _ => acc.ok
  | .lnkCtlTrain acc port _ => acc.ok && portOk port
  | .lnkCtlRetrain acc port _ => acc.ok && portOk port
  | .lnkCtlForcedn acc port _ => acc.ok && portOk port
  | .lnkCtlEnWrite acc port _ => acc.ok && portOk port
  | .fabFenceEfence acc port _ => acc.ok && portOk port
  | .fabFenceLfence acc port _ => acc.ok && portOk port
  | .mntLtCfgWrite acc p _ => acc.ok && partOk p
  | .srvTwinWrite acc p _ _ => acc.ok && partOk p
  | .servingConfigWrite acc p _ _ => acc.ok && partOk p
  | .srvStepBaseWrite acc p _ => acc.ok && partOk p
  | .srvWswapStatClear acc p _ => acc.ok && partOk p
  | .cmdRringCfgWrite hp fn _ => hostPortOk hp && fnOk fn
  | .cmdRringRpWrite hp fn _ => hostPortOk hp && fnOk fn
  | .cmdApBaseWrite hp fn _ => hostPortOk hp && fnOk fn
  | .pwrBrgCtlFullreq acc => acc.ok
  | .pwrPresentWrite acc _ => acc.ok
  | .registerWrite acc _ _ => acc.ok
  | .controlPositionSend port => portOk port
  | .planLoadDone p => partOk p
  | .contextResetDone p => partOk p
  | .perstAssert hp => hostPortOk hp
  | .vddAuxPowerOnReset => true
  | .mntCountLowRead acc => acc.ok
  | .telemetryUpdate _ _ _ _ _ _ => true

end Sys2Proof
end

