-- ==== Sys2Proof/Tests/Slice0.lean ====
section
/-! SUPPORT. Tests: an ill-formed term for each check of well-formedness; for every statement with hypotheses, small states
that meet them; and small checks of results against the manual's own numbers. -/

/- The theorems are many and small: checked one after the other. -/
set_option Elab.async false

namespace Sys2Proof.Tests

open Machine

/-! ## Small states -/

/-- A unit of two tiles, one stack and two ports, all of them in their physical places. -/
def smallId : Ident := { Ident.reset with tiles := [0, 1], stks := [0], ports := [0, 1] }

/-- Both tiles, the first three regions of the stack, both ports, a serving record and a Larder slot are bound to partition 0. -/
def smallBind : SMap Byte :=
  [(0x000, 0x40), (0x001, 0x40), (0x100, 0x40), (0x101, 0x40), (0x102, 0x40), (0x280, 0x40), (0x300, 0x40), (0x301, 0x40),
   (0x310, 0x40), (0x350, 0x40)]

/-- The small unit after bring-up, at the Mantel count 1,000,000. -/
def base : State :=
  { State.reset with
    hrt := { Hearth.reset with id := smallId, bind := smallBind },
    pwr := { Pwr.reset with pwrOk := true, inReset := false, stage := 10, full := true, trained := [0], chpop := 0x33, dsz := 1, trainedC := [0] },
    mnt := { Mnt.reset with now := 1000000, up := 2000000, run := true, td := .track },
    fab := { Fab.reset with devid := 5 } }

/-- The base state with tile 0 in a plan beat, its first clock beat and plan beat. -/
def beatTile : Tile := { Tile.reset with tim := { TileTime.reset with cb := 1, pb := 1, beat := 1, course := 1, plan := true } }
def withTile (v : Tile) : State := base.setTile 0 v

/-- A queued operation that may issue. -/
def ent (w0 w1 : Nat) : QEntry := { w0 := word w0, w1 := word w1, iaddr := 0x1000, skip := false, ready := 0, aux := 0, par := false }
def headOf (v : Tile) (q : Queue) (w0 w1 : Nat) : Tile := v.setQueue q { QState.reset with ents := [ent w0 w1] }
/-- Tile 0 with an operation at the head of a queue. -/
def opState (q : Queue) (w0 w1 : Nat) : State := withTile (headOf beatTile q w0 w1)

/-- An operation in flight, due in the beat in progress. -/
def fly (q : Queue) (set : Option Nat) (eff : List Effect) : Flight :=
  { id := 3, q := q, start := 0, due := 1, set := set, iaddr := 0x1000, slab := [], blks := [], sregs := [], preds := [], need := 0, eff := eff }
def flyState (q : Queue) (set : Option Nat) (eff : List Effect) : State := withTile { beatTile with fly := [fly q set eff] }

/-- A course of 1,000 beats with a reserve of 10, at `start`. -/
def course (start : Nat) : Course := { len := 1000, rsv := 10, guard := 4, maint := 4, start := start, peak := 100, avg := 50 }

/-- A small plan of two courses on one device. -/
def smallPlan : Plan :=
  { pdig := 7, tcv := 0, reduced := false, invariant := false, shadow := false, shw := 0, shs := 0, ndev := 1, f := 0, notebase := 0,
    collbase := 0, iaddr := 0, ilen := 0, devs := [5], classid := 0, courses := [course 0, course 2000],
    tiles := [{ tile := 0, preload := 0, entry := 0x1000 }], init := [], sync := [], paths := [List.replicate 16 0x80],
    deps := [{ frame := 0, pos := 0, port := 0, ns := 1, epoch := 1, dst := 9, dtile := 0, dslot := 0, toff := 20 }],
    routes := [(9, 0)], links := [(0, true)], sweeps := [],
    rafter := [{ loc := 2, nch := 0, parent := 0xFFFF, upw := 0x020000000100, genw := 0x020000000108 }],
    masks := [{ mask := 3, grp := 0 }], serv := none, shapes := [], reads := [], wmap := none, digs := [], larder := none }

/-- Partition 0 runs it: launched at 999,000, course 0 begun. -/
def runPart : Part :=
  { Part.reset with
    plan := some smallPlan,
    launch := { Launch.reset with st := .running, lid := 1, t := 999000 },
    run := { Run.reset with t0 := 999000, course := 1 } }
def running (s : State) : State := s.setPart 0 runPart
/-- The same on an operation at the head of a queue of tile 0. -/
def runOp (q : Queue) (w0 w1 : Nat) : State := running (opState q w0 w1)
/-- The same with an operation in flight on tile 0. -/
def runFly (q : Queue) (set : Option Nat) (eff : List Effect) : State := running (flyState q set eff)


/-! ## Ill-formed commands are refused, one for each check -/

theorem test_wf_tile : (Instr.add 256).wf = false ∧ (Instr.add 255).wf = true := by decide
theorem test_wf_room : (Instr.stretchEcho 16).wf = false := by decide
theorem test_wf_level : (Instr.droopDetect 0 3).wf = false ∧ (Instr.droopDetect 0 2).wf = true := by decide
theorem test_wf_door : (Instr.doorwayWordWrite 48 true).wf = false := by decide
theorem test_wf_port : (Instr.departureSend 16).wf = false ∧ (Instr.departureSend 15).wf = true := by decide
theorem test_wf_vc : (Instr.servicePacketForward 0 4).wf = false := by decide
theorem test_wf_ingress : (Instr.writePacket 17 0).wf = false ∧ (Instr.writePacket 16 0).wf = true := by decide
theorem test_wf_stack : (Instr.sweepStart 8).wf = false := by decide
theorem test_wf_channel : (Instr.marlRefreshWindow 0 16 false).wf = false := by decide
theorem test_wf_cellarChannel : (Instr.cellarRefresh 8).wf = false := by decide
theorem test_wf_part : (Instr.stepCommit 64).wf = false ∧ (Instr.stepCommit 63).wf = true := by decide
theorem test_wf_mask : (Instr.maskBarrierRelease 0 8).wf = false := by decide
theorem test_wf_hostPort : (Instr.perstAssert 2).wf = false := by decide
theorem test_wf_fn : (Instr.replyRingWrite 0 65).wf = false ∧ (Instr.replyRingWrite 0 64).wf = true := by decide
theorem test_wf_ref : (Instr.refclkMissingEdges 2).wf = false := by decide
theorem test_wf_rail : (Instr.railFault 0).wf = false ∧ (Instr.railFault 8).wf = false ∧ (Instr.railFault 7).wf = true := by decide
theorem test_wf_src : (Instr.vestibuleTimeout 65536).wf = false := by decide
theorem test_wf_layer : (Instr.weightRewriteStart 0 65536).wf = false := by decide
theorem test_wf_sector : (Instr.patrolScrub 0 (48 * 2 ^ 25) .clean).wf = false := by decide
theorem test_wf_thermSrc : (Instr.thermalTrip 4 0).wf = false := by decide
theorem test_wf_power : (Instr.sbPowerState 5).wf = false := by decide
theorem test_wf_window : (Instr.commandSlotWrite 0 0 65536 [0]).wf = false ∧ (Instr.commandSlotWrite 0 0 0 []).wf = false := by decide
theorem test_wf_aperture : (Instr.hostApertureAccess 0 0 (2 ^ 36) 1 none).wf = false := by decide
theorem test_wf_accessor : (Instr.fabGenArm (.host 2 0) 0).wf = false ∧ (Instr.fabGenArm .sideband 0).wf = true := by decide
theorem test_wf_group : (Instr.linkGroupReceive 0 { flits := [(64, 0)], trailer := 0 } false).wf = false := by decide
/-! ## Witnesses: the operations of a tile (chapters 3 to 5)

The word of an operation has its code in bits 15:11 (Table 3.3). Each theorem shows, for each clause of the statement it is
named after, a state and operands that meet the clause's premises. -/

theorem wit_ScalarOperations : ∀ op ∈ [0x3, 0x4, 0x8, 0x9, 0xA, 0xB, 0xC], ∀ imm ∈ [0, 2 ^ 28 + 1],
    Issues (opState .sc (2048 * op + imm) 0xFFFFFFFF) 0 .sc op (ent (2048 * op + imm) 0xFFFFFFFF) := by
  unfold Issues; decide

theorem wit_ScalarMoves : ∀ op ∈ [0x0, 0x1, 0x2, 0x5, 0x6, 0x7, 0xD],
    Issues (opState .sc (2048 * op) 0xFFFFFFFF) 0 .sc op (ent (2048 * op) 0xFFFFFFFF) := by
  unfold Issues; decide

theorem wit_TimingControlAtDecode : ∀ op ∈ [0x10, 0x11, 0x12], ∀ c ∈ [[], [(0, 2)]],
    let s := withTile { beatTile with cnt := c, fe := { FrontEnd.reset with tcs := [(.sc, ent (2048 * op) 0)] } }
    (s.tile 0).fe.tcs = (.sc, ent (2048 * op) 0) :: [] ∧ opcode (ent (2048 * op) 0).w0 = op := by decide

theorem wit_VectorLanes : ∀ op ∈ [1, 2, 3, 4, 5, 6, 7, 8], Issues (opState .ve (2048 * op + 1) 0) 0 .ve op (ent (2048 * op + 1) 0) := by
  unfold Issues; decide

theorem wit_VectorReduceAndConvert : ∀ op ∈ [9, 0xA], Issues (opState .ve (2048 * op + 1) 0) 0 .ve op (ent (2048 * op + 1) 0) := by
  unfold Issues; decide

theorem wit_SlabSetOperations : ∀ op ∈ [0x10, 0x11, 0x12],
    Issues (opState .ve (2048 * op + 1) 0) 0 .ve op (ent (2048 * op + 1) 0) ∧
      ((opState .ve (2048 * op + 1) 0).tile 0).info0.mode = .clear := by
  unfold Issues; decide

/-- VSLD onto a set whose depth the load raises to the limit of 32,768 (R123). -/
theorem wit_SlabSetOperations_depth :
    let v := { headOf beatTile .ve (2048 * 0x11 + 1) 0 with info0 := { wb := 0, mode := .slab, pair := false, depth := 32767 } }
    Issues (withTile v) 0 .ve 0x11 (ent (2048 * 0x11 + 1) 0) ∧ (v.info 0).wb = vsldWb (word (2048 * 0x11 + 1)) ∧
      (v.info 0).depth + 1 ≤ 32768 := by
  unfold Issues; decide

theorem wit_MatrixRunIssues : ∀ op ∈ [1, 2, 3], Issues (opState .mx (2048 * op + 1) 0) 0 .mx op (ent (2048 * op + 1) 0) := by
  unfold Issues; decide

theorem wit_MatrixRunIssues_mxr : (headOf beatTile .mx 2049 0).mxrFault (word 2049) 0 ((headOf beatTile .mx 2049 0).s (mxAreg 0)) = none := by
  decide

/-- MXCFG that changes the ring, and one that names the ring of reset, of 8 blocks from block 56 (R114). -/
theorem wit_MatrixRunIssues_ring :
    (headOf beatTile .mx 0x1800 0).runInFlight = false ∧
    ¬ (mxcfgBase (word 0x1800) = (headOf beatTile .mx 0x1800 0).mx.wbase ∧ mxcfgBlks (word 0x1800) = (headOf beatTile .mx 0x1800 0).mx.wblks) := by
  decide

theorem wit_MatrixRunIssues_same_ring :
    mxcfgBase (word (0x1800 + 56 * 2 ^ 16 + 7 * 2 ^ 22)) = MxEng.reset.wbase ∧
    mxcfgBlks (word (0x1800 + 56 * 2 ^ 16 + 7 * 2 ^ 22)) = MxEng.reset.wblks := by decide

/-- A slab-mode run of one read, due in this beat. -/
def runOf : MxRun :=
  { w0 := word 2049, w1 := 0, d := 0, wbase := 56, wblks := 8,
    ks := [{ n0 := 0, a := List.replicate 64 0x38, w := List.replicate 64 0x38, sa := [], sw := [] }], reads := 1, upd := 0, sat := false, inv := false }
def runState : State :=
  flyState .mx none [.mxr runOf]

theorem wit_MatrixRunAccumulates :
    (runState.tile 0).fly.find? (fun x => decide (x.q = Queue.mx)) = some ((runState.tile 0).fly.headD (fly .mx none [])) ∧
    ((runState.tile 0).fly.headD (fly .mx none [])).ends (runState.tile 0).tim.cb = true ∧ (runState.tile 0).issuesLeft = false ∧
    mxFloat runOf.w0 = false ∧ mxRate (mxAf runOf.w0) (mxWf runOf.w1) ≠ .paired ∧ runOf.reads = mxReads runOf.w0 runOf.w1 ∧
    runOf.upd + runOf.ks.length = runOf.reads ∧ ∀ k ∈ runOf.ks, k.n0 + k.w.length ≤ 64 := by
  decide

theorem wit_EngineActivity :
    64 ≤ ((withTile beatTile).tile 0).mx.idle ∧
    ((withTile { beatTile with mx := { MxEng.reset with idle := 63 } }).tile 0).mx.idle < 64 ∧
    ((withTile { beatTile with mx := { MxEng.reset with ramp := 1 } }).tile 0).mx.ramp = 1 := by decide

/-- LDL whose range ends at the Landing, LDS of the last word below it, and LDG of two slots. -/
theorem wit_LoftLoads :
    let s := withTile { headOf beatTile .ld (2048 + 1) 0 with sreg := [(0, 0xEFF00)] }
    Issues s 0 .ld 1 (ent (2048 + 1) 0) ∧ (s.tile 0).loftOff (lsAreg (word 2049)) (offBytes 0) = 0xEFF00 ∧
      ldlL (word 2049) = 1 ∧ s.dev.bad = [] ∧ s.dev.soft = [] := by
  unfold Issues; decide

theorem wit_LoftLoads_lds :
    let s := withTile { headOf beatTile .ld (2048 * 4 + 1) 0 with sreg := [(0, 0xEFFF8)] }
    Issues s 0 .ld 4 (ent (2048 * 4 + 1) 0) ∧ (s.tile 0).loftOffS (ldsAreg (word (2048 * 4 + 1))) 0 = 0xEFFF8 := by
  unfold Issues; decide

theorem wit_LoftLoads_ldg :
    let s := opState .ld (2048 * 2 + 1) 0
    Issues s 0 .ld 2 (ent (2048 * 2 + 1) 0) ∧ ldgN (word (2048 * 2 + 1)) ≤ 2 ∧ s.partOf 0 = some 0 ∧ (s.part 0).run.hzd = false ∧
      (s.tile 0).tagOf (ldgSlot (word (2048 * 2 + 1))) = s.epochOf 0 (ldgEpoch 0) false ∧ s.dev.badTag = [] ∧ s.dev.bad = [] ∧ s.dev.soft = [] := by
  unfold Issues; decide

/-- LDM with and without INC, and STM without a digest, of one block of an owned region. -/
theorem wit_MarlLoadsAndStores :
    ∀ w ∈ [(Queue.ld, 3, 0x1801, false), (Queue.ld, 3, 0x1801 + 2 ^ 27, false), (Queue.st, 5, 0x2801, false)],
      Issues (opState w.1 w.2.2.1 0) 0 w.1 w.2.1 (ent w.2.2.1 0) ∧ (beatTile.marlAddr (lsAreg (word w.2.2.1)) (lsmOff 0)) = 0 ∧
        base.region 0 = .marl 0 0 ∧ base.blkOwned 0 0 = true := by
  unfold Issues; decide

theorem wit_LoftStores :
    let s := withTile { headOf beatTile .st (2048 + 1) 0 with sreg := [(0, 0xEFF00)] }
    Issues s 0 .st 1 (ent (2048 + 1) 0) ∧ stlDig (word 2049) = false ∧ ldlL (word 2049) = 1 ∧
      ((s.tile 0).s (lsAreg (word 2049))).toNat + offBytes 0 = 0xEFF00 := by
  unfold Issues; decide

theorem wit_LoftStores_sta : Issues (opState .st (2048 * 2 + 1) 0) 0 .st 2 (ent (2048 * 2 + 1) 0) ∧ staDig (word (2048 * 2 + 1)) = false := by
  unfold Issues; decide

/-- STS to the last word below the Landing, its offset wrapped modulo 2^20. -/
theorem wit_LoftStores_sts :
    let s := withTile { headOf beatTile .st (2048 * 6 + 1) 0xFFFFFFF8 with sreg := [(0, 0x1F0000)] }
    Issues s 0 .st 6 (ent (2048 * 6 + 1) 0xFFFFFFF8) ∧
      ((((s.tile 0).s (ldsAreg (word (2048 * 6 + 1)))).toNat : Int) + (word 0xFFFFFFF8).toInt) % 2 ^ 20 = 0xEFFF8 := by
  unfold Issues; decide

theorem wit_PlanSends :
    let s := runOp .st (2048 * 3 + 1) 0
    s.partOf 0 = some 0 ∧ (s.part 0).plan = some smallPlan ∧ Issues s 0 .st 3 (ent (2048 * 3 + 1) 0) ∧ stnN (word (2048 * 3 + 1)) = 1 := by
  unfold Issues; decide

theorem wit_PlanSends_std :
    let s := runOp .st (2048 * 4 + 1) 0
    Issues s 0 .st 4 (ent (2048 * 4 + 1) 0) ∧ smallPlan.deps[stdDep (word (2048 * 4 + 1))]?.isSome = true ∧ (s.part 0).sh.silent = false ∧
      (s.port 0).tx.dbuf = [] ∧ (s.part 0).startOf ((s.tile 0).tim.course - 1) = some 999000 := by
  unfold Issues; decide

/-- One operation in flight for each kind of effect, due in the beat in progress. -/
theorem wit_CompletionEffects :
    ∀ e ∈ [[], [Effect.sreg 15 5], [.pred 11 true], [.opnd 131071 [1]], [.slabRows 1 63 [Acc.zero]], [.slabClear true true], [.ring 56 8],
        [.mem 0x02000FFFFFF8 [1, 2, 3, 4, 5, 6, 7, 8]]],
      Completes (flyState .ve none e) 0 .ve (fly .ve none e) ∧ (fly .ve none e).set = none := by
  unfold Completes; decide

/-- Bits 0 and 15: clear at the start of the beat; and set and not cleared. -/
theorem wit_BarrierBitSet : ∀ i ∈ [0, 15],
    Completes (flyState .ld (some i) []) 0 .ld (fly .ld (some i) []) ∧ ((flyState .ld (some i) []).tile 0).xbc.getLsbD i = false := by
  unfold Completes; decide

theorem wit_BarrierBitFault : ∀ i ∈ [0, 15],
    let s := running (withTile { beatTile with xbc := BitVec.ofNat 16 (2 ^ i), fly := [fly .ld (some i) []] })
    Completes s 0 .ld (fly .ld (some i) []) ∧ (s.tile 0).xbc.getLsbD i = true ∧ s.partOf 0 = some 0 ∧
      (s.part 0).flt.resetting = false ∧ (s.part 0).running = true ∧ (s.part 0).run.halted = false := by
  unfold Completes; decide

/-! ## Witnesses: synchronisation (chapter 11) -/

/-- The address of the tile's own Loft word at offset 0x100, in s[0]. -/
def syState (op w : Nat) : State :=
  running (withTile { headOf beatTile .sy (2048 * op + w + 1) 0 with sreg := [(0, 0x020000000100), (1, 7)] })
def syEnt (op w : Nat) : QEntry := ent (2048 * op + w + 1) 0

theorem wit_SyncUpdates : ∀ op ∈ [1, 2, 3], ∀ rmt ∈ [0, 2 ^ 28],
    Issues (syState op rmt) 0 .sy op (syEnt op rmt) ∧ (syState op rmt).partOf 0 = some 0 ∧
      ((syState op rmt).tile 0).syAddr (syEnt op rmt).w0 0 = 0x020000000100 ∧ (syState op rmt).badIn 0x020000000100 8 = none := by
  unfold Issues; decide

theorem wit_SyncUpdates_marl : base.region 8 = .marl 0 8 ∧ base.blkOwned 0 8 = true ∧ 0 < base.nTiles := by decide

theorem wit_SyncUpdateCompletes : ∀ k ∈ [0, 1, 2],
    let w : SyncUpd := { kind := k, addr := 0x02000FFFFFF8, x := 1, y := 2 }
    Completes (flyState .sy none [.sync w]) 0 .sy (fly .sy none [.sync w]) ∧ ((flyState .sy none [.sync w]).part 0).plan = none ∧
      (flyState .sy none [.sync w]).partOf 0 = some 0 := by
  unfold Completes; decide

/-- A wait for 0, which is met, and one for 7, which is not (the word reads 0). -/
theorem wit_SyncWaits : ∀ op ∈ [4, 5],
    Issues (syState op 0) 0 .sy op (syEnt op 0) ∧ Issues (syState op (2 ^ 20)) 0 .sy op (syEnt op (2 ^ 20)) ∧
      syMon (syEnt op 0).w0 = false ∧ (syState op 0).rdW 0x020000000100 = 0 ∧ ((syState op 0).tile 0).s (syVreg (syEnt op (2 ^ 20)).w0) = 7 ∧
      ((syState op 0).tile 0).monOf (0x020000000100 / 64) = none ∧ (syState op 0).badIn 0x020000000100 8 = none := by
  unfold Issues; decide

theorem wit_RafterBarriers :
    let s := syState 8 0
    Issues s 0 .sy 8 (syEnt 8 0) ∧ s.rafterEnt 0 0 = smallPlan.rafter[0]? ∧
      (s.rdW 0x020000000100).toNat + 1 < (2 + 0) * ((s.rdW 0x020000000108).toNat + 1) := by
  unfold Issues; decide

/-- RWAIT with ARR at G, which completes, and one above it, which waits. -/
theorem wit_RafterBarriers_rwait :
    Issues (syState 9 0) 0 .sy 9 (syEnt 9 0) ∧ ((syState 9 0).tile 0).arrOf 0 = 0 ∧
    (let s := running (withTile { headOf beatTile .sy (2048 * 9 + 1) 0 with arr := [(0, 1)] })
     Issues s 0 .sy 9 (syEnt 9 0) ∧ (s.rdW 0x020000000108).toNat < (s.tile 0).arrOf 0) := by
  unfold Issues; decide

theorem wit_RafterBarriers_mbar :
    Issues (syState 0xA 0) 0 .sy 0xA (syEnt 0xA 0) ∧ maskWait (syEnt 0xA 0).w0 = false ∧ (syState 0xA 0).maskEnt 0 0 = smallPlan.masks[0]? ∧
    maskBit { mask := 3, grp := 0 } 0 = some 0 ∧ (((syState 0xA 0).part 0).arrivedOf 0).getLsbD 0 = false ∧
    Issues (syState 0xA (2 ^ 19)) 0 .sy 0xA (syEnt 0xA (2 ^ 19)) ∧ maskWait (syEnt 0xA (2 ^ 19)).w0 = true ∧
    ((syState 0xA (2 ^ 19)).tile 0).tphOf 0 ≤ ((syState 0xA (2 ^ 19)).part 0).phOf 0 := by
  unfold Issues; decide

theorem wit_RafterBarriers_mbar_waits :
    let s := running (withTile { headOf beatTile .sy (2048 * 0xA + 1 + 2 ^ 19) 0 with tph := [(0, 1)] })
    Issues s 0 .sy 0xA (syEnt 0xA (2 ^ 19)) ∧ (s.part 0).phOf 0 < (s.tile 0).tphOf 0 := by
  unfold Issues; decide

/-- A polling wait for 0 on a word that reads 0, in the second beat of the tile. -/
def pollTile (k : WaitKind) (a : Nat) : Tile :=
  { beatTile with tim := { beatTile.tim with cb := 2, pb := 2, beat := 2 }, wait := some { barWait k a with reads := 1, poll := 1 } }

theorem wit_WaitEvents :
    let s := running (withTile (pollTile .word 0x020000000100))
    s.pollDue 0 = true ∧ s.issuing 0 .ld = none ∧ s.inCourse 0 = true ∧ s.rdW 0x020000000100 = 0 := by decide

theorem wit_WaitEvents_notes :
    let v := { beatTile with notes := [[(0x100, 5)]] }
    let m : Monitor := { line := 4, stamp := 1, vals := [] }
    v.monOf (0x100 / 64) = none ∧ ({ v with mons := [m] } : Tile).monOf (0x100 / 64) = some m ∧ v.wait = none := by decide

theorem wit_WaitEvents_rafter :
    let s := running (withTile (pollTile .rwait 0))
    (s.tile 0).wait.isSome = true ∧ s.partOf 0 = some 0 ∧ s.rafterEnt 0 0 = smallPlan.rafter[0]? ∧
      (s.tile 0).arrOf 0 ≤ (s.rdW 0x020000000108).toNat ∧ s.inCourse 0 = true := by decide

theorem wit_MaskBarrierReleases :
    let s := running base
    let u := base.setPart 0 { runPart with arrived := [(0, 3)] }
    s.maskEnt 0 0 = some { mask := 3, grp := 0 } ∧ (s.part 0).arrivedOf 0 ≠ 3 ∧ u.maskEnt 0 0 = some { mask := 3, grp := 0 } ∧ (u.part 0).arrivedOf 0 = 3 := by
  decide

/-! ## Witnesses: the beat of a tile, its Loft and the Marl (chapters 3 and 6) -/

/-- A resident line of words that are all an SNOP alone: header 0x81 (SC, length 2), operation 0. -/
def snopLine (l : Nat) : ICLine := { line := l, lock := none, used := 0, data := (List.range 32).flatMap fun _ => [0x81, 0, 0, 0, 0, 0, 0, 0] }
/-- Tile 0 between its first and its second clock beat, its front end at 0x1000. -/
def idleTile : Tile :=
  { beatTile with
    fe := { FrontEnd.reset with on := true, pc := 0x1000 },
    ic := [(32, snopLine 16)] }
def inRoom (s : State) : State := s.setRoom 0 { Room.reset with clk := 2, sbn := 2 }

theorem wit_ShaleWordDecoded :
    let s := inRoom (running (withTile idleTile))
    let s1 := s.modTile 0 fun x => { x.xbStart with tim := { x.tim with cb := 2, plan := false, maint := false } }
    s.beatOk 0 = true ∧ s.partOf 0 = some 0 ∧ (s.part 0).run.hzd = false ∧ s1.inCourse 0 = true ∧ s1.inMaint 0 = false ∧
      (s.tile 0).fly = [] ∧ (s.tile 0).lands = [] ∧ (s.tile 0).wait = none ∧ (s.tile 0).mx.ramp = 0 ∧ s.stepped 0 = false ∧
      s1.look 0 1 = .word 0x81 [(.sc, 0, 0)] ∧ s1.headStall 0 1 = false ∧ (s1.tile 0).rampDue 1 = false ∧ (s.tile 0).fe.loops = [] := by decide +kernel

/-- An LDS of s[0] in flight, and an ADD of s[0] at the head of the SC queue: the beat stalls (R105). -/
theorem wit_InterlockStallCharged :
    let f := { fly .ld none [] with due := 4, sregs := [0] }
    let v := { headOf idleTile .sc (2048 * 3) 0 with fly := [f], tim := { idleTile.tim with plan := false } }
    let s := inRoom (running (withTile v))
    let s1 := ((s.modTile 0 fun x => { x.xbStart with tim := { x.tim with cb := 2, plan := false, maint := false } }).landUpTo 0 1).goOnAll 0 1
    s.beatOk 0 = true ∧ s.partOf 0 = some 0 ∧ (s.part 0).run.hzd = false ∧ s1.inCourse 0 = true ∧ s1.inMaint 0 = false ∧
      v.wait = none ∧ v.dueNow = none ∧ (s1.tile 0).mx.ramp = 0 ∧ s1.headStall 0 1 = true ∧ s1.courseOf 0 = some (course 0) ∧
      (s1.tile 0).tim.s + 8 ≤ 8 * 10 ∧ (s1.tile 0).tim.cb = 2 ∧ (s1.tile 0).wait = none := by decide

/-- A service write that ends at the Landing, and a corrected word at the end of the Loft. -/
theorem wit_TileHousekeeping :
    let x : SvcEnt := { off := 0xEFFFF, data := [7], hdr := none, counts := false }
    let v := { beatTile with svc := [x], wback := [(0xFFFF8, 9)], fillAt := 1 }
    let s := { withTile v with dev := { base.dev with soft := [loftAddr 0 0xFFFF8] } }
    loftAddr 0 0xFFFF8 ∈ s.dev.soft ∧ (s.tile 0).wback = v.wback ∧ v.svc = x :: [] ∧ 0xEFFFF + x.data.length ≤ 0xF0000 ∧
      v.fillAt ≠ (s.room (s.roomOf 0)).clk ∧ v.wback = (0xFFFF8, 9) :: [] ∧ v.fly = [] ∧
      v.fillAt = ((s.setRoom (s.roomOf 0) { Room.reset with clk := 1 }).room (s.roomOf 0)).clk ∧ v.fillAt ≠ 0 := by decide

/-- The last piece of a packet's WRITE of 64 B in the service buffer: it completes the packet. -/
theorem wit_TileHousekeeping_write :
    let h := { Hdr.zero with dst := 5, src := 9, opc := 1, len := 1, addr := 0x020000000100, vc := 2 }
    let x : SvcEnt := { off := 0x100, data := List.replicate 64 7, hdr := some h.enc, counts := true }
    let s := withTile { beatTile with svc := [x], fillAt := 1 }
    let d := Hdr.dec h.enc
    x.off + x.data.length ≤ 0xF0000 ∧ d.opc = 1 ∧ d.ord = false ∧ d.fi = (s.ordOf d.src).cur ∧ (s.ordOf d.src).vest = [] ∧ (s.part d.part).sh.role = 0 ∧
      d.addr % 2 ^ 20 + 64 * d.len ≤ 2 ^ 20 ∧ s.region d.addr = .loft 0 x.off := by decide +kernel

theorem wit_TileHousekeeping_drain :
    let s := base.setPart 0 { runPart with run := { runPart.run with halted := true } }
    s.draining 0 = true ∧ (s.tile 0).fly = [] ∧ ∀ q ∈ allQueues, ((s.tile 0).queue q).ents = [] := by decide

/-- A missing line of owned code, at position 45 of a frame outside the refresh window of its channel. -/
theorem wit_TileHousekeeping_miss :
    let v := { beatTile with fe := { FrontEnd.reset with miss := [16] } }
    let s := { withTile v with mnt := { base.mnt with now := 80 * 12510 + 77 } }
    v.resident 16 = false ∧ v.icVictim (icSet 16) ≠ none ∧ v.fly = [] ∧ s.marlFault (16 * 256) 1 = none ∧ s.blkOwned 0 (16 * 256) = true ∧
      s.codePos 16 = true ∧ s.lineComing 0 16 = false ∧ (s.stack (16 * 256 / stackSize)).back = [] ∧ s.badIn (16 * 256) 256 = none ∧
      s.softIn (16 * 256) 256 = [] := by decide

/-- The same line outside such a position, and a line of a region that is not bound. -/
theorem wit_TileHousekeeping_late :
    let s := { withTile beatTile with mnt := { base.mnt with now := 80 * 12510 } }
    s.codePos 16 = false ∧ s.marlFault (4 * 2 ^ 30) 1 = none ∧ s.blkOwned 0 (4 * 2 ^ 30) = false := by decide

/-- The last four beats of the course are maintenance beats. -/
theorem wit_TileHousekeeping_kat :
    let s := running (withTile { beatTile with tim := { beatTile.tim with beat := 997 } })
    s.courseOf 0 = some (course 0) ∧ 1000 < (s.tile 0).tim.beat + 4 ∧ (s.tile 0).katAt ≠ (s.tile 0).tim.cb + 1 := by decide

/-- FETCH of one line at its decode. -/
theorem wit_TileHousekeeping_fetch :
    let e := { ent (2048 * 5 + 1) 0 with aux := 0x1000 }
    let s := withTile { beatTile with fe := { FrontEnd.reset with tcs := [(.ld, e)] } }
    (s.tile 0).tcDue .ld 5 = some e ∧ fetchN e.w0 = 1 ∧ s.marlFault 0x1000 1 = none ∧ s.blkOwned 0 0x1000 = true := by decide

/-- FETCH that issues: a plain one, a misaligned one, and one that locks a line of a set whose other line is locked. -/
theorem wit_TileHousekeeping_issue :
    let e := { ent (2048 * 5 + 1 + 2 ^ 26) 0 with aux := 0x1000 }
    let bad := { e with aux := 0x1004 }
    let v := beatTile.setQueue .ld { QState.reset with ents := [e] }
    let w := { v with ic := [(32, { snopLine 144 with lock := some 1 })] }
    Issues (running (withTile v)) 0 .ld 5 e ∧ (running (withTile v)).owner 0 0 = some 0 ∧ Healthy (running (withTile v)) 0 ∧
      Issues (running (withTile (beatTile.setQueue .ld { QState.reset with ents := [bad] }))) 0 .ld 5 bad ∧
      Issues (running (withTile w)) 0 .ld 5 e ∧ fetchLock e.w0 = true ∧ w.icLocked (icSet 16) = some { snopLine 144 with lock := some 1 } := by
  unfold Issues Healthy; decide +kernel

/-- A slot that is due at its tile, and one that is due at a Doorway. -/
def flightSlot (doors : List (Nat × Nat)) : OnDie :=
  { src := 1, dst := 0, slot := 255, epoch := 3, part := 0, data := List.replicate 256 7, doors := doors, due := 1, rest := 0, course := 0 }
def landState (doors : List (Nat × Nat)) : State :=
  let s := { running base with fab := { base.fab with onDie := [flightSlot doors] } }
  (List.range 16).foldl (fun (u : State) r => u.setRoom r { Room.reset with clk := 5, sbn := 5, bn0 := [(0, 1)], crs := [(0, 1)] }) s

theorem wit_LandingWrites :
    let s := landState []
    let w := s.beatAt 0 0 (s.stepBn (flightSlot []) (s.roomOf 0) 0)
    s.stepDue (flightSlot []) (s.roomOf 0) 0 = true ∧ s.owner 0 0 = some 0 ∧ (s.part 0).run.halted = false ∧ (s.part 0).run.hzd = false ∧
    (s.tile 0).lands = [] ∧ (s.tile 0).now ≤ w ∧
    (landState [(47, 2)]).stepDue (flightSlot [(47, 2)]) (doorRooms 47).2 0 = true := by decide

/-- The same slot where its beat is over at the tile, and one that waits for the tile's next clock beat. -/
theorem wit_LandingWrites_past :
    let s := landState []
    let u := s.setTile 0 { beatTile with tim := { beatTile.tim with cb := 9 } }
    let e : LandEnt := { beat := 0, slot := 255, epoch := 3, data := List.replicate 256 7 }
    let i := inRoom (withTile { Tile.reset with tim := { TileTime.reset with cb := 1 }, lands := [e] })
    u.beatAt 0 0 (u.stepBn (flightSlot []) (u.roomOf 0) 0) < (u.tile 0).now ∧ u.stepDue (flightSlot []) (u.roomOf 0) 0 = true ∧
      e.beat < (i.tile 0).tim.cb ∧ i.beatOk 0 = true ∧ (i.tile 0).fly = [] ∧ i.inCourse 0 = false ∧ i.draining 0 = false := by decide

/-- A read block at the head of channel 0, and one that waits for its re-send. -/
def readBlk : Blk := { addr := 0, tile := 0, fly := 3, op := .rdOpnd 0, rdy := 0 }
def chanState (c : Chan) (frame : Nat) : State :=
  { base.setStack 0 (Stack.setChan { Stack.reset with hot := true } 0 c) with mnt := { base.mnt with now := 80 * frame } }

theorem wit_MarlChannels :
    let s := chanState { Chan.reset with plan := [readBlk] } 12502
    ((s.stack 0).chan 0).plan = readBlk :: [] ∧ ((s.stack 0).chan 0).again = [] ∧ ((s.stack 0).chan 0).pos ≤ s.posNow ∧
      inWindow s.frameNow 0 = false ∧ s.posNow % 47 < 45 ∧ readBlk.rdy ≤ s.now ∧ readBlk.addr / stackSize = 0 ∧ s.badIn readBlk.addr 256 = none ∧
      s.softIn readBlk.addr 256 = [] ∧ (s.stack 0).back = [] := by decide

theorem wit_MarlChannels_resend :
    let s := chanState { Chan.reset with again := [(readBlk, 587586)] } 12502
    ((s.stack 0).chan 0).again = [(readBlk, 587586)] ∧ s.frame * 587586 + s.frame + 282 ≤ s.frame * s.posNow ∧
      ((s.stack 0).chan 0).pos ≤ s.posNow := by decide

theorem wit_MarlChannels_refresh :
    let s := chanState Chan.reset 12501
    inWindow s.frameNow 15 = true ∧ ((s.stack 0).chan 15).win ≠ windowOf s.frameNow 15 + 1 ∧ (s.stack 0).hot = true := by decide

theorem wit_MemoryPatrol :
    let a := 0 * stackSize + 32 * (48 * 2 ^ 25 - 1)
    base.stackUp 0 = true ∧ base.ownerAt a = none ∧ base.badIn a 32 = none ∧ base.softIn a 32 = [] ∧
      base.hrt.id.holeM.contains (a / 2 ^ 30) = false := by decide

/-! ## Witnesses: clocks and Mantel time (chapter 8) -/

theorem wit_RoomClockEvents :
    let x := { Room.reset with clk := 1, sbn := 1 }
    x.clk ≠ 0 ∧ x.almAt ≠ x.clk ∧ x.answered = none ∧ x.inFlight < 2 ∧
    (let y := { x with clk := 3, own := [(1, 2), (2, 2)] }
     y.almAt ≠ y.clk ∧ y.answered = none ∧ 2 ≤ y.inFlight) ∧
    (let s := base.setRoom 0 { x with echoes := [(1, 2, 3)], sbnAt := sbnEpoch ((x.edge : Int) - 10000000), edge := 10000000 }
     (s.room 0).echoes = (1, 2, 3) :: [] ∧ 1 ≤ (s.room 0).sbn ∧ s.restartsNext 0 = false) ∧
    (base.setRoom 0 { x with edge := 40970000, sbnAt := 1 }).restartsNext 0 = true ∧
    0 < ({ x with alarm := 2 } : Room).alarm ∧
    (let y := { x with stepOn := true }
     y.stepOn = true ∧ y.step = 0 ∧ y.stepCur = false ∧ y.arm = false) ∧
    (let s := { base with mnt := { base.mnt with now := 4096, up := 4096 } }.setRoom 0 { x with beg := 40960, sbnAt := 1 }
     0 ≤ s.begTicks 0 ∧ (s.room 0).sbnAt ≠ ((s.begTicks 0) / 40960).toNat + 1) ∧
    (let s := running (withTile { beatTile with tim := { beatTile.tim with s := 78 } })
     ∀ t ∈ s.tilesIn 0, ∀ c, s.courseOf t = some c → (s.tile t).tim.s + 2 ≤ 8 * c.rsv) := by decide +kernel

/-- A window at every limit of R237, and one picosecond of jitter inside it. -/
def goodWindow : RefWindow := { jitter := 5000, duty := 450, offset := 200000 }

theorem wit_ReferenceAndTimeExchange :
    base.pwr.inReset = false ∧ (base.mnt.ref false).run + 1 < 1000 ∧
    (let m := { base.mnt with refA := { RefIn.reset with run := 999 } }
     (m.ref false).run = 999 ∧ (m.ref false).good = false) ∧
    goodWindow.jitter ≤ 5000 ∧ 450 ≤ goodWindow.duty ∧ goodWindow.offset ≤ 200000 ∧
    (let m := { base.mnt with active := some true, revert := true, refA := { RefIn.reset with good := true, goodAt := 0 }, up := 10000000000 }
     m.active = some true ∧ m.active = some (!m.pref) ∧ (m.ref m.pref).good = true ∧ (m.ref m.pref).goodAt + 10000000000 ≤ m.up) := by decide

/-- No partition of the base state has a plan. -/
theorem wit_no_plan : ∀ p, (base.part p).plan = none := by intro p; rfl

/-- An UP port with messages of types 1, 2, 3 and 4 waiting. -/
def msg (ty : Nat) (body : Nat) : LinkMsg := { mtype := ty, mseq := 1, body := BitVec.ofNat 192 body }
def upPort : Port := { Port.reset with en := true, st := .up, peer := 9, delay := 100 }
def heard (ty body : Nat) : Port := { upPort with rx := { RxSide.reset with msgs := [msg ty body] } }

theorem wit_ReferenceAndTimeExchange_messages :
    upPort.st = .up ∧ upPort.exAt + 1000000 ≤ base.mnt.up ∧ (heard 1 0).rx.msgs = msg 1 0 :: [] ∧ (msg 1 0).mtype = 1 ∧
    (heard 2 0).rx.msgs = msg 2 0 :: [] ∧ (msg 2 0).mtype = 2 ∧ bits (msg 2 0).body.toNat 128 16 = (heard 2 0).xid ∧ (heard 2 0).st = .up := by
  decide

/-- A device-owner accessor, by the sideband. -/
theorem wit_TimeDiscipline :
    base.accUp .sideband = true ∧ accOwner .sideband = true ∧ flag (1 : BitVec 32) 0 = true ∧ flag (0 : BitVec 32) 0 = false ∧
    (let m := { base.mnt with tdEn := true, up := 3000000 }
     m.tdEn = true ∧ m.master = false ∧ m.altEn = false ∧ m.td = .track ∧ { base with mnt := m }.silent m.timePort = true) ∧
    (let m := { base.mnt with td := .holdover, holdAt := 0, up := 10000000 }
     m.td = .holdover ∧ m.holdFlt = false ∧ m.holdAt + 10000000 ≤ m.up) := by decide

/-! ## Witnesses: courses, ports and links (chapters 2, 9 and 10) -/

/-- Course 0 falls due in the beat that Room 0 has just begun, on a tile that has run none. -/
def startState : State :=
  let v := { Tile.reset with tim := { TileTime.reset with cb := 1, pb := 1 } }
  let s := (withTile v).setPart 0 { runPart with run := { runPart.run with course := 0 } }
  (s.setRoom 0 { Room.reset with clk := 2, sbn := 2, beg := 20000000 }).setTile 1 v

theorem wit_CourseStarts :
    let s := startState
    s.partOf 0 = some 0 ∧ s.startDue 0 = true ∧ s.beatReady 0 = true ∧ s.notDone 0 = false ∧ (s.tile 0).wait = none ∧
      (s.part 0).startOf 0 = some 999000 ∧ s.startStepped 0 999000 = false ∧ (s.room 0).curEv = 0 ∧ (s.part 0).run.course = 0 ∧
      999000 ≤ s.now ∧ (s.part 0).run.pause = none ∧ (s.part 0).plan = some smallPlan ∧ smallPlan.serv = none ∧ (s.part 0).live = true := by
  decide +kernel

/-- The plan is done at 999,000 + 2,000 + 808 + 4: one tick before, and at it. -/
theorem wit_CourseStarts_done :
    let v := { runPart with run := { runPart.run with course := 2 } }
    v.doneAt = some 1001812 ∧ v.sh.role = 0 ∧ v.courseAt 1 = some (course 2000) ∧ v.run.tok ≤ 50 * 1000 ∧ base.now < 1001812 := by decide

theorem wit_PortStateMachine :
    let s := fun (st : LinkSt) => base.setPort 1 { upPort with st := st, since := 0 }
    ((s .train).port 1).st = .train ∧ ((s .train).port 1).since + 100000000 ≤ 100000000 ∧
    ((s .retrain).port 1).since + 50000 ≤ base.mnt.up ∧ ({ upPort with attempt := 1 } : Port).attempt = 1 ∧ upPort.attempt ≠ 1 ∧
    (heard 4 0).rx.msgs = msg 4 0 :: [] ∧ (msg 4 0).mtype = 4 ∧
    (let v := { upPort with tx := { TxSide.reset with crTmr := [(3, 1)] } }
     v.st = .up ∧ 0 < SMap.get 0 v.tx.crTmr 3 ∧ SMap.get 0 v.tx.crTmr 3 - 1 + 100000 ≤ base.mnt.up) ∧
    (let v := { Port.reset with en := true, auto := true }
     v.st = .down ∧ v.en = true ∧ v.efence = false ∧ 1 < base.nPorts ∧ base.pwr.state ≠ 3 ∧ v.auto = true ∧ v.autoAt + 1000000000 ≤ 1000000000) := by
  decide

theorem wit_PortRegisterWrites :
    1 < base.nPorts ∧ base.accUp .sideband = true ∧ base.owner 3 1 = some 0 ∧
    (flag (5 : BitVec 32) 0 = true ∧ flag (5 : BitVec 32) 2 = true ∧ flag (5 : BitVec 32) 3 = false ∧ flag (5 : BitVec 32) 4 = false) ∧
    (flag (9 : BitVec 32) 0 = true ∧ flag (9 : BitVec 32) 2 = false ∧ flag (9 : BitVec 32) 3 = true ∧ flag (9 : BitVec 32) 4 = false) ∧
    (flag (16 : BitVec 32) 2 = false ∧ flag (16 : BitVec 32) 3 = false ∧ flag (16 : BitVec 32) 4 = true) ∧
    upPort.st ≠ .down ∧ upPort.efence = false ∧ Port.reset.st = .down ∧ flag (2 : BitVec 32) 1 ≠ upPort.lfence := by decide

/-- A group begins in which nothing has been sent; a late flit waits for its link position. -/
theorem wit_LinkPositionsSent :
    let q : LqFlit := { late := true, seq := 0, part := 0, flit := 0, hdr := 0, t0 := 0 }
    let s := base.setPort 0 { upPort with tx := { TxSide.reset with grp := 640000000 - 31 * 219, lq := [q] } }
    let v := s.port 0
    v.st = .up ∧ s.bound 0 v.tx.grp = none ∧ v.tx.repl = false ∧ v.tx.grp + 15 * 219 < tk (s.now + 1) ∧ v.tx.lq = q :: [] ∧ v.tx.lqWait = [] ∧ s.quiet 0 = false ∧
      v.slotAt (v.tx.grp + 15 * 219) = none ∧ v.tx.grp + 31 * 219 < tk (s.now + 1) ∧ v.slotAt (v.tx.grp + 31 * 219) = none ∧ v.tx.msgs = [] := by
  decide +kernel

/-- A MSG packet without data from device 9, in partition 0. -/
def hdrOf (opc len : Nat) : Hdr :=
  { Hdr.zero with dst := 5, src := 9, cls := 1, vc := 3, opc := opc, len := len, addr := 0x200, hops := 4 }

/-- The data of a group, and a group whose position 0 carries `f`, with its kinds and the CRC over the data (R294). -/
def groupData (f : Flit) : List Byte :=
  (List.range 32).flatMap fun i => flitBytes ((([(0, f)].find? fun x : Nat × Flit => x.1 = i).map (·.2)).getD 0)
def groupOf (kind : Nat) (f : Flit) : Group :=
  { flits := [(0, f)], trailer := BitVec.ofNat 168 (kind + (crc32c (groupData f ++ toLE 17 kind)).toNat * 2 ^ 136) }

theorem groupOf_trailer (kind : Nat) (f : Flit) (h : kind < 2 ^ 16) :
    (groupOf kind f).trailer.toNat = kind + (crc32c (groupData f ++ toLE 17 kind)).toNat * 2 ^ 136 := by
  have := (crc32c (groupData f ++ toLE 17 kind)).isLt
  show (BitVec.ofNat 168 _).toNat = _
  rw [BitVec.toNat_ofNat]
  apply Nat.mod_eq_of_lt
  generalize (crc32c (groupData f ++ toLE 17 kind)).toNat = c at *
  omega

/-- Its CRC passes, and its service and plan sequence numbers are 0. -/
theorem wit_LinkGroupsReceived_crc (kind : Nat) (f : Flit) (h : kind < 2 ^ 16) :
    let t := (groupOf kind f).trailer.toNat
    (crc32c (groupData f ++ toLE 17 (t % 2 ^ 136))).toNat = t / 2 ^ 136 ∧ bits t 0 64 = kind ∧ bits t 72 16 = 0 ∧ bits t 88 16 = 0 := by
  intro t
  have ht : t = _ := groupOf_trailer kind f h
  generalize hc : (crc32c (groupData f ++ toLE 17 kind)).toNat = c at ht
  have h1 : t % 2 ^ 136 = kind := by omega
  refine ⟨by rw [h1, hc]; omega, ?_, ?_, ?_⟩ <;> unfold bits <;> omega

theorem wit_LinkGroupsReceived :
    let f := (hdrOf 9 0).enc
    (groupOf 1 f).flits = (0, f) :: [] ∧ upPort.st = .up ∧ Port.reset.st ≠ .up ∧ upPort.rx.psnTop % 65536 = 0 ∧ upPort.rx.hold = [] ∧
      upPort.rx.ssn % 65536 = 0 ∧ upPort.rx.part = [] ∧ upPort.lfence = false ∧
      (Hdr.dec f).len = 0 ∧ hcrcOk f = true ∧ upPort.rx.psnTop ∉ upPort.rx.got ∧ upPort.rx.psnHi ≤ upPort.rx.psnTop := by decide +kernel

/-- One service flit and one plan flit held for replay, long after they were sent. -/
def txf (plan : Bool) : TxFlit := { seq := 0, plan := plan, part := 0, flit := 7, hdr := 7, first := 0, ended := some 0, sent := true, reps := 2, ing := none }
def sentPort (plan : Bool) : Port :=
  { upPort with tx := { TxSide.reset with replay := [txf plan], ssnNew := 1, psnNew := 1 }, rx := { RxSide.reset with ctl := [0] } }

theorem wit_LinkAcknowledgements :
    let v := sentPort false
    v.rx.ctl = 0 :: [] ∧ fld (flitWord 0 3) 0 7 = 0 ∧ (fld (flitWord 0 0) 0 16 + 1) % 65536 = v.tx.ssnNew % 65536 ∧
      (fld (flitWord 0 0) 16 16 + 1) % 65536 = v.tx.psnNew % 65536 ∧ (∀ x ∈ v.tx.replay, x.seq < if x.plan then v.tx.psnNew else v.tx.ssnNew) ∧
      v.tx.replay.find? (fun x => !x.plan) = some (txf false) ∧ (txf false).ended = some 0 ∧ 0 + tk 1500 ≤ tk base.mnt.up ∧ (txf false).reps < 3 ∧
      (base.setPort 0 v).quiet 0 = false ∧ (sentPort true).tx.replay = [txf true] ∧ (txf true).plan = true ∧ (sentPort true).tx.lq = [] ∧
      (sentPort true).tx.lqWait = [] ∧ (sentPort true).tx.slots = [] := by decide +kernel

/-! ## Witnesses: packets (chapter 9) -/

/-- A staged departure that is due: with its data in the buffer, without it, and voided. -/
def staged (rdy : Nat) (void : Bool) : Staged :=
  { dep := 0, part := 0, tile := 0, course := 0, due := 999020, void := void, pkt := { hdr := 0, data := [], ready := 0, ing := none }, rdy := rdy }
def depState (d : Staged) : State := (running base).setPort 0 { upPort with tx := { TxSide.reset with dbuf := [d] } }

theorem wit_PlanPackets :
    let s := depState (staged 0 false)
    let d := staged 0 false
    let e := smallPlan.deps.headD { frame := 9, pos := 0, port := 0, ns := 0, epoch := 0, dst := 0, dtile := 0, dslot := 0, toff := 0 }
    (s.port 0).tx.dbuf = d :: [] ∧ d.due ≤ s.now ∧ s.entryOf d = some e ∧ Healthy s 0 ∧ (s.part 0).run.paused = none ∧ d.rdy ≤ d.due ∧
      (s.port 0).st = .up ∧ (s.port 0).efence = false ∧ (s.port 0).lfence = false ∧ (s.part 0).run.hzd = false ∧
      (s.part 0).startOf 0 = some 999000 ∧ (staged 999021 false).due < (staged 999021 false).rdy ∧ (staged 0 true).void = true := by
  unfold Healthy; decide +kernel

theorem wit_PlanPackets_positions :
    let s := depState (staged 0 false)
    let s1 := s.modPort 0 fun u => u.unstage (staged 0 false)
    let ks := s1.planKeys 0 (s1.depTimes 0 4096 (tk 999000) [(0 : Flit)]) (planSlot 0 0 (tk 999000) true)
    s.me ≠ 0xFFFF ∧ (s1.port 0).clash ks = none ∧ ((ks.filter fun k => decide (k.2.kind = .plan)).map fun k => k.1).Nodup ∧ (s1.port 0).tx.slots = [] := by decide +kernel

/-- A plan packet of one slot for slot 255 of tile 0, late; the same held by the detector; and one for device 9. -/
def planHdr (dst hops : Nat) : Hdr :=
  { Hdr.zero with dst := dst, src := 9, len := 4, addr := 0x0200000FFF00, epoch := 3, hops := hops }
def planIn (dst hops : Nat) (late : Bool) (hold : Nat) : PlanIn :=
  { pkt := { hdr := (planHdr dst hops).enc, data := List.replicate 4 0, ready := 0, ing := some 0 }, arr := (List.range 5).map (fun i => tk 1000000 + 219 * i), done := 0,
    late := late, hold := hold, joined := 0 }
def inState (k : PlanIn) : State := (running base).setPort 0 { upPort with rx := { RxSide.reset with planIn := [k] } }

theorem wit_PlanPackets_landing : ∀ hold ∈ [0, 1000000],
    let k := planIn 5 1 true hold
    let s := inState k
    let h := Hdr.dec k.pkt.hdr
    (s.port 0).rx.planIn = k :: [] ∧ h.dst = s.me ∧ hdrOk k.pkt.hdr = true ∧ h.opc = 0 ∧ k.pkt.data.length = h.len ∧
      (s.part h.part).plan.isSome = true ∧ s.landAt h = some (0, 255) ∧ s.owner 0 0 = some h.part ∧ (s.part h.part).run.halted = false ∧
      (s.tile 0).lands = [] ∧ (s.tile 0).now ≤ (s.room (s.roomOf 0)).clk - 1 ∧
      (s.part h.part).run.hzd = false ∧ (s.part h.part).run.hzdStop = false ∧ k.hold ≤ s.now := by decide +kernel

/-- The same packet D_min after its last flit has reached the pins, whatever D_min is. -/
theorem wit_PlanPackets_dmin : ∀ late ∈ [true, false],
    let k := planIn 5 1 late 0
    let s := { inState k with mnt := { base.mnt with now := 1000010 + Config.dMin 0 0 } }
    (if k.late then k.arr.foldl max 0 + 219 else k.arr.headD 0 + 219 * k.arr.length) + tk (Config.dMin 0 0) ≤ tk s.now := by
  intro late h
  have h1 : (planIn 5 1 true 0).arr.foldl max 0 = 640000876 := by decide
  have h2 : (planIn 5 1 false 0).arr.headD 0 = 640000000 := by decide
  have h3 : (planIn 5 1 false 0).arr.length = 5 := by decide
  simp only [List.mem_cons, List.not_mem_nil, or_false] at h
  obtain rfl | rfl := h
  · show (planIn 5 1 true 0).arr.foldl max 0 + 219 + tk (Config.dMin 0 0) ≤ tk (1000010 + Config.dMin 0 0)
    unfold tk; omega
  · show (planIn 5 1 false 0).arr.headD 0 + 219 * (planIn 5 1 false 0).arr.length + tk (Config.dMin 0 0) ≤ tk (1000010 + Config.dMin 0 0)
    unfold tk; omega

/-- Forwarding from port 1 to port 0: with hops left, with none, and with no route. -/
theorem wit_PlanPackets_forward :
    let k := planIn 9 1 false 0
    let s := (running base).setPort 0 upPort |>.setPort 1 { upPort with rx := { RxSide.reset with planIn := [k] } }
    let h := Hdr.dec k.pkt.hdr
    (s.port 1).rx.planIn = k :: [] ∧ h.dst ≠ s.me ∧ k.late = false ∧ tk s.now ≤ k.arr.headD 0 + tk 180 ∧ s.planRoute h = some 0 ∧ h.hops ≠ 0 ∧
      (Hdr.dec (planIn 9 0 false 0).pkt.hdr).hops = 0 ∧ s.planRoute (Hdr.dec (planIn 8 1 false 0).pkt.hdr) = none ∧ (s.port 0).st = .up ∧
      (s.port 0).efence = false ∧ (s.port 0).lfence = false ∧ (s.part h.part).run.hzd = false ∧
      (let s1 := s.modPort 1 fun v => v.takeIn k
       let hdr := withHops k.pkt.hdr (h.hops - 1)
       let ks := s1.planKeys 0 ((k.arr.map fun b => b + tk 180).zip (hdr :: k.pkt.data)) (planSlot h.part hdr (tk 1000000 + tk 180) false)
       s.me ≠ 0xFFFF ∧ (s1.port 0).clash ks = none ∧ ((ks.filter fun e => decide (e.2.kind = .plan)).map fun e => e.1).Nodup ∧ (s1.port 0).tx.slots = []) := by decide +kernel

/-- A service packet of each operation that stands at the device's own ingress. -/
def svcHdr (opc : Nat) : Hdr :=
  { Hdr.zero with dst := 5, src := 9, cls := 1, vc := if opc = 1 ∨ opc = 2 then 0 else if opc < 6 then 1 else 3, opc := opc, addr := 0x200,
                  len := if opc = 1 ∨ opc = 3 then 1 else 0, rlen := if opc = 2 then 16 else 0, ord := decide (opc = 10) }
def svcPkt (h : Hdr) : Packet := { hdr := h.enc, data := List.replicate h.len 0, ready := 0, ing := none }
def svcState (s : State) (k : Packet) : State := { s with fab := { s.fab with loc := [((Hdr.dec k.hdr).vc, [k])] } }

theorem wit_ServicePacketEffects : ∀ opc ∈ [1, 2, 3, 4, 5, 6, 7, 8, 9, 10],
    let k := svcPkt (svcHdr opc)
    let s := svcState base k
    let h := Hdr.dec k.hdr
    Arrives s 16 h.vc k [] ∧ h.opc = opc ∧ h.ord = decide (opc = 10) ∧ s.svcAt h.part h.addr = .mem ∧ h.addr % 2 ^ 20 + 1024 ≤ 2 ^ 20 ∧
      h.tag ≠ pagerTag 0 ∧ h.tag ≠ shadowTag 0 ∧ s.badRead h.addr 1024 = none ∧ s.badRead h.addr 8 = none ∧ s.syncBehind h.addr = false ∧
      s.dev.crcBad = [] ∧ s.rafterWord 0 h.addr = none ∧ h.npre ≤ (s.ordOf h.src).cnt ∧ s.ordHeld h.src h.fi = false := by
  unfold Arrives; decide +kernel

/-- A WRITE, and an SADD, to the Loft of tile 0, whose service buffer is empty. -/
theorem wit_ServicePacketEffects_loft : ∀ opc ∈ [1, 6],
    let k := svcPkt { svcHdr opc with addr := 0x020000000200 }
    let s := svcState base k
    let h := Hdr.dec k.hdr
    Arrives s 16 h.vc k [] ∧ h.opc = opc ∧ s.svcAt h.part h.addr = .loft 0 0x200 ∧ (s.tile 0).svcBytes + 64 * h.len ≤ 8192 ∧
      h.addr % 2 ^ 20 + 64 * h.len ≤ 2 ^ 20 ∧ inLanding 0x200 8 = false ∧ (s.tile 0).lands = [] ∧ s.badRead h.addr 8 = none ∧
      s.syncBehind h.addr = false := by unfold Arrives; decide +kernel

/-- A WRITE to memory of no partition, and an error completion of a signal of tile 3 of the running partition. -/
theorem wit_ServicePacketEffects_errors :
    let k := svcPkt { svcHdr 1 with addr := 0x40000000 * 5 }
    let e := svcPkt { svcHdr 5 with tag := 3 + 2 ^ 14, status := 2 }
    Arrives (svcState base k) 16 0 k [] ∧ (svcState base k).svcAt 0 (0x40000000 * 5) = .blocked ∧
      Arrives (svcState (running base) e) 16 1 e [] ∧ (Hdr.dec e.hdr).tag / 2 ^ 14 = 1 ∧
      Healthy (svcState (running base) e) (bits (Hdr.dec e.hdr).tag 8 6) := by
  unfold Arrives Healthy; decide +kernel

/-- A route to device 9 over port 0. -/
def routed (s : State) : State := { s with fab := { s.fab with bank0 := [(9, 0x10)] } }

theorem wit_ServicePacketRouting : ∀ vc ∈ [0, 1, 2, 3],
    let k := svcPkt { svcHdr 6 with dst := 9 }
    let s := (routed base).setPort 0 { upPort with tx := { TxSide.reset with egress := [(vc, [k])] }, rx := { RxSide.reset with crOut := [] } }
    (s.port 0).st = .up ∧ s.quiet 0 = false ∧ (s.startPos 0).isSome = true ∧ (s.port 0).tx.bulkPass < 3 ∧ s.vcReady 0 vc = some k ∧
      ∀ w ∈ [0, 1, 2, 3], w ≠ vc → s.vcReady 0 w = none := by decide +kernel

theorem wit_ServicePacketRouting_forward : ∀ hops ∈ [0, 1],
    let k := svcPkt { svcHdr 6 with dst := 9, hops := hops }
    let s := ((routed base).setPort 0 upPort).setPort 1 { upPort with rx := { RxSide.reset with ingress := [(3, [k])] } }
    let h := Hdr.dec k.hdr
    SMap.get [] (s.port 1).rx.ingress 3 = k :: [] ∧ h.dst ≠ s.me ∧ s.vestFull = false ∧ s.routeEntry h.gen h.dst = some 0x10 ∧
      bit 0x10 4 = true ∧ bits 0x10 0 4 < s.nPorts ∧ (s.port 0).efence = false ∧ (s.port 0).lfence = false ∧ (s.port 0).st = .up ∧ h.hops = hops := by
  decide +kernel

theorem wit_ServicePacketRouting_flagged :
    let k := svcPkt { svcHdr 9 with ord := true, npre := 1 }
    let s := svcState base k
    Arrives s 16 3 k [] ∧ (Hdr.dec k.hdr).ord = true ∧ (s.ordOf 9).cnt < (Hdr.dec k.hdr).npre ∧ s.vestFull = false ∧
      s.ordHeld 9 (Hdr.dec k.hdr).fi = false ∧ s.svcRoom 0 0x200 0 = true := by
  unfold Arrives; decide +kernel

theorem wit_ServicePacketRouting_timeout :
    let k := svcPkt { svcHdr 9 with ord := true, npre := 1 }
    let e : VestEnt := { fi := 0, npre := 1, since := 1940000, pkt := k }
    let s := { base with fab := { base.fab with src := [(9, { OrdSrc.reset with vest := [e] })] } }
    (s.ordOf 9).vest = [e] ∧ (s.ordOf 9).tally = [] ∧ e.since + 60000 ≤ s.mnt.up ∧ (Hdr.dec e.pkt.hdr).opc = 9 ∧ (Hdr.dec e.pkt.hdr).vc = 3 ∧
      (s.part (Hdr.dec e.pkt.hdr).part).sh.role = 0 := by decide +kernel

/-! ## Witnesses: the launch and sweeps (chapters 7 and 8) -/

/-- Partition 0 with the plan and port 0 as its parent or its only child. -/
def ltPart (root : Bool) (l : Launch) : Part :=
  { runPart with launch := l, run := Run.reset, ltRoot := root, ltParent := 0, ltChild := if root then 1 else 0 }
def ltState (root : Bool) (l : Launch) (m : LMsg) : State :=
  (base.setPart 0 (ltPart root l)).setPort 0 (heard 3 m.body.toNat)
def lmsg (typ status : Nat) : LMsg := { typ := typ, part := 0, status := status, lid := 2, root := 5, orig := 9, t := 1030000, pdig := 7 }
def armed (root : Bool) : Launch :=
  { Launch.reset with st := .armed, lid := 2, t := 1030000, ready := true, parent := if root then none else some 0, reply := none }

theorem wit_LaunchProtocol_arm :
    let s := ltState false Launch.reset (lmsg 0 0)
    ((s.port 0).hear 3).isSome = true ∧ LMsg.of (lmsg 0 0).body = lmsg 0 0 ∧ (s.part 0).ltRoot = false ∧ (s.part 0).ltParent = 0 ∧
      (s.part 0).launch.seenArm ≠ some 2 ∧ (s.part 0).launch.seenConf ≠ some 2 ∧ (s.part 0).plan.isSome = true ∧ (s.part 0).run.spent = false ∧
      (s.part 0).running = false ∧ bits (lmsg 0 0).body.toNat 12 4 = 0 := by decide +kernel

theorem wit_LaunchProtocol_ack : ∀ st ∈ [0, 3],
    let s := ltState true (armed true) (lmsg 1 st)
    let l := (s.part 0).launch
    ((s.port 0).hear 3).isSome = true ∧ LMsg.of (lmsg 1 st).body = lmsg 1 st ∧ l.lid = 2 ∧ l.st = .armed ∧ l.acked = false ∧
      (s.part 0).children = [0] ∧ (0, 2) ∉ l.acksIn ∧ l.ready = true ∧ l.parent = none ∧ l.cancelled = false ∧ l.late = false ∧ l.fail = none ∧
      l.confSent = false ∧ s.now ≤ (s.part 0).confirmBy := by decide +kernel

theorem wit_LaunchProtocol_confirm :
    let s := ltState false (armed false) (lmsg 2 0)
    let l := (s.part 0).launch
    ((s.port 0).hear 3).isSome = true ∧ LMsg.of (lmsg 2 0).body = lmsg 2 0 ∧ l.seenConf ≠ some 2 ∧ l.st = .armed ∧ l.lid = 2 ∧ s.now + 20000 ≤ l.t := by
  decide +kernel

/-- The root at its deadline of 1,010,000; a member at the cutoff; and a confirmed launch at T. -/
theorem wit_LaunchProtocol_times :
    let s := fun (st : LaunchSt) (now : Nat) =>
      { base.setPart 0 (ltPart true { armed true with st := st }) with mnt := { base.mnt with now := now } }
    (((s .armed 1010000).part 0).confirmBy ≤ (s .armed 1010000).now ∧ ((s .armed 1010000).part 0).launch.confSent = false ∧
      ((s .armed 1010000).part 0).launch.parent = none) ∧
    (((s .armed 1010000).part 0).launch.unarmed = none ∧ ((s .armed 1010000).part 0).launch.t ≤ (s .armed 1010000).now + 20000) ∧
    (((s .confirmed 1030000).part 0).launch.st = .confirmed ∧ ((s .confirmed 1030000).part 0).launch.t ≤ (s .confirmed 1030000).now) := by
  decide +kernel

/-! ## Witnesses: sweeps and serving (chapters 7, 12 and 13) -/

/-- A serving plan on one device: two shapes of one course and 10,000 ticks and of 20,000, a commit window of 1,000, one stack with one
head group, and a sweep of the head course. -/
def servDesc : ServDesc :=
  { lead := 5, nmem := 1, mtile := 0, shm1 := 1, layers := 1, cwin := 1000, midx := 0, ordq := 0x800000,
    stks := [{ pool := 3, hgs := 1, dirbase := 0x100000, manbase := 0x200000 }] }
def shape (dur firstc : Nat) : Shape :=
  { tb := 64, nc := 1, firstc := firstc, lanes := 8, pgblk := 1, win := 1, dur := dur, cmax := 64, lctx := 1024, maxent := 8 }
def sweepEnt : SweepEnt :=
  { sid := 0, stack := 0, kfmt := 0, dc := 0, rm1 := 0, course := 0, tstart := 100, deadline := 900, win := 10, layer := 0, hg0 := 0, hgn := 1,
    qbase := 0x300000, rbase := 0x310000, sc := 0, bpmax := 10 }
def wmap : WMap :=
  { nlayers := 1, repl := true, wctl := 0x900000, ents := [{ layer := 0, stack := 0, live := 0x400000, stage := 0x500000, len := 1 }] }
def servPlan : Plan :=
  { smallPlan with serv := some servDesc, shapes := [shape 10000 1, shape 20000 1], sweeps := [sweepEnt], wmap := some wmap,
                   reads := [(0xFFFF, 0), (0, 0)], larder := some (0x600000, 16), rafter := [], masks := [], deps := [], links := [], routes := [] }

/-- Partition 0 runs it, in step `k` with its manifest read or not. -/
def servPart (k : Nat) (man : Bool) (now0 : Nat) : Part :=
  { Part.reset with
    plan := some servPlan,
    launch := { Launch.reset with st := .running, lid := 1, t := now0, root := 5 },
    run := { Run.reset with t0 := now0, course := 1, step := k, manRead := man, inst := [(0, course 0)] },
    ltRoot := true }
def servState (k : Nat) (man : Bool) (now0 : Nat) : State := base.setPart 0 (servPart k man now0)

/-- The sweep due in course 0, whose manifest copy has no entries; and a sweep of no load over its window. -/
theorem wit_Sweeps :
    let s := servState 0 true 999000
    s.sweepsDue 0 = [(0, sweepEnt, 0, 999100)] ∧ (s.stack 0).sweep = none ∧ (s.sweepWork 0 sweepEnt).miss = 0 ∧
      (s.sweepWork 0 sweepEnt).bad = none ∧ (s.sweepWork 0 sweepEnt).soft = [] ∧ (s.sweepWork 0 sweepEnt).loads = [] := by decide +kernel

/-- One entry of one token in the manifest copy, whose list at 0x40000 names one page pair on the stack: more than a window of 0. -/
def loadedState : State :=
  let w := { sweepEnt with win := 0 }
  let s := base.setPart 0 { servPart 0 true 999000 with plan := some { servPlan with sweeps := [w] } }
  { s with mem := [(0x100002, 4), (0x100006, 1), (0x200008, 0x10), (0x200108, 1), (0x20010A, 1)] }

theorem wit_Sweeps_load :
    let w := { sweepEnt with win := 0 }
    loadedState.sweepsDue 0 = [(0, w, 0, 999100)] ∧ (loadedState.stack 0).sweep = none ∧ (loadedState.sweepWork 0 w).miss = 0 ∧
      (loadedState.sweepWork 0 w).bad = none ∧ (loadedState.sweepWork 0 w).soft = [] ∧
      ((loadedState.sweepWork 0 w).loads.find? fun e => decide (w.win < e.2)).isSome = true ∧ Healthy loadedState 0 := by unfold Healthy; decide +kernel

/-- A sweep in progress before, at and after its deadline, and a finished one. -/
def sweepOf (fin : Bool) (ts : Nat) : Sweep :=
  { ent := sweepEnt, part := 0, ts := ts, recs := [(0x310000, [1, 2])], pairs := 3, ebusy := 4, blks := [(0, 11)], loads := [(0, 100)], lost := [(0, 1)],
    refr := [], fin := fin, stopped := false }

theorem wit_Sweeps_progress :
    let s := fun (fin : Bool) (ts : Nat) => (servState 0 true 999000).setStack 0 { Stack.reset with sweep := some (sweepOf fin ts) }
    (s false 999100).now ≤ (s false 999100).sweepEnd (sweepOf false 999100) ∧ (s false 999100).sweepEnd (sweepOf false 999100) ≤ base.now ∧
      (sweepOf false 999100).busyEngines base.now = 0 ∧ (sweepOf false 999100).busyEngines 999200 = 1 ∧
      (let w := { sweepOf false 999100 with loads := [(0, 1000)] }
       10 < w.mostBlks ∧ w.busyEngines ((s false 999100).sweepEnd w) = 1) ∧
      Healthy (s false 999100) 0 ∧ ((s true 999100).stack 0).sweep = some (sweepOf true 999100) := by unfold Healthy; decide +kernel

/-- The commit of step 0 falls at 999,000 + 10,000 - 1,000: at it, on the lead, with no entry, and with one decode entry. -/
def manEnt0 : ManEnt := { rcd := 0, kind := 0, lane := 0, adpen := false, adp := 0, n := 1, off := 0, p0 := 9, endp := false }
def commitState (ents : List ManEnt) : State :=
  let v := servPart 0 true 999000
  let m : Manifest := { step := 0, shape := 0, miss := false, ntok := 1, ents := ents }
  let s := base.setPart 0 { v with serv := { v.serv with cur := some m } }
  { s with mnt := { base.mnt with now := 1008000 }, mem := [(0, 1), (0x10000, 7)], recs := [(0, { Record.reset with state := 3, maxnew := 2, gen := 0 })] }

theorem wit_ServingSteps :
    let s := commitState []
    let v := s.part 0
    v.commitAt = some 1008000 ∧ v.live = true ∧ 1008000 ≤ s.now ∧ v.serv.committed ≤ v.run.step ∧ s.isLead 0 = true ∧ Healthy s 0 ∧
      ({ s with fab := { s.fab with devid := 6 } } : State).isLead 0 = false := by unfold Healthy; decide +kernel

/-- Bytes of stack 0 in a state without error marks are sound. -/
theorem sound_stack0 (s : State) (a n : Nat) (h : a + n ≤ stackSize) (h0 : 0 < s.nStacks) (h1 : s.stackUp 0 = true) (h2 : s.hrt.id.holeM = [])
    (h3 : s.dev.bad = []) (h4 : s.dev.crcBad = []) : Sound s a n := by
  refine ⟨fun i hi => ⟨0, a + i, ?_⟩, by simp [h3, h4]⟩
  have ha : a + i < marlEnd := by unfold marlEnd; omega
  have hk : (a + i) / stackSize = 0 := Nat.div_eq_of_lt (by omega)
  simp [State.region, ha, hk, h0, h1, h2]

/-- The result of the one entry passes, and emits token 7; the same entry with an empty summary word fails. -/
theorem wit_ServingSteps_result :
    let s := commitState [manEnt0]
    let x := (s.resultOfEntry 0 0 manEnt0).1
    (s.resultsOf 0 [manEnt0]).1 = [x] ∧ resultCheck 0 x.ent x.sum x.toks = 0 ∧ x.toks = [7] ∧ (s.record 0).state = 3 ∧ (s.part 0).serv.cancels = [] ∧ (s.record 0).endPend = none ∧
      (∀ j, j < 4 → SMap.get 0 (s.record 0).img (24 + j) ≠ word 7) ∧ (s.record 0).gen + 1 ≠ (s.record 0).maxnew ∧ sumAcc x.sum = 0 ∧
      (let y := (({ s with mem := [] } : State).resultOfEntry 0 0 manEnt0).1
       resultCheck 0 y.ent y.sum y.toks ≠ 0) := by decide +kernel

/-- The half of the step area of that step holds no error. -/
theorem wit_ServingSteps_sound : Sound (commitState [manEnt0]) 0 0x100000 := by
  refine sound_stack0 _ _ _ ?_ ?_ ?_ ?_ ?_ ?_ <;> decide

theorem wit_ServingSteps_compose :
    let v := { servPart 0 true 999000 with serv := { Serv.reset with compose := some 1008000, committed := 1 } }
    v.serv.compose = some 1008000 ∧ v.plan = some servPlan ∧ servPlan.serv = some servDesc ∧ v.live = true ∧ servPlan.shapes ≠ [] := by decide

/-- The manifest is due at the end of the head course, in step 0; and in step 1 on the lead and elsewhere. -/
def manState (k : Nat) : State :=
  (servState k false 999000).setTile 0 { beatTile with tim := { beatTile.tim with course := 1, beat := 1000 } }

theorem wit_ServingSteps_manifest :
    (let w := (manState 0).landView 0
     (manState 0).manDue 0 servDesc = true ∧ w.isLead 0 = true ∧ natAt (w.rd (w.manifestAt 0 servDesc) 16) 0 8 = 0 ∧
       bits (natAt (w.rd (w.manifestAt 0 servDesc) 16) 8 4) 0 4 ≤ servDesc.shm1 ∧ servPlan.shapes[0]? = some (shape 10000 1)) ∧
    (let w := (manState 1).landView 0
     (manState 1).manDue 0 servDesc = true ∧ w.isLead 0 = true ∧ Healthy w 0 ∧ (w.part 0).run.step = 1 ∧
       natAt (w.rd (w.manifestAt 0 servDesc) 16) 0 8 ≠ 1) ∧
    (let s := { manState 1 with mem := [(loftAddr 0 0xE0000, 1)] }
     natAt ((s.landView 0).rd (loftAddr 0 0xE0000) 16) 0 8 = 1) := by
  unfold Healthy; decide +kernel

theorem wit_ServingSteps_member :
    ({ manState 1 with fab := { base.fab with devid := 6 } } : State).isLead 0 = false ∧ (SMap.get 0 ((manState 1).tile 0).tags 0).toNat ≠ headTag 1 := by
  refine ⟨by decide, ?_⟩
  show (0 : Nat) ≠ Config.headEpoch % 128 + 128 * (1 % 2)
  omega

/-- A record of 100 bytes in the output stream of port 1, with room in the ring. -/
theorem wit_ServingSteps_output :
    let o := { OutPort.reset with wrote := 100, ends := [100], ringBase := 0x10000, wpAddr := 0x8000 }
    let v := { Serv.reset with outs := [(1, o)] }
    (v.out 1).pieceLen = 100 ∧ 100 ≤ ((v.out 1).rp + 2 * v.ringSize 1 - (v.out 1).wp - 1) % v.ringSize 1 ∧
      ((v.out 1).wpAddr.toNat + 8 ≤ (v.out 1).ringBase.toNat) ∧ ({ HostPort.reset with up := true } : HostPort).up = true ∧
      base.dev.bad ++ base.dev.crcBad = [] ∧ (v.out 1).oqBase.toNat + oqSize ≤ marlEnd := by decide +kernel

/-! ## Witnesses: the Pantry (chapter 12) -/

def order (op : Nat) : Order := { op := op, rcd := 0, arg := 64, oseq := 0, stat := 0, e0 := 0 }
def pantry (f : Serv → Serv) : State := base.setPart 0 { servPart 0 true 999000 with serv := f Serv.reset }

theorem wit_PantryOrders :
    let s := pantry fun v => { v with inbox := [(5, order 1)] }
    let w := (s.takeOrder 0).modServ 0 fun x => { x with orders := [], pagIn := [] }
    (s.part 0).plan = some servPlan ∧ (s.part 0).run.halted = false ∧ (s.part 0).serv.job = none ∧ (s.part 0).serv.inbox = (5, order 1) :: [] ∧
      (order 1).op ≠ 8 ∧ ((s.takeOrder 0).part 0).serv.orders = order 1 :: [] ∧ (order 2).op = 2 ∧
      (s.takeOrder 0).growWaits 0 servDesc (order 1) = false ∧ (w.allocTo 0 0 servDesc 0 (ceilDiv 64 64)).isSome = true := by decide +kernel

/-- A list of 256 pairs that an order would grow is in use in the lead's manifest. -/
theorem wit_PantryOrders_waits :
    let o := { order 1 with arg := 257 * 64 }
    let m : Manifest := { step := 1, shape := 0, miss := false, ntok := 1, ents := [manEnt0] }
    let s := pantry fun v => { v with orders := [o], npairs := [(0, 256)], next := some m }
    (s.takeOrder 0).growWaits 0 servDesc o = true ∧ ((s.takeOrder 0).part 0).serv.orders = o :: [] := by decide +kernel

/-- A queued request of 64 tokens wants its first page pair; with none queued nothing is wanted. -/
theorem wit_PantryOrders_extend :
    let s := pantry id
    let u := { s with recs := [(0, { Record.reset with state := 1, plen := 64, aseq := 0 })] }
    s.isLead 0 = true ∧ (s.part 0).live = true ∧ s.orderRoom 0 = true ∧
      s.firstExtend 0 servPlan servDesc (s.ordered 0 fun r => decide (1 ≤ r.state ∧ r.state ≤ 3)) = none ∧
      (u.ordered 0 fun r => decide (1 ≤ r.state ∧ r.state ≤ 3)) = [0] := by decide +kernel

theorem wit_PantryOrders_promote :
    let s := { pantry id with recs := [(0, { Record.reset with state := 4, res := 1 })] }
    (s.ordered 0 fun r => decide (r.state = 4) && decide (r.res = 1)).head? = some 0 ∧ s.canPromote 0 0 servDesc = true := by decide +kernel

/-- A promotion for which the stack has no free unit: its one pair is at a peer, and the pool has no unit left. -/
theorem wit_PantryOrders_confirm :
    let s := fun (op st : Nat) =>
      { (pantry fun v => { v with inbox := [(5, { order op with op := 8 })], unconf := [(5, order op)] }) with
        recs := [(0, { Record.reset with state := st, lastOut := true })] }
    let v := ((s 1 2).part 0).serv
    v.inbox = (5, { order 1 with op := 8 }) :: [] ∧
      v.unconf.find? (fun x => decide (x.1 = 5 ∧ x.2.oseq = (order 1).oseq ∧ x.2.rcd = (order 1).rcd)) = some (5, order 1) ∧
      (s 1 2).members 0 = [5] ∧ (order 1).stat = 0 ∧ ((s 1 2).record 0).state ≠ 5 ∧ ((s 2 5).record 0).state = 5 ∧
      ((s 2 5).record 0).lastOut = true := by decide +kernel

/-! ## Witnesses: weights (chapter 14) -/

/-- A ring at 8 MiB whose descriptor names this device alone. -/
def ringBase : Nat := 0x800000

/-- The words of a descriptor of mode 1 with two pieces, of this device and its successor. -/
def descWords (npos : Nat) : List Nat := [7 + 1 * 65536, npos - 1, 2, 9, ringBase, 0, 1, 0, 0, 0, 0, 0, 0, 0, 0, 0, 5, 9]
/-- Its two pieces: layer 0 of shard 0, 4 bytes of FP32 that stay as they are, the end of its layer. -/
def pieceWords : List Nat := [2 ^ 24, 0xFF, 1, 1, 0, 0, 4, 0, 0, 0, 0, 0, 0, 0, 0, 0, 0, 0, 0, 0]
def descBytes (npos : Nat) : List Byte :=
  (descWords npos).flatMap (fun w => toLE 4 w) ++ List.replicate (0x4040 - 72) 0 ++ (pieceWords ++ pieceWords).flatMap fun w => toLE 4 w

def dist (npos : Nat) : Dist := { Dist.start ringBase 0 0 (descBytes npos) false none with conv := 0x4400, poff := 0x4400, arrw := 0x4C00 }
def wtState (ds : List Dist) (f : Weights → Weights) : State :=
  base.setPart 0 { servPart 0 true 999000 with wts := f { Weights.reset with dists := ds } }

theorem desc_front (n : Nat) : ((descWords n).flatMap (fun w => toLE 4 w) ++ List.replicate (0x4040 - 72) 0).length = 0x4040 := by
  have h : ((descWords n).flatMap fun w => toLE 4 w).length = 72 := rfl
  rw [List.length_append, List.length_replicate, h]

theorem dist_npiece : ∀ n ∈ [1, 2], (dist n).npiece = 2 := by decide +kernel

theorem dist_hasDesc (n : Nat) (hn : n ∈ [1, 2]) : (dist n).hasDesc = true := by
  have h : (descBytes n).length = 0x4040 + 160 := by
    have k : ((pieceWords ++ pieceWords).flatMap fun w => toLE 4 w).length = 160 := rfl
    unfold descBytes; rw [List.length_append, desc_front, k]
  have g : (dist n).descLen = 0x4040 + 160 := by unfold Dist.descLen; rw [dist_npiece n hn]
  unfold Dist.hasDesc; rw [g]; exact decide_eq_true (Nat.le_of_eq h.symm)

def aPiece : Piece := { bs := pieceWords.flatMap fun w => toLE 4 w }

theorem dist_piece (n : Nat) : (dist n).pieceAt 0 = aPiece := by
  have : (descBytes n).drop 0x4040 = _ := List.drop_left' (desc_front n)
  show ({ bs := ((descBytes n).drop 0x4040).take 80 } : Piece) = _
  rw [this]; rfl

theorem wit_WeightDistribution :
    (dist 2).canForward = true ∧ (dist 2).head = false ∧ (dist 2).reported = false ∧ (dist 2).succ = 9 ∧
    (dist 1).canConvert = true ∧ (dist 1).refused = false ∧ (dist 1).poff ≠ 0 ∧ (dist 1).piece + 1 < (dist 1).npiece ∧ (dist 1).mode = 1 ∧
    ((dist 1).pieceAt 0).shard = (dist 1).shard ∧ ((dist 1).pieceAt 0).lend = true ∧ (dist 1).conv = (dist 1).poff ∧
    (dist 1).conv + ((dist 1).pieceAt 0).padded ≤ (dist 1).avail := by
  rw [dist_piece]; unfold Dist.canConvert; rw [dist_hasDesc 1 (by decide)]; decide +kernel

/-- The same stream on a member of shard 1, which does not take the piece. -/
theorem wit_WeightDistribution_other : aPiece.shard = 0 ∧ aPiece.shard ≠ 1 ∧ aPiece.shard ≠ 0xFFF := by decide

theorem dist_piece1 : (dist 1).pieceAt 1 = aPiece := by
  have h : (descBytes 1).drop (0x4040 + 80) = (pieceWords.flatMap fun w => toLE 4 w) := by
    have : (descBytes 1).drop 0x4040 = _ := List.drop_left' (desc_front 1)
    rw [← List.drop_drop, this]; rfl
  show ({ bs := ((descBytes 1).drop (0x4040 + 80)).take 80 } : Piece) = _
  rw [h]; rfl

/-- 1 KiB of the stream has still to come, and no part of it has for the 1 ms of the descriptor. -/
theorem wit_WeightDistribution_silent :
    let d := { dist 1 with arrw := 0x4800 }
    d.reported = false ∧ d.head = false ∧ (d.total.any fun t => decide (t ≤ d.arrw)) = false ∧ d.arrAt + d.dtmo ≤ base.mnt.up := by
  intro d
  have hp : d.pieces = [aPiece, aPiece] := by
    show (List.range (dist 1).npiece).map (dist 1).pieceAt = _
    rw [dist_npiece 1 (by decide)]
    show [(dist 1).pieceAt 0, (dist 1).pieceAt 1] = _
    rw [dist_piece, dist_piece1]
  have ht : d.total = some 0x4C00 := by
    show (if (dist 1).hasDesc then some (d.pieces.foldl (fun n x => n + x.padded) (pad1k (dist 1).descLen)) else none) = _
    rw [dist_hasDesc 1 (by decide), hp]; decide +kernel
  rw [ht]; decide +kernel

/-- The head's successor has acknowledged nothing of 1 KiB for the 1 ms of the descriptor. -/
theorem wit_WeightDistribution_limits :
    let d := { dist 2 with head := true, fwd := 1024 }
    (d.reported = false ∧ d.head = true ∧ d.last = false ∧ d.lost = false ∧ d.ackw < d.fwd ∧ d.ackAt + d.dtmo ≤ base.mnt.up) := by decide +kernel

/-- The report of position 0 on a head that is alone, and no report after the limit. -/
def aRef : CmdRef := { hp := 0, fn := 0, tag := 77, opc := 0x15, irq := false, part := 0 }

theorem wit_WeightDistribution_reports :
    let d := { dist 1 with head := true, reply := some aRef, lastAt := some 0 }
    base.cmd.waits = [] ∧ d.head = true ∧ d.mode ≠ 2 ∧ d.reply = some aRef ∧ d.npos = 1 ∧ fld (wd [word 7, 0] 0) 0 16 = d.did ∧
      fld (wd [word 7, 0] 0) 16 12 = 0 ∧ 0 + d.dtmo ≤ base.mnt.up ∧ d.reports = [] := by decide +kernel

/-- The conversion of the piece relays its 4 bytes, and the target has room for them. -/
theorem wit_WeightDistribution_convert :
    let d := dist 1
    let s := wtState [d] id
    let src := [(1 : Byte), 2, 3, 4]
    (d.pieceAt 0).conv.run src = some src ∧ s.holds 0 d (d.pieceAt 0) = false ∧ (s.targetAreas 0 d (d.pieceAt 0)) = [(0x500000, 16384)] ∧
      (s.part 0).sh.role = 0 := by
  intro d s src; rw [dist_piece]; decide +kernel

theorem wit_WeightDistribution_dists (d : Dist) : ((wtState [d] id).part 0).wts.dists = [d] := rfl

theorem wit_WeightDistribution_sound :
    let s := wtState [dist 1] id
    Sound s (ringBase + 0x100000) 0x4040 ∧ Sound s (ringBase + 0x100000) (2 ^ 26) ∧ s.dev.crcBad = [] := by
  refine ⟨sound_stack0 _ _ _ ?_ ?_ ?_ ?_ ?_ ?_, sound_stack0 _ _ _ ?_ ?_ ?_ ?_ ?_ ?_, ?_⟩ <;> decide

/-- The descriptor that has landed at a ring names this device at position 0. -/
theorem wit_WeightDistribution_arrival :
    let s := { wtState [] (fun w => { w with ringIn := [ringBase] }) with mem := [(ringBase + 0x100040, 5)] }
    (s.part 0).wts.ringIn = ringBase :: [] ∧
      fld (wordAt (s.rd (ringBase + 0x100000) 68) 1) 0 12 + 1 = 1 ∧ fld (wordAt (s.rd (ringBase + 0x100000) 68) 16) 0 16 = s.me := by decide +kernel

theorem wit_WeightReplacement :
    let s := wtState [] fun w => { w with ordIn := [[1, 9, 0, 0]] }
    s.wmapOf 0 = some wmap ∧ (s.part 0).sh.role = 0 ∧ (s.part 0).wts.ordIn = [1, 9, 0, 0] :: [] ∧ (s.part 0).run.halted = false ∧
      s.servDesc 0 = some servDesc ∧ fld (wd [1, 9, 0, 0] 0) 0 4 = 1 ∧ fld (wd [2, 9, 0, 0] 0) 0 4 = 2 ∧ (s.part 0).running = true := by decide

theorem wit_WeightReplacement_confirm : ∀ st ∈ [0, 15],
    let ws : List Word := [8, 9, 0, 0, word st]
    let s := wtState [] fun w => { w with confIn := [(0, ws)], gnew := 9, swst := 1, reply := some aRef }
    (s.part 0).wts.confIn = (0, ws) :: [] ∧ fld (wd ws 0) 0 4 = 8 ∧ fld (wd ws 1) 0 16 = (s.part 0).wts.gnew ∧ (s.part 0).wts.swst = 1 ∧
      fld (wd ws 4) 0 4 = st := by decide

theorem wit_WeightReplacement_copy :
    let s := wtState [] fun w => { w with mgen := 9, mstep := 0 }
    let u := wtState [] id
    0 ∈ wmap.layers ∧ ((s.stepAdvance 0).part 0).rewriteDue 0 s.now = true ∧ ((u.stepAdvance 0).part 0).rewriteDue 0 u.now = false := by decide +kernel

theorem wit_WeightReplacement_done :
    let c : RowCopy := { layer := 0, stks := [0], start := 0, torn := false }
    let s := wtState [] fun w => { w with copies := [c] }
    (s.part 0).wts.copies = [c] ∧ wmap.ents.find? (fun e => decide (e.layer = 0 ∧ e.stack = 0)) = wmap.ents.head? ∧
      (s.stack 0).sweep.any (fun x => !x.fin && !x.stopped) = false ∧ Healthy s 0 ∧ s.badIn 0x500000 16384 = none ∧
      (some (sweepOf false 0)).any (fun x => !x.fin && !x.stopped) = true := by unfold Healthy; decide +kernel

/-! ## Witnesses: audit, recovery and shadowing (chapters 15 and 18) -/

theorem wit_AuditRecovery :
    let s := base.setPart 0 { runPart with launch := { runPart.launch with st := .complete }, run := { runPart.run with spent := true } }
    ((s.stepAdvance 0).part 0).closeDue s.now = true := by decide +kernel

def digRec (d : Nat) : DigRec := { step := 3, layer := 0, kind := 2, tile := 0, wev := false, count := 0, dig := BitVec.ofNat 128 d }

theorem wit_AuditRecovery_records :
    let a := { Audit.reset with peerIn := [digRec 1], own := [(0, digRec 2)] }
    let n : Notice := { lid := 1, cls := 3, origin := 9, tick := 5, src := 9 }
    let f := { Faults.reset with notes := [n], first := some (List.replicate 16 0), repIn := [List.replicate 16 0], hangDue := true }
    a.peerIn = [digRec 1] ∧ a.own = [(0, digRec 2)] ∧ a.peer = [] ∧ a.lostOwn = [] ∧ (digRec 1).kind = 2 ∧ (digRec 1).step = (digRec 2).step ∧
      f.notes = n :: [] ∧ runPart.running = true ∧ n.lid = runPart.launch.lid ∧ runPart.run.halted = false ∧
      f.first = some (List.replicate 16 0) ∧ runPart.plan = some smallPlan ∧ f.reported = false ∧ (List.replicate 16 (0 : Word)).length = 16 ∧
      runPart.sh.role = 0 ∧ f.repIn = List.replicate 16 0 :: [] ∧ f.hangDue = true := by decide

/-- Tests of a Loft row and of a tile that wait while the tile is at rest; the last spare row of the bank is free. -/
theorem wit_AuditRecovery_tests :
    let s := { base with dev := { base.dev with tests := [{ kind := 0, idx := 2047 }, { kind := 5, idx := 1 }], spares := [(15, 3)] } }
    ({ kind := 0, idx := 2047 } : SelfTest) ∈ s.dev.tests ∧ s.testTime 0 2047 = true ∧ ({ kind := 5, idx := 1 } : SelfTest) ∈ s.dev.tests ∧
      s.testTime 5 1 = true ∧ SMap.get 0 s.dev.spares (2047 / 128) < 4 ∧ s.hrt.retired.length < 256 := by decide +kernel

theorem wit_AuditRecovery_shadow :
    let h := { Shadow.reset with otherIn := [(1, 7)], reqIn := [1], role := 4 }
    let v := { runPart with sh := h }
    let w := { runPart with sh := { Shadow.reset with ackIn := [1], promote := some (1, some aRef), role := 2, verified := true } }
    h.otherIn = (1, 7) :: [] ∧ Shadow.reset.role = 0 ∧ h.role ≠ 0 ∧ (∀ x ∈ h.own, x.1 ≠ 1) ∧ h.reqIn = 1 :: [] ∧ h.role = 4 ∧ v.live = true ∧
      w.sh.ackIn = 1 :: [] ∧ w.sh.promote = some (1, some aRef) ∧ w.ackInTime (999000 + 2000 - 20000) 1 = true ∧
      w.switchDue 1001000 1 = true ∧ w.sh.role ≠ 4 ∧ base.cmd.waits = [] ∧ w.sh.acked = false := by decide

/-! ## Witnesses: bring-up and the host's transport (chapters 16 and 19) -/

theorem wit_BringupAndResets :
    State.reset.pwr.pwrOk = false ∧ base.pwr.pwrOk = true ∧ base.pwr.inReset = false ∧ base.mnt.up ≠ 0 ∧
    (let p := { base.pwr with offReq := true, offAt := 0 }
     p.offReq = true ∧ p.offAt + 1000000000 ≤ 1000000000) ∧
    ({ base.cmd with romReset := some 5 } : Cmd).romReset = some 5 ∧ 5 ≤ base.mnt.up ∧ base.hrt.pend ≠ 3 ∧
    (HostPort.reset.perst = true) ∧ base.pwr.telAt + 1000000 ≤ base.mnt.up := by decide

/-- Every stage from 0 to 9 may end. -/
theorem wit_BringupAndResets_stages : ∀ n ∈ [0, 1, 2, 3, 4, 5, 6, 7, 8, 9],
    let s := ({ base with pwr := { base.pwr with stage := n }, mnt := { base.mnt with active := some false } }).setPort 0 upPort
    s.stageMayEnd = true ∧ s.pwr.rerun = none ∧ s.pwr.stage = n ∧ s.hrt.imageOk = false ∧ s.enabledPorts ≠ [] ∧
      (∀ k ∈ s.enabledPorts, (s.port k).st = .up ∨ (s.port k).st = .down) ∧ s.mnt.td = .track := by decide +kernel

/-- A packet that the PF has submitted on port 0. -/
def packet (opc scope : Nat) (rest : List Nat) : List Word := [word (opc + (3 + rest.length) * 2 ^ 16), 77, word (scope * 256)] ++ rest.map word
def sentTo (s : State) (ws : List Word) : State :=
  { s with cmd := { s.cmd with ports := [(0, { HostPort.reset with perst := false, up := true, q := [{ fn := 0, words := ws, badLen := false }], outst := 1 })] } }
def pktIn (ws : List Word) : Pkt := pktOf 0 { fn := 0, words := ws, badLen := false }
def takenFrom (s : State) (ws : List Word) : State := ((sentTo s ws).front.map fun x => x.2).getD s
/-- The command is taken from it, and passes the checks of its form. -/
def Taken (s : State) (opc scope : Nat) (rest : List Nat) (f : Form) : Prop :=
  Takes (sentTo s (packet opc scope rest)) (takenFrom s (packet opc scope rest)) (pktIn (packet opc scope rest)) opc f

theorem wit_HostTransport :
    let s := sentTo base (packet 1 0 [])
    s.fnUp 0 0 = true ∧ (s.hport 0).outst < 256 ∧ fld (wd (packet 1 0 []) 0) 16 16 = (packet 1 0 []).length ∧
      (s.fn 0 0).en = false ∧ (s.fn 0 0).full = false ∧ Taken base 1 0 [] nopForm ∧ (packet 0 0 [5]).length ≠ 3 ∧
      0xFE ∉ opcodes ∧ (pktIn (packet 0xFE 0 [])).bad = false := by
  unfold Taken Takes; decide +kernel

/-- A ring of 512 entries with a reply to write, the last of the ring; and one that is full. -/
def ringFn : Fn := { Fn.reset with en := true, wp := 511, rp := 5, base := 0x4000, held := [{ tag := 77, opc := 1, status := 0, part := 0, irq := true, mtick := 3, res := [] }] }

theorem wit_HostTransport_ring :
    ringFn.held.length = 1 ∧ ringFn.en = true ∧ ringFn.full = false ∧ ({ ringFn with rp := 0 } : Fn).full = true ∧
    flag (0x80000010 : BitVec 32) 31 = true ∧ 9 ≤ fld (0x80000010 : BitVec 32) 0 5 ∧ fld (0x80000010 : BitVec 32) 0 5 ≤ 16 ∧ Fn.reset.en = false ∧
    (511 : BitVec 32).toNat < 2 ^ Fn.reset.rsz := by decide

/-- The aperture of the PF and of VF1 at the first owned region of the Marl, and at the first that no partition owns. -/
theorem wit_HostTransport_aperture :
    base.hostAt 0 0 = .mem ∧ base.hostAt 1 (2 ^ 20 - 8) = .mem ∧ base.badIn 0 8 = none ∧ base.hostAt 1 (5 * 2 ^ 30) = .denied := by decide +kernel

/-! ## Witnesses: the plan commands (chapter 16) -/

theorem wit_PlanCommands_dma :
    Taken base 2 0 [1, 0x1000, 0, 0x2000, 0, 1] dmaForm ∧
    (let k := pktIn (packet 2 0 [1, 0x1000, 0, 0x2000, 0, 1])
     k.dma.haddr % 256 = 0 ∧ k.dma.laddr % 256 = 0 ∧ 0 < k.dma.nu ∧ k.dma.nu ≤ 0x01000000 ∧ base.dmaOk k.part k.dma.laddr 256 = true) ∧
    base.dmaOk 0 (5 * 2 ^ 30) 256 = false ∧ base.svcAt 0 0x2000 = .mem ∧ base.badIn 0x2000 256 = none := by
  unfold Taken Takes; decide +kernel

/-- An image of 22 units of zeros at 4 KiB is refused. -/
theorem wit_PlanCommands_load :
    Taken base 3 0 [0x1000, 0, 22] planLoadForm ∧
    (let k := pktIn (packet 3 0 [0x1000, 0, 22])
     k.iaddr % 256 = 0 ∧ 0 < k.isize ∧ k.isize ≤ 256 * 0x04000000 ∧ base.ownedMarl k.part k.iaddr k.isize = true) ∧
    (base.part 0).running = false ∧ (base.part 0).flt.resetting = false ∧ base.loadingIn 0 = false := by
  unfold Taken Takes; decide +kernel

def loading : Loading := { ref := { aRef with opc := 3 }, part := 0, plan := smallPlan }

theorem wit_PlanCommands_loaded :
    let s := { base with cmd := { base.cmd with loads := [loading] } }
    s.cmd.loads.find? (fun x => decide (x.part = 0)) = some loading ∧ (loading.plan.tiles.map (·.tile)).Nodup ∧ s.cmd.waits = [] ∧
      loading.plan.init = [] ∧ loading.plan.sync = [] ∧
      ({ smallPlan with rafter := [], init := [{ addr := 0x1000, data := [1, 2] }] } : Plan).rafterWords = [] := by decide

theorem wit_PlanCommands_unload : Taken base 4 0 [] planUnloadForm ∧ Taken (running base) 4 0 [] planUnloadForm ∧ ((running base).part 0).running = true := by
  unfold Taken Takes; decide +kernel

/-- The root of a launch tree of one plan link, 35,000 ticks ahead. -/
def rootState : State := (base.setPart 0 (ltPart true Launch.reset)).setPort 0 { upPort with delay := 0 }

theorem wit_PlanCommands_launch :
    Taken rootState 5 0 [1035000, 0, 2] launchForm ∧
    (let k := pktIn (packet 5 0 [1035000, 0, 2])
     let u := takenFrom rootState (packet 5 0 [1035000, 0, 2])
     let v := rootState.part 0
     v.plan = some smallPlan ∧ rootState.now + 20000 + 0 ≤ k.w64 3 ∧ v.ltRoot = true ∧ v.launch.pending = false ∧ v.launch.seenConf ≠ some (k.lid 5) ∧
       v.run.spent = false ∧ v.running = false ∧ u.powerBad 0 = false ∧ u.armCheck 0 (u.armOf k) = 0 ∧ v.children ≠ []) := by
  unfold Taken Takes; decide +kernel

theorem wit_PlanCommands_cancel :
    let s := base.setPart 0 (ltPart true { armed true with reply := some { aRef with opc := 5 } })
    Taken s 6 0 [2] launchCancelForm ∧ (s.part 0).launch.st = .armed ∧ (s.part 0).launch.parent = none ∧ (s.part 0).launch.reply.isSome = true ∧
      (s.part 0).launch.lid = (pktIn (packet 6 0 [2])).lid 3 ∧ (s.part 0).launch.confSent = false ∧ (s.part 0).launch.unarmed = none ∧
      Taken s 6 0 [3] launchCancelForm ∧ (s.part 0).launch.lid ≠ (pktIn (packet 6 0 [3])).lid 3 := by
  unfold Taken Takes; decide +kernel

/-- PAUSE 20,000 ticks ahead, running and idle; RESUME of a plan paused at course 1; and the restart before and at its time. -/
def pausedPart : Part := { runPart with run := { runPart.run with paused := some 1 } }

theorem wit_PlanCommands_pause :
    Taken (running base) 7 0 [1020000, 0] pauseForm ∧ Taken base 7 0 [1020000, 0] pauseForm ∧ ((running base).part 0).run.pause = none ∧
    ((running base).part 0).run.paused = none ∧ (running base).now + 20000 ≤ (pktIn (packet 7 0 [1020000, 0])).w64 3 ∧
    Taken (base.setPart 0 pausedPart) 8 0 [1020000, 0] pauseForm ∧ pausedPart.pausePoint ≤ 1020000 ∧ pausedPart.run.paused = some 1 ∧
    pausedPart.run.resume = none ∧ base.mnt.td = .track ∧ (base.setPart 0 pausedPart).powerBad 0 = false ∧
    ({ pausedPart.run with resume := some (1000000, aRef) } : Run).resume = some (1000000, aRef) ∧ 1000000 ≤ base.now := by
  unfold Taken Takes; decide +kernel

theorem wit_PlanCommands_reset :
    Taken base 9 0 [] ctxForm ∧ Taken (running base) 9 0 [] ctxForm ∧ ((running base).part 0).run.halted = false ∧
    (let f := { Faults.reset with resetting := true }
     let c := { base.cmd with resets := [(0, aRef)] }
     f.resetting = true ∧ f.hangDue = false ∧ c.resets.filter (fun x => decide (x.1 = 0)) = [(0, aRef)] ∧ aRef.hp < 2) := by
  unfold Taken Takes; decide +kernel

/-- SYNC_WAIT for 0 and for 7 on a Marl word that reads 0; one whose time has come; and SYNC_OP on it. -/
theorem wit_PlanCommands_sync :
    Taken base 0xA 0 [0x100, 0, 0, 0, 0, 1] syncWaitForm ∧ Taken base 0xA 0 [0x100, 0, 7, 0, 0, 1] syncWaitForm ∧ base.syncPlace 0 0x100 = true ∧
    (base.waitOf (pktIn (packet 0xA 0 [0x100, 0, 0, 0, 0, 1]))).met (base.rdW 0x100) = true ∧
    (base.waitOf (pktIn (packet 0xA 0 [0x100, 0, 7, 0, 0, 1]))).met (base.rdW 0x100) = false ∧
    (let h : HostWait := { ref := aRef, addr := 0x100, val := 7, eq := false, till := some 1000000 }
     [h][0]? = some h ∧ h.till = some 1000000 ∧ 1000000 ≤ base.now) ∧
    Taken base 0xB 0 [0x100, 0, 5, 0, 0] syncOpForm ∧ base.rafterWord 0 0x100 = none := by
  unfold Taken Takes; decide +kernel

/-! ## Witnesses: the serving commands (chapters 12 to 14) -/

/-- A submit of one token, temperature 0, and the sampling fields at legal values. -/
def submitWords (adp : Nat) : List Nat :=
  [0] ++ [adp, 5, 0, 0, 1, 1, 0, 0, 0x2000, 0, 0x4000, 0, 0, 0, 0, 0, 0, 0x3F800000, 0, 0x3F800000, 0, 0, 0, 0] ++ List.replicate 8 0

theorem wit_ServingCommands_submit :
    let s := servState 0 true 999000
    let ws := packet 0x10 0 (submitWords 0)
    let u := takenFrom s ws
    (sentTo s ws).front = some (pktIn ws, u) ∧ (pktIn ws).opc = 0x10 ∧ firstRefusal (u.submitChecks (pktIn ws)) = none ∧ s.slotShut (pktIn ws) = false ∧
      base.cmd.waits = [] := by decide +kernel

/-- The same with adapter slot 0, which is empty. -/
theorem wit_ServingCommands_shut :
    let s := servState 0 true 999000
    let ws := packet 0x10 0 (submitWords (2 ^ 10))
    firstRefusal ((takenFrom s ws).submitChecks (pktIn ws)) = none ∧ s.slotShut (pktIn ws) = true := by decide +kernel

theorem wit_ServingCommands_record : ∀ op ∈ [0x11, 0x12], ∀ st ∈ [0, 1, 4, 5, 6],
    let s := { servState 0 true 999000 with recs := [(0, { Record.reset with state := st, tag := 1 })] }
    Taken s op 0 [0] recordForm ∧ (takenFrom s (packet op 0 [0])).owner 4 0 = some 0 ∧ s.isLead 0 = true ∧ (s.record 0).state = st := by
  unfold Taken Takes; decide +kernel

theorem wit_ServingCommands_larder : ∀ st ∈ [0, 1, 3, 4],
    let s := { servState 0 true 999000 with larder := [(0, { LSlot.reset with state := st, refc := 1 })] }
    Taken s 0x13 0 ([0, 256] ++ List.replicate 8 0) ldrLoadForm ∧ Taken s 0x14 0 [0] ldrRetireForm ∧ s.owner 5 0 = some 0 ∧
      fld (256 : Word) 0 24 ≤ s.slotUnits 0 ∧ (s.lslot 0).state = st := by
  unfold Taken Takes; decide +kernel

/-- WDIST of a descriptor in owned Marl, and of one in none; WSWAP on an idle lead, on a busy one, and with no weight map. -/
theorem wit_ServingCommands_weights :
    let s := servState 0 true 999000
    Taken s 0x15 0 [0x1000, 0] wdistForm ∧ s.owned 0 0x1000 16 = true ∧ s.owned 0 (5 * 2 ^ 30) 16 = false ∧ s.owned 0 0x1000 (s.descBytes 0x1000) = true ∧
      Taken s 0x16 0 [9] wswapForm ∧ (pktIn (packet 0x16 0 [9])).lid 3 ≠ 0 ∧ s.isLead 0 = true ∧ (s.part 0).wts.swst = 0 ∧ s.wmapOf 0 = some wmap ∧
      (base.setPart 0 { servPart 0 true 999000 with plan := some { servPlan with wmap := none } }).wmapOf 0 = none := by
  unfold Taken Takes; decide +kernel

/-- A descriptor at 4 KiB of one position, this device, and one piece of one byte, its ring at 8 MiB. -/
def wdState : State :=
  { servState 0 true 999000 with
    mem := [(0x1000, 7), (0x1002, 1), (0x1008, 1), (0x100C, 9), (0x1012, 0x80), (0x1018, 1), (0x1040, 5), (0x5043, 1), (0x5048, 1), (0x504C, 1), (0x5058, 4)] }

/-- WDIST of that descriptor passes every check. -/
theorem wit_ServingCommands_wdist :
    let s := wdState
    let k := pktIn (packet 0x15 0 [0x1000, 0])
    let u := takenFrom s (packet 0x15 0 [0x1000, 0])
    let desc := s.rd k.addr3 (s.descBytes k.addr3)
    let d := Dist.start (natAt desc 16 6) 0 s.mnt.up desc true (some k.ref)
    let e : Dist := { d with conv := pad1k d.descLen, poff := pad1k d.descLen }
    Taken s 0x15 0 [0x1000, 0] wdistForm ∧ u.owned 0 k.addr3 (s.descBytes k.addr3) = true ∧ (∀ x ∈ d.pieces, x.ok d.mode = true) ∧ d.dev 0 = s.me ∧
      u.distRefused 0 e = false := by unfold Taken Takes; decide +kernel

/-- The descriptor of WDIST, and the output queue of a ring copy, lie in sound memory. -/
theorem wit_ServingCommands_sound :
    let s := wdState
    Sound s 0x1000 (s.descBytes 0x1000) ∧ Sound s 0 oqSize := by
  refine ⟨sound_stack0 _ _ _ ?_ ?_ ?_ ?_ ?_ ?_, sound_stack0 _ _ _ ?_ ?_ ?_ ?_ ?_ ?_⟩ <;> decide +kernel

/-! ## Witnesses: binding and security (chapter 17), recovery (chapter 18) -/

/-- Binding the two tiles to partition 1, and unbinding them. -/
theorem wit_BindingAndClearing : ∀ w ∈ [0x100, 0x108],
    let ws := packet 0x20 1 [w, 0, 2]
    let u := takenFrom base ws
    (sentTo base ws).front = some (pktIn ws, u) ∧ (pktIn ws).opc = 0x20 ∧ firstRefusal (u.bindChecks (pktIn ws)) = none ∧
      (pktIn ws).units = [0, 1] ∧ (pktIn ws).unb = decide (w = 0x108) := by decide +kernel

theorem wit_BindingAndClearing_clear : ∀ k ∈ [0, 1, 2, 3, 4, 5],
    let b : Binding := { ref := aRef, units := [(k, 1)], tpart := 63, unb := false }
    let s := { base with cmd := { base.cmd with binds := [b] } }
    s.cmd.binds = b :: [] ∧ b.units = [(k, 1)] ∧ b.tpart < 64 := by decide

theorem wit_SecurityCommands :
    Taken base 0x21 0 [1, 2, 3, 4, 5, 6, 7, 8] pkeyForm ∧ (pktIn (packet 0x21 0 [1])).pf = true ∧ base.hasPlan 0 = false ∧ (running base).hasPlan 0 = true ∧
    Taken base 0x22 1 ([1, 2, 3, 4, 5, 6, 7, 8] ++ [0x100, 0]) attestForm ∧ (pktIn (packet 0x22 1 ([1, 2, 3, 4, 5, 6, 7, 8] ++ [0x100, 0]))).w64 11 % 256 = 0 ∧
    Taken base 0x23 1 [1, 0x100, 0] certForm ∧ (pktIn (packet 0x23 1 [1, 0x100, 0])).w64 4 % 256 = 0 ∧
    Taken base 0x2A 1 [] svnForm ∧ Taken base 0x32 1 [0x100, 0] retireForm ∧ Taken base 0x30 0 [0x100, 0] hangForm ∧
    (pktIn (packet 0x30 0 [0x100, 0])).w64 3 % 256 = 0 ∧ (base.part 0).flt.hang = none := by
  unfold Taken Takes; decide +kernel

/-- Challenges, locks and unlocks of both levels; a token of zeros of its level has no reserved bit set. -/
theorem wit_SecurityCommands_debug : ∀ l ∈ [0, 1],
    Taken base 0x24 l [l] (levelForm l) ∧ Taken base 0x26 l [l] (levelForm l) ∧ Taken base 0x25 l [0x100, 0] (unlockForm l) ∧
      tokenReserved [byte l] = false ∧ fld (wordAt [byte l] 0) 0 1 = l ∧ base.hrt.lc ≠ 2 := by
  unfold Taken Takes; decide +kernel

theorem wit_SecurityCommands_phys :
    let s := { base with hrt := { base.hrt with dbgDev := true, fuseT := [255] } }
    Taken base 0x18 1 [0, 255] physForm ∧ base.hrt.dbgDev = false ∧ Taken s 0x18 1 [0, 255] physForm ∧ s.hrt.dbgDev = true ∧ 255 < physCount 0 ∧
      s.fused 0 255 = true ∧ s.fused 0 1 = false ∧ s.logicalOf 0 1 = some 1 ∧ s.logicalOf 0 2 = none := by
  unfold Taken Takes; decide +kernel

theorem wit_SecurityCommands_firmware :
    Taken base 0x27 1 [0x100, 0, 22] fwForm ∧ Taken (running base) 0x27 1 [0x100, 0, 22] fwForm ∧ base.anyPlan = false ∧ (running base).anyPlan = true ∧
    base.cmd.loads = [] ∧ base.cmd.fwup = none ∧ ((pktIn (packet 0x27 1 [0x100, 0, 22])).w 5).toNat = 22 ∧
    ({ base.cmd with fwup := some (aRef, [1]) } : Cmd).fwup = some (aRef, [1]) := by
  unfold Taken Takes; decide +kernel

theorem wit_SecurityCommands_lifecycle :
    Taken base 0x28 1 [2, 0, 0] lcForm ∧ Taken base 0x28 1 [3, 0x100, 0] lcForm ∧ lcLeaves base.hrt.lc 2 = true ∧ lcLeaves base.hrt.lc 3 = true ∧
    lcLeaves 3 2 = false ∧ base.hrt.pend = 0 ∧ (pktIn (packet 0x28 1 [2, 0, 0])).w64 4 = 0 := by
  unfold Taken Takes; decide +kernel

theorem wit_SecurityCommands_power : ∀ st ∈ [0, 1, 2, 3, 4],
    Taken base 0x29 1 [st] pwrForm ∧ base.powerHeld st = false ∧ ((running base).powerHeld 3 = true) ∧ base.pwr.state = 0 := by
  unfold Taken Takes; decide +kernel

theorem wit_SecurityCommands_selftest :
    Taken base 0x31 1 [0, 1] selftestForm ∧ 1 < base.testCount 0 ∧ base.testCount 0 ≤ 2 ∧ Taken base 0x31 1 [0, 2] selftestForm ∧
    base.inUse 0 1 = false ∧ (running base).inUse 0 1 = true ∧ Taken (running base) 0x31 1 [0, 1] selftestForm := by
  unfold Taken Takes; decide +kernel

/-- The spare of a pair with device 9: SHADOW_START; SHADOW_PROMOTE 100,000 ticks ahead, verified and not; SHADOW_STOP. -/
def spare (role : Nat) (ver : Bool) : Part :=
  { Part.reset with
    plan := some { smallPlan with shadow := true, shw := 9, shs := 5, courses := [course 0, course 101000] },
    launch := if role = 0 then Launch.reset else runPart.launch,
    run := runPart.run,
    sh := { Shadow.reset with role := role, verified := ver, peer := 9 } }

theorem wit_SecurityCommands_shadow :
    let s := fun (r : Nat) (v : Bool) => base.setPart 0 (spare r v)
    Taken (s 0 false) 0x33 0 [9] shadowStartForm ∧ (s 0 false).spareOfPair 0 9 = true ∧ base.spareOfPair 0 9 = false ∧ (spare 0 false).running = false ∧
    (spare 0 false).sh.start = none ∧ Taken (s 1 false) 0x34 0 [1, 0] shadowPromoteForm ∧ Taken (s 2 true) 0x34 0 [1, 0] shadowPromoteForm ∧
    (spare 1 false).promoteLate base.now 1 = false ∧ (spare 2 true).sh.promote = none ∧ (spare 2 true).run.halted = false ∧
    Taken (s 0 false) 0x35 0 [] shadowStopForm ∧ Taken (s 2 true) 0x35 0 [] shadowStopForm := by
  unfold Taken Takes; decide +kernel

/-! ## Witnesses: register writes and the sideband (chapters 16, 17 and 20) -/

/-- The limits of the budget, below and above them; a generation armed 10,000 ticks ahead; FULLREQ in the reduced-service profile. -/
theorem wit_RegisterWrites :
    base.accUp .sideband = true ∧ accOwner .sideband = true ∧ accOwner (.host 0 1) = false ∧
    (let v : BitVec 32 := word (600 + 1500 * 2 ^ 16)
     600 ≤ fld v 0 11 ∧ fld v 0 11 ≤ 1200 ∧ fld v 0 11 ≤ fld v 16 11 ∧ fld v 16 11 ≤ 1500 ∧ base.plansFit (fld v 0 11) (fld v 16 11) = true) ∧
    fld (word 599 : BitVec 32) 0 11 < 600 ∧ 1200 < fld (word 1201 : BitVec 32) 0 11 ∧
    (let v : BitVec 32 := word (2 ^ 16 + 3 * 2 ^ 12)
     flag v 16 = true ∧ base.fab.armed = false ∧ fld v 12 4 ≠ base.fab.active ∧ base.fab.pvalid = false ∧ base.now + 10000 ≤ (dword 1010000).toNat ∧
       base.fab.actAt.toNat < base.now + 10000) ∧
    (({ base.pwr with rsvc := true } : Pwr).rsvc = true ∧ base.anyPlan = false ∧ base.cmd.loads = [] ∧ base.pwr.rerun = none) := by decide +kernel

theorem wit_RegisterWrites_partition :
    accFor .sideband 63 = true ∧ (base.part 0).launch.st = .idle ∧ ((running base).part 0).launch.st = .running ∧ (base.part 0).plan = none ∧
    ((running base).part 0).plan.isSome = true ∧ fld (8 : BitVec 32) 0 3 = 0 ∧ ({ Weights.reset with swst := 4 } : Weights).swst = 4 ∧
    base.ownedMarl 0 (2 ^ 20) (2 ^ 20) = true ∧ base.servRegOk 0 (.tgt 8) 1 = false ∧
    (0 : BitVec 64).toNat % oqSize = 0 ∧ base.ownedMarl 0 0 oqSize = true ∧ base.recordsIdle 0 = true ∧
    (let f := { base.fab with armed := true, actAt := 1000000, pvalid := true, retireAt := 1000000 }
     f.armed = true ∧ f.actAt.toNat ≤ base.now ∧ f.pvalid = true ∧ f.retireAt ≤ base.now) := by decide +kernel

theorem wit_SidebandMessages :
    State.reset.pwr.stage = 0 ∧ 1 ≤ base.pwr.stage ∧ 4 ≤ base.pwr.stage ∧ base.pwr.inReset = false ∧ base.pwr.offLate = false ∧
    regionOff 0x02FFFFFFFFFF = none ∧ base.powerStatus 1 = 0 ∧ (running base).powerStatus 3 ≠ 0 ∧ base.mnt.up ≠ 0 := by decide +kernel

/-! ## Witnesses: the machine -/

theorem wit_StepRunsFrontCommand :
    ({ base with pending := [.nop] } : State).pending = .nop :: [] ∧ State.reset.pending = [] ∧ State.reset.pwr.inReset = true := by decide

theorem headerFlit :
    (hdrOf 9 0).enc =
      237922183347957507371432909765556604713347041038530749285126679606201052974989928418800197100403893296287600179778539555782961511277067095245660873097221#512 := by decide +kernel

theorem wit_HeaderRoundTrip : hcrcOk (hdrOf 9 0).enc = true ∧ hdrReserved0 (hdrOf 9 0).enc = true := by
  rw [headerFlit]; decide +kernel

theorem wit_MemoryStaysCanonical :
    State.reset.memWf = true ∧ base.memWf = true ∧ (nextOf (step { base with pending := [.marlRefreshWindow 0 0 false] })).isSome = true := by decide +kernel


/-! ## Results that the manual states -/

/-- R548: the CRC-32C of the nine bytes 123456789. -/
theorem test_crc32c : crc32c [0x31, 0x32, 0x33, 0x34, 0x35, 0x36, 0x37, 0x38, 0x39] = 0xE3069283 := by decide +kernel

/-- What an SC operation makes visible at its completion, with two scalar registers set. -/
def scEff (op w0 w1 : Nat) (a b : DWord) (f : Nat → State → Host.Outcome State Fault Refusal) : Option (List Effect) :=
  let v := (headOf beatTile .sc (2048 * op + w0) w1).setS 3 a |>.setS 7 b
  match f 0 (withTile v) with
  | .next u => ((u.tile 0).fly.head?).map (·.eff)
  | _ => none

/-- Table 5.3: ADD of an immediate wraps; its encoding is that of the manual. -/
theorem test_add_wraps :
    (0x10341801 : Nat) = 2048 * 3 + (2 ^ 28 + 2 ^ 20 * 3 + 2 ^ 16 * 4 + 1) ∧
    scEff 3 (2 ^ 28 + 2 ^ 20 * 3 + 2 ^ 16 * 4 + 1) 0x20 0xFFFFFFFFFFFFFFF0 0 execAdd = some [.sreg 4 0x10] := by decide
/-- Table 5.3: shifts by 0x43 shift by 3. -/
theorem test_sar : scEff 0xA (2 ^ 24 * 7 + 2 ^ 20 * 3 + 2 ^ 16 * 6) 0 0x8000000000000000 0x43 execSar = some [.sreg 6 0xF000000000000000] := by decide
theorem test_shr : scEff 9 (2 ^ 24 * 7 + 2 ^ 20 * 3 + 2 ^ 16 * 6) 0 0x8000000000000000 0x43 execShr = some [.sreg 6 0x1000000000000000] := by decide
theorem test_mul : scEff 0xB (2 ^ 24 * 7 + 2 ^ 20 * 3 + 2 ^ 16 * 5) 0 0x100000001 0x100000001 execMul = some [.sreg 5 0x200000001] := by decide
/-- Table 5.3: LT is signed, LTU is not. -/
theorem test_setp :
    scEff 0xC (2 ^ 29 * 2 + 2 ^ 24 * 7 + 2 ^ 20 * 3 + 2 ^ 16 * 2) 0 0xFFFFFFFFFFFFFFFF 1 execSetp = some [.pred 2 true] ∧
    scEff 0xC (2 ^ 29 * 4 + 2 ^ 24 * 7 + 2 ^ 20 * 3 + 2 ^ 16 * 2) 0 0xFFFFFFFFFFFFFFFF 1 execSetp = some [.pred 2 false] := by decide

/-- The header of the example of chapter 3: SLOTS 0x0D, LEN 6, PIDX 5, PEN 1. -/
theorem test_header : fld 0x958D 0 6 = 0x0D ∧ shLen 0x958D = 6 ∧ shPidx 0x958D = 5 ∧ shPneg 0x958D = false ∧ shPen 0x958D = true := by decide
/-- R153: the fields of the first MXR of the loop example. -/
theorem test_mxr_fields :
    opcode 0x02420D21 = 1 ∧ mxSet 0x02420D21 = 0 ∧ mxClr 0x02420D21 = true ∧ mxWb 0x02420D21 = 72 ∧ mxAf 0x02420D21 = 0 ∧ mxWf 0x040007F0 = 0 ∧
    mxN 0x040007F0 = 128 ∧ mxWoff 0x040007F0 = 0 ∧ mxAreg 0x040007F0 = 2 ∧ opWen 0x02420D21 = true ∧ opWidx 0x02420D21 = 0 ∧
    opSen 0x02420D21 = true ∧ opSidx 0x02420D21 = 4 := by decide
/-- Chapter 5: the fields of the LDM of the loop example: s1 INC, L = 32, DOFF = 0x180; waits xb4, sets xb0. -/
theorem test_ldm_fields :
    lsAreg 0x0BE11C29 = 1 ∧ ldmInc 0x0BE11C29 = true ∧ lsmL 0x0BE11C29 = 32 ∧ lsmUnit 0x180 = 0x180 ∧ opWidx 0x0BE11C29 = 4 ∧ opWen 0x0BE11C29 = true ∧
    opSidx 0x0BE11C29 = 0 ∧ opSen 0x0BE11C29 = true := by decide

/-- Table 4.5: the three steps of the run give A = -228,932 with WB = 72, in this order and in another. -/
def step45 (a w : Nat) : KStep := { n0 := 0, a := [a], w := [w], sa := [], sw := [] }
def run45 (wb : Nat) (ks : List KStep) : BitVec 128 := ks.foldl (fun a k => (k.addTo false wb 0 0 0 0 a).a) 0
theorem test_slab_run :
    run45 72 [step45 0x3B 0x86, step45 0x46 0x30, step45 0xC0 0x7E] = BitVec.ofInt 128 (-228932) ∧
    run45 72 [step45 0xC0 0x7E, step45 0x3B 0x86, step45 0x46 0x30] = BitVec.ofInt 128 (-228932) ∧
    run45 96 [step45 0x3B 0x86, step45 0x46 0x30, step45 0xC0 0x7E] = 0 := by decide +kernel
/-- Table 5.9: that accumulator read in the formats of VSLB. -/
def info72 : SlabInfo := { wb := 72, mode := .slab, pair := false, depth := 3 }
def acc45 : Acc := { a := BitVec.ofInt 128 (-228932), sat := false, inv := false }
theorem test_slab_reads :
    fp32.encode (accVal info72 acc45) = 0xC45F9100 ∧ bf16.encode (accVal info72 acc45) = 0xC460 ∧ e4m3.encode (accVal info72 acc45) = 0xFE ∧
    accInt 32 info72 acc45 = 0xFFFFFC82 ∧ acc45.a.toNat % 2 ^ 64 = 0xFFFFFFFFFFFC81BC := by decide +kernel
/-- Table 5.9: functions and conversions. -/
theorem test_vfn :
    vfnEval 3 fp32 (fp32.decode 0x40400000) = 0x3EAAAAAB ∧ vfnEval 0 fp32 (fp32.decode 0x3F000000) = 0x3FB504F3 ∧
    vfnEval 4 fp32 (fp32.decode 0x80000000) = 0xFF800000 ∧ vfnEval 2 bf16 (bf16.decode 0x4100) = 0x4040 := by decide +kernel
theorem test_vcvt :
    fp32.encode ((fp32.decode 0).max (fp32.decode 0x80000000)) = 0 ∧ fp32.encode ((fp32.decode 0x80000000).max (fp32.decode 0)) = 0 ∧
    cvt 0 (fp32.decode 0x43FA0000) = 0x7E ∧ cvt 0 (fp32.decode 0x3A800000) = 0 ∧ cvt 4 (fp32.decode 0x40200000) = 4 := by decide +kernel

/-- The example after R169: channel 7, bank group 1 and bank 2, die 13; and region 102. -/
theorem test_marl_place :
    (0x00198765C000 : Nat) / stackSize = 2 ∧ chanOf (0x00198765C000 % stackSize) = 7 ∧ dieOf (0x00198765C000 % stackSize) = 13 ∧
    0x00198765C000 / 2 ^ 30 = 102 := by decide

/-- The example of chapter 7: page-pair costs of a decode entry and of a tree of 16 nodes. -/
theorem test_pair_cost : pairCost 16384 4 1 = 2064 ∧ pairCost 16384 4 16 = 26232 := by decide

/-- Table 16.2: the words of a LAUNCH packet. -/
theorem test_launch_packet : fld 0x00060005 0 8 = 0x05 ∧ fld 0x00060005 16 7 = 6 := by decide

/-- Chapter 13: the result of record 3,071 in step 175,000 passes every check, and the lead emits its three tokens. -/
def ent12 : ManEnt := { rcd := 3071, kind := 2, lane := 0, adpen := false, adp := 0, n := 6, off := 340, p0 := 1000, endp := false }
def toks12 : List Nat := [0xB8000000206C, 2210, 6004]
theorem test_result_check :
    resultCheck 175000 ent12 0x0002AB9800000103 toks12 = 0 ∧ sumNemit 0x0002AB9800000103 = 3 ∧ sumAcc 0x0002AB9800000103 = 2 ∧
    sumFull 0x0002AB9800000103 = false ∧ resultCheck 175001 ent12 0x0002AB9800000103 toks12 = 1 := by decide
def rec3071 : Record := { Record.reset with state := 2, pos := 1000, gen := 40, last := 9001, tcur := 6, tmax := 8, frun := 3, maxnew := 0xFFFFFFFF, tag := 0xC0F }
theorem test_result_applied :
    let x := (base.setRecord 3071 rec3071).applyResult 0 { ent := ent12, num := 12, sum := 0x0002AB9800000103, toks := toks12 }
    let r := x.1.record 3071
    r.pos = 1003 ∧ r.gen = 43 ∧ r.last = 6004 ∧ r.zrun = 0 ∧ r.frun = 0 ∧ r.tcur = 6 ∧
      x.2.map (fun e => (e.tok, e.idx, e.first)) = [(8300, 0, false), (2210, 1, false), (6004, 2, false)] := by decide +kernel
theorem test_govern_doubles : (rec3071.govern 2 true).1.tcur = 8 ∧ (rec3071.govern 2 true).2.2 = true := by decide

/-- Table 12.6: the prompt r2 goes ahead of the decode r1 in the pass of Top, and the pass of Full places all four. -/
def shape126 (tb lanes cmax dur : Nat) : Shape :=
  { shape dur 1 with tb := tb, lanes := lanes, cmax := cmax, lctx := 4096, maxent := 100, win := 2 ^ 40, nc := 0 }
def composeState : State :=
  let v := { servPart 0 true 999000 with serv := { Serv.reset with tgt := [(0, 5000000)], outs := [(0, { OutPort.reset with opened := true })] } }
  let rc := fun (st cls dcls pos plen aseq : Nat) =>
    { Record.reset with state := st, cls := cls, dcls := dcls, pos := pos, plen := plen, cap := 4096, aseq := aseq, maxnew := 1000 }
  { base.setPart 0 v with recs := [(0, rc 3 0 0 10 10 1), (1, rc 2 3 1 0 6000 2), (2, rc 3 1 1 10 10 3), (3, rc 3 5 1 10 10 4)] }
theorem test_compose :
    composeState.tmin 0 = some 5000000 ∧
    ((composeState.pass 0 servPlan servDesc (shape126 1024 1 1024 4000000)).ents.map fun e => (e.rcd, e.n, e.lane)) = [(1, 1024, 0)] ∧
    ((composeState.pass 0 servPlan servDesc (shape126 8192 1 4096 12000000)).ents.map fun e => (e.rcd, e.n, e.lane)) =
      [(1, 4096, 0), (0, 1, 31), (2, 1, 31), (3, 1, 31)] := by decide +kernel
end Sys2Proof.Tests
end

section
namespace Sys2Proof

open Machine

/-! ### Sends of a plan: STN and STD (R47, R159, R264) -/

/-- `issue_go` for an operation whose latency and occupancy, scaled, are known. -/
theorem issued_of_go {s w : State} {t : Nat} {q : Queue} {op : Nat} {e : QEntry} {act : State → QEntry → Act} {eff : List Effect}
    {need lat occ : Nat} (h : s.issuing t q = some e) (ho : opcode e.w0 = op) (ha : act s e = .go w eff need)
    (hlat : s.latPub t q e.w0 e.w1 e.aux + s.tscale t * (s.lat t q e.w0 e.w1 e.aux - s.latPub t q e.w0 e.w1 e.aux) = lat)
    (hocc : s.tscale t * s.occ t q e.w0 e.w1 = occ) : Issued w (s.issue t q op act) t q e lat occ need eff :=
  hlat ▸ hocc ▸ issue_go h ho ha

/-- The slot that an STN puts on the die (R47, R159): what `State.stnSend` appends (`stnSend_of_plan`). -/
def sentSlot (s : State) (t p : Nat) (pl : Plan) (w0 w1 : Word) (i epoch : Nat) : OnDie :=
  let tr := travelOf 0 (pathSteps ((pl.path t (stnPath w0)).getD false) (s.physTile t) (s.physTile (stnTile w0)))
  { src := t, dst := stnTile w0, slot := stnSlot w1 + i, epoch := epoch, part := p,
    data := (s.tile t).opndRd (256 * (stnSrc w1 + i)) 256, doors := tr.1,
    due := s.bnAt p (s.roomOf t) t + (match tr.1 with
      | [] => tr.2
      | d :: _ => d.2),
    rest := tr.2, course := s.crsAt p (s.roomOf t) t }

theorem planOf_of_part {s : State} {t p : Nat} {pl : Plan} (hp : s.partOf t = some p) (hpl : (s.part p).plan = some pl) :
    s.planOf t = some pl := by
  have ho : s.owner 0 t = some p := hp
  simp [State.planOf, ho, hpl]

theorem depOf_of_plan {s : State} {t p : Nat} {pl : Plan} (hp : s.partOf t = some p) (hpl : (s.part p).plan = some pl) (i : Nat) :
    s.depOf t i = pl.deps[i]? := by
  simp [State.depOf, planOf_of_part hp hpl]

theorem tscale_of_part {s : State} {t p : Nat} (hp : s.partOf t = some p) : s.tscale t = (s.part p).scale := by
  simp [State.tscale, hp]

theorem stnSend_of_plan {s : State} {t p : Nat} {pl : Plan} (hp : s.partOf t = some p) (hpl : (s.part p).plan = some pl)
    (w0 w1 : Word) (i epoch : Nat) :
    s.stnSend t w0 w1 i epoch = { s with fab := { s.fab with onDie := s.fab.onDie ++ [sentSlot s t p pl w0 w1 i epoch] } } := by
  unfold State.stnSend
  rw [hp, planOf_of_part hp hpl]
  rfl

/-- An STN of one slot issues with nothing to do later: its slot is on the die (Table 5.1: 1 b, scaled under the detector). -/
theorem stn_issued {s : State} {t p : Nat} {e : QEntry} {pl : Plan} (hp : s.partOf t = some p) (hpl : (s.part p).plan = some pl)
    (h : Issues s t .st 3 e) (hn : stnN e.w0 = 1) :
    ∃ u, exec (.stn t) s = .next u ∧
      Issued { s with fab := { s.fab with onDie := s.fab.onDie ++ [sentSlot s t p pl e.w0 e.w1 0 (s.epochOf t (stnEpoch e.w1) e.par)] } }
        u t .st e (s.tscale t) (s.tscale t) 0 [] := by
  obtain ⟨hi, hop, hs⟩ := h
  have hocc : s.occ t .st e.w0 e.w1 = 1 := by simp [State.occ, hop, hn]
  have hlat : s.lat t .st e.w0 e.w1 e.aux = 1 := by simp [State.lat, hop, hocc]
  have hpub : s.latPub t .st e.w0 e.w1 e.aux = 0 := by simp [State.latPub, hop]
  refine ⟨_, rfl, issued_of_go hi hop ?_ (by simp [hlat, hpub]) (by simp [hocc])⟩
  rw [← stnSend_of_plan hp hpl]
  simp [hs, hn]

/-- A departure staged by an STD (R159, R264): what `execStd` appends to the departure buffer (`std_issued`). -/
def stagedDep (s : State) (t p : Nat) (e : QEntry) (d : Dep) : Staged :=
  let k := (s.tile t).tim.course - 1
  { dep := stdDep e.w0, part := p, tile := t, course := k,
    due := ((s.part p).startOf k).getD s.now + (s.part p).scale * d.toff, void := e.skip || (s.part p).sh.silent,
    pkt := { hdr := (depHdr s.me p d (s.epochOf t d.epoch e.par)).enc,
             data := flitsOf ((s.tile t).opndRd (256 * stdSrc e.w1) (256 * d.ns)), ready := 0, ing := none },
    rdy := s.now + Config.sMax t d.port }

theorem std_issued {s : State} {t p : Nat} {e : QEntry} {pl : Plan} {d : Dep} (hp : s.partOf t = some p) (hpl : (s.part p).plan = some pl)
    (h : Issues s t .st 4 e) (hd : pl.deps[stdDep e.w0]? = some d)
    (hlen : ((s.port d.port).tx.dbuf.filter fun x => !x.void).length < 64)
    (hne : ∀ x ∈ (s.port d.port).tx.dbuf.filter fun x => !x.void, ¬ (x.dep = stdDep e.w0 ∧ x.part = p)) :
    ∃ u, exec (.std t) s = .next u ∧
      Issued (s.modPort d.port fun y => { y with tx := { y.tx with dbuf := y.tx.dbuf ++ [stagedDep s t p e d] } })
        u t .st e (ceilDiv (5 * Config.sMax t d.port) 4) (s.tscale t * ceilDiv d.ns 2) 0 [] := by
  obtain ⟨hi, hop, hs⟩ := h
  have hdep : s.depOf t (stdDep e.w0) = some d := (depOf_of_plan hp hpl _).trans hd
  have hocc : s.occ t .st e.w0 e.w1 = ceilDiv d.ns 2 := by simp [State.occ, State.stdNs, hop, hdep]
  have hlat : s.lat t .st e.w0 e.w1 e.aux = ceilDiv (5 * Config.sMax t d.port) 4 := by simp [State.lat, State.stdPort, hop, hdep]
  have hpub : s.latPub t .st e.w0 e.w1 e.aux = ceilDiv (5 * Config.sMax t d.port) 4 := by simp [State.latPub, State.stdPort, hop, hdep]
  have hany : ((s.port d.port).tx.dbuf.filter fun x => !x.void).any (fun x => decide (x.dep = stdDep e.w0 ∧ x.part = p)) = false := by
    rw [List.any_eq_false]
    intro x hx
    simpa using hne x hx
  have hlen' : ¬ 64 ≤ ((s.port d.port).tx.dbuf.filter fun x => !x.void).length := by omega
  refine ⟨_, rfl, issued_of_go hi hop ?_ (by simp [hlat, hpub]) (by rw [hocc])⟩
  simp only [hp, hdep, hany, hlen', hs, stagedDep]
  simp

/-- Settles O14: STN through `stn_issued`, STD through `std_issued`. -/
theorem planSends : Obligations.PlanSends := by
  intro s t p e pl hp hpl v k
  constructor
  · intro h hn
    obtain ⟨u, hu, hi⟩ := stn_issued hp hpl h hn
    exact ⟨u, _, hu, rfl, rfl, rfl, rfl, rfl, rfl, hi⟩
  · intro d h hd hsil held lat hlen hne
    obtain ⟨u, hu, hi⟩ := std_issued hp hpl h hd hlen hne
    refine ⟨u, stagedDep s t p e d, hu, rfl, rfl, rfl, ?_, rfl, rfl, fun b hb => ?_, hi⟩
    · simp [stagedDep, h.2.2, hsil]
    · have hb' : (s.part p).startOf ((s.tile t).tim.course - 1) = some b := hb
      simp [stagedDep, hb']

end Sys2Proof
end

section
namespace Sys2Proof

open Machine

/-! ### The reserve of a tile (R41, R43, R46) -/

/-- What decides whether a tile is inside a course, and in which, agrees. -/
structure SameCourses (s u : State) (t : Nat) : Prop where
  owner : u.owner 0 t = s.owner 0 t
  live : ∀ p, (u.part p).live = (s.part p).live
  courseAt : ∀ p k, (u.part p).courseAt k = (s.part p).courseAt k
  course : (u.tile t).tim.course = (s.tile t).tim.course
  beat : (u.tile t).tim.beat = (s.tile t).tim.beat

theorem inCourse_congr {s u : State} {t : Nat} (h : SameCourses s u t) : u.inCourse t = s.inCourse t := by
  unfold State.inCourse State.partOf
  rw [h.owner]
  simp only [h.live, h.courseAt, h.course, h.beat]

theorem courseOf_congr {s u : State} {t : Nat} (h : SameCourses s u t) : u.courseOf t = s.courseOf t := by
  unfold State.courseOf State.partOf
  rw [h.owner]
  simp only [h.courseAt, h.course]

theorem SameCourses.of_tim {s u : State} {t : Nat} (ho : u.owner 0 t = s.owner 0 t) (hl : ∀ p, (u.part p).live = (s.part p).live)
    (hc : ∀ p k, (u.part p).courseAt k = (s.part p).courseAt k) (ht : (u.tile t).tim = (s.tile t).tim) : SameCourses s u t :=
  ⟨ho, hl, hc, by rw [ht], by rw [ht]⟩

/-- An update that keeps a tile's time keeps its place in its course. -/
theorem sameCourses_modTile {s : State} {t j : Nat} {f : Tile → Tile} (h : (f (s.tile t)).tim = (s.tile t).tim) :
    SameCourses s (s.modTile t f) j := by
  refine .of_tim rfl (fun _ => rfl) (fun _ _ => rfl) ?_
  by_cases hj : j = t
  · rw [hj, State.tile_modTile_self, h]
  · rw [State.tile_modTile_ne s f hj]

theorem courseOf_of_inCourse {s : State} {t : Nat} (h : s.inCourse t = true) : ∃ c, s.courseOf t = some c := by
  unfold State.inCourse at h
  split at h
  · cases h
  · rename_i p hp
    simp only [Bool.and_eq_true, decide_eq_true_eq] at h
    obtain ⟨⟨-, h0⟩, hc⟩ := h
    split at hc
    · cases hc
    · rename_i c hk
      refine ⟨c, ?_⟩
      simp only [State.courseOf, hp, Option.bind_some]
      rw [if_neg (by omega), hk]

/-- The count of a charge (R46). -/
def chargeCount (k : Charge) (e8 : Nat) (v : Tile) : Tile :=
  match k with
  | .ilk => v.count .slipIlk 1
  | .ramp => v.count .slipRamp 1
  | .stretch => v.count .stretchE8 e8
  | .stepdn => v.count .stepdnE8 e8

/-- A charge in a tile's time: S and the part of its kind (R41). -/
def chargeTime (k : Charge) (e8 : Nat) (m : TileTime) : TileTime :=
  match k with
  | .ilk => { m with s := m.s + e8, sIlk := m.sIlk + e8 }
  | .ramp => { m with s := m.s + e8, sRamp := m.sRamp + e8 }
  | .stretch => { m with s := m.s + e8, sStr := m.sStr + e8 }
  | .stepdn => { m with s := m.s + e8, sStep := m.sStep + e8 }

@[simp] theorem chargeCount_tim (k : Charge) (e8 : Nat) (v : Tile) : (chargeCount k e8 v).tim = v.tim := by cases k <;> rfl
theorem chargeCount_eq (k : Charge) (e8 : Nat) (v : Tile) : chargeCount k e8 v = { v with ctr := (chargeCount k e8 v).ctr } := by
  cases k <;> rfl
@[simp] theorem chargeTime_s (k : Charge) (e8 : Nat) (m : TileTime) : (chargeTime k e8 m).s = m.s + e8 := by cases k <;> rfl

/-- Outside a course nothing is charged. -/
theorem charge_outside {s : State} {t : Nat} {k : Charge} {e8 : Nat} (h : s.inCourse t = false) : s.charge t k e8 = s := by
  unfold State.charge
  rw [h]
  rfl

/-- A charge within the reserve is counted and made, and raises nothing (R41, R43). -/
theorem charge_within {s : State} {t : Nat} {k : Charge} {e8 : Nat} {c : Course} (h : s.inCourse t = true) (hc : s.courseOf t = some c)
    (hle : (s.tile t).tim.s + e8 ≤ 8 * c.rsv) :
    s.charge t k e8 = (s.modTile t (chargeCount k e8)).modTile t fun v => { v with tim := chargeTime k e8 v.tim } := by
  have key : ∀ w : State, w.courseOf t = some c → (w.tile t).tim = (s.tile t).tim →
      w.chargeS t k e8 = w.modTile t fun v => { v with tim := chargeTime k e8 v.tim } := by
    intro w hw ht
    unfold State.chargeS
    rw [hw, ht]
    have hno : ¬ ((s.tile t).tim.s ≤ 8 * c.rsv ∧ 8 * c.rsv < (s.tile t).tim.s + e8) := by omega
    simp only [Option.map_some, Option.getD_some, hno, if_false]
    unfold State.modTile
    cases k <;> simp only [chargeTime, ht]
  have hcc : (s.modTile t (chargeCount k e8)).courseOf t = some c :=
    (courseOf_congr (sameCourses_modTile (chargeCount_tim k e8 _))).trans hc
  have htt : ((s.modTile t (chargeCount k e8)).tile t).tim = (s.tile t).tim := by simp
  rw [← key _ hcc htt]
  unfold State.charge
  rw [h]
  cases k <;> rfl

/-! ### A beat of the engine (R130, R135) -/

/-- A beat of the engine of tile `t` changes its engine, the tile's counters and metered tokens (R66), and nothing else. -/
structure EngineOnly (s u : State) (t : Nat) : Prop where
  tile : ∃ m c, u.tile t = { s.tile t with mx := m, ctr := c }
  other : ∀ j, j ≠ t → u.tile j = s.tile j
  part : ∀ p, ∃ b k, u.part p = { s.part p with run := { (s.part p).run with beatTok := b, tok := k } }
  rest : u = { s with tiles := u.tiles, parts := u.parts }

theorem EngineOnly.refl (s : State) (t : Nat) : EngineOnly s s t := ⟨⟨_, _, rfl⟩, fun _ _ => rfl, fun _ => ⟨_, _, rfl⟩, rfl⟩

theorem EngineOnly.trans {s u w : State} {t : Nat} (h : EngineOnly s u t) (k : EngineOnly u w t) : EngineOnly s w t := by
  refine ⟨?_, fun j hj => (k.other j hj).trans (h.other j hj), fun p => ?_, ?_⟩
  · obtain ⟨_, _, h1⟩ := h.tile
    obtain ⟨_, _, h2⟩ := k.tile
    exact ⟨_, _, by rw [h2, h1]⟩
  · obtain ⟨_, _, h1⟩ := h.part p
    obtain ⟨_, _, h2⟩ := k.part p
    exact ⟨_, _, by rw [h2, h1]⟩
  · rw [k.rest, h.rest]

/-- Only the engine and the counters of the tile are rewritten. -/
theorem engineOnly_modTile {s : State} {t : Nat} {f : Tile → Tile} (h : ∃ m c, f (s.tile t) = { s.tile t with mx := m, ctr := c }) :
    EngineOnly s (s.modTile t f) t := by
  refine ⟨?_, fun _ hj => State.tile_modTile_ne _ _ hj, fun _ => ⟨_, _, rfl⟩, rfl⟩
  rw [State.tile_modTile_self]
  exact h

theorem mxTokens_engineOnly (s : State) (t b : Nat) (plan : Bool) : EngineOnly s (s.mxTokens t b plan) t := by
  unfold State.mxTokens
  split
  · exact .refl ..
  · rename_i q _
    refine ⟨⟨_, _, rfl⟩, fun _ _ => rfl, fun p => ?_, rfl⟩
    by_cases h : p = q
    · rw [h, State.part_modPart_self]; exact ⟨_, _, rfl⟩
    · rw [State.part_modPart_ne _ _ h]; exact ⟨_, _, rfl⟩

theorem mxBeat_engineOnly (s : State) (t b : Nat) (ramp issues plan : Bool) : EngineOnly s (s.mxBeat t b ramp issues plan) t := by
  unfold State.mxBeat
  split
  · exact (engineOnly_modTile ⟨_, _, rfl⟩).trans (mxTokens_engineOnly ..)
  · split
    · exact .refl ..
    · exact engineOnly_modTile ⟨_, _, rfl⟩

theorem EngineOnly.rdByte {s u : State} {t : Nat} (h : EngineOnly s u t) (x : Nat) : u.rdByte x = s.rdByte x := by
  rw [h.rest]
  exact rdByte_congr rfl rfl x

theorem EngineOnly.sameCourses {s u : State} {t : Nat} (h : EngineOnly s u t) : SameCourses s u t := by
  refine .of_tim ?_ (fun p => ?_) (fun p k => ?_) ?_
  · rw [h.rest]; rfl
  · obtain ⟨_, _, hp⟩ := h.part p
    rw [hp]; rfl
  · obtain ⟨_, _, hp⟩ := h.part p
    rw [hp]; rfl
  · obtain ⟨_, _, ht⟩ := h.tile
    rw [ht]

/-! ### The stalled beat (R41, R105, R106) -/

/-- A clock beat of a tile has begun: landings of earlier beats are readable and operations in progress have gone on. -/
def beatBegun (s : State) (t : Nat) : State :=
  ((s.modTile t fun x => { x.xbStart with tim := { x.tim with cb := (s.tile t).tim.cb + 1, plan := false, maint := false } }).landUpTo t
    (s.tile t).tim.cb).goOnAll t (s.tile t).tim.cb

/-- The beat of a tile, from the state in which it has begun. -/
theorem tileBeat_eq (s : State) (t : Nat) : s.tileBeat t =
    let b := (s.tile t).tim.cb
    let s1 := beatBegun s t
    let inC := s1.inCourse t
    let s2 := if inC && ((s1.tile t).wait.any fun w => w.sat) then s1.modTile t Tile.waitDone else s1
    if !inC && !s1.draining t then s2.mxBeat t b false false false
    else if 1 < (s2.tile t).mx.ramp then s2.rampBeat t b
    else if s.tscale t = 4 ∧ b % 4 ≠ 0 then s2.mxBeat t b false false false
    else (s2.workBeat t b inC (s.tile t).dueNow.isSome).endCourse t := rfl

/-- A tile in a course, with no wait satisfied, no ramp and the unscaled plan, works in its next beat. -/
theorem tileBeat_works {s : State} {t : Nat} (hin : (beatBegun s t).inCourse t = true) (hw : ((beatBegun s t).tile t).wait = none)
    (hr : ((beatBegun s t).tile t).mx.ramp = 0) (hk : s.tscale t = 1) :
    s.tileBeat t = ((beatBegun s t).workBeat t (s.tile t).tim.cb true (s.tile t).dueNow.isSome).endCourse t := by
  rw [tileBeat_eq]
  simp [hin, hw, hr, hk]

/-- Lines missing at the decode are noted, the first time counted (R104). -/
def noteMiss (miss : List Nat) (x : Tile) : Tile :=
  if miss.isEmpty then x
  else (if x.fe.miss.isEmpty then x.count .icmiss 1 else x) |> fun y => { y with fe := { y.fe with miss := miss } }

theorem noteMiss_eq (miss : List Nat) (x : Tile) :
    noteMiss miss x = { x with ctr := (noteMiss miss x).ctr, fe := { x.fe with miss := (noteMiss miss x).fe.miss } } := by
  unfold noteMiss
  split
  · rfl
  · split <;> rfl

/-- An interlock that holds a head makes the beat a stall. -/
theorem workBeat_stalls {s : State} {t b : Nat} (hm : s.inMaint t = false) (hs : s.headStall t b = true) :
    ∃ miss, s.workBeat t b true false = ((s.mxBeat t b false false false).modTile t (noteMiss miss)).stallBeat t := by
  unfold State.workBeat
  simp only [hm, hs]
  exact ⟨_, rfl⟩

/-- The end of a course touches the tile's counters alone (R46). -/
theorem endCourse_tile (s : State) (t : Nat) : ∃ c, (s.endCourse t).tile t = { s.tile t with ctr := c } := by
  unfold State.endCourse
  simp only
  split
  · exact ⟨_, rfl⟩
  · split
    · exact ⟨_, rfl⟩
    · exact ⟨_, State.tile_modTile_self ..⟩

/-- A stalled beat within the reserve leaves its charge in the tile's time, and of the rest of the tile touches only counters, the engine
and the note of missing lines. -/
theorem stalled_tile {s : State} {t b : Nat} {c : Course} (hin : s.inCourse t = true) (hm : s.inMaint t = false)
    (hs : s.headStall t b = true) (hc : s.courseOf t = some c) (hle : (s.tile t).tim.s + 8 ≤ 8 * c.rsv) :
    ∃ m n l, ((s.workBeat t b true false).endCourse t).tile t =
      { s.tile t with mx := m, ctr := n, fe := { (s.tile t).fe with miss := l }, tim := chargeTime .ilk 8 (s.tile t).tim } := by
  obtain ⟨miss, hw⟩ := workBeat_stalls hm hs
  have he := mxBeat_engineOnly s t b false false false
  obtain ⟨m, n, ht⟩ := he.tile
  have hn : ((s.mxBeat t b false false false).modTile t (noteMiss miss)).tile t = noteMiss miss { s.tile t with mx := m, ctr := n } := by
    rw [State.tile_modTile_self, ht]
  have htim : (((s.mxBeat t b false false false).modTile t (noteMiss miss)).tile t).tim = (s.tile t).tim := by
    rw [hn, noteMiss_eq]
  have hsame : SameCourses (s.mxBeat t b false false false) ((s.mxBeat t b false false false).modTile t (noteMiss miss)) t :=
    sameCourses_modTile (by rw [noteMiss_eq])
  obtain ⟨n', hend⟩ := endCourse_tile (s.workBeat t b true false) t
  rw [hend, hw, State.stallBeat,
    charge_within ((inCourse_congr hsame).trans ((inCourse_congr he.sameCourses).trans hin))
      ((courseOf_congr hsame).trans ((courseOf_congr he.sameCourses).trans hc)) (by rw [htim]; exact hle),
    State.tile_modTile_self, State.tile_modTile_self, hn, chargeCount_eq, noteMiss_eq]
  exact ⟨_, _, _, rfl⟩

/-- Settles O25: the beat works (`tileBeat_works`), and its work is a stall within the reserve (`stalled_tile`). -/
theorem interlockStallCharged : Obligations.InterlockStallCharged := by
  intro s t p c v b s1 hok hp hhzd hin hm _ hdue hramp hstall hc hle hcb hwait
  have hk : s.tscale t = 1 := by rw [tscale_of_part hp]; simp [Part.scale, hhzd]
  have hs1 : s1 = beatBegun s t := rfl
  clear_value s1
  subst hs1
  have hlate : (s.tile t).dueNow.isSome = false := by rw [show (s.tile t).dueNow = none from hdue]; rfl
  obtain ⟨m, n, l, ht⟩ := stalled_tile (s := beatBegun s t) (b := (s.tile t).tim.cb) hin hm hstall hc hle
  have hx : exec (.shaleWordDecode t) s = .next (s.tileBeat t) := congrArg Host.Outcome.next (if_pos hok)
  rw [tileBeat_works hin hwait hramp hk, hlate] at hx
  refine ⟨_, hx, ?_⟩
  rw [ht]
  generalize (beatBegun s t).tile t = w at hcb ⊢
  exact ⟨hcb, rfl, rfl, rfl, rfl, rfl, rfl, fun _ => rfl⟩

end Sys2Proof
end

section
namespace Sys2Proof

open Machine

/-! ### The clock of a Room (R224 to R229) -/

theorem raiseTile_kept (s : State) (t : Nat) (f : FInfo) : Kept s (s.raiseTile t f) := by
  unfold State.raiseTile
  split
  · exact raise_kept ..
  · exact .refl s

theorem chargeS_kept (s : State) (t : Nat) (k : Charge) (e8 : Nat) : Kept s (s.chargeS t k e8) := by
  unfold State.chargeS
  simp only
  split
  · exact (modTile_kept ..).trans (raiseTile_kept ..)
  · exact modTile_kept ..

theorem charge_kept (s : State) (t : Nat) (k : Charge) (e8 : Nat) : Kept s (s.charge t k e8) := by
  unfold State.charge
  simp only
  split
  · refine Kept.trans ?_ (chargeS_kept ..)
    cases k <;> exact modTile_kept ..
  · exact .refl s

theorem room_congr {s u : State} (h : u.rooms = s.rooms) (k : Nat) : u.room k = s.room k := by
  unfold State.room
  rw [h]

theorem Kept.room {s u : State} (h : Kept s u) (k : Nat) : u.room k = s.room k := by
  obtain ⟨-, -, -, -, -, -, hr, -⟩ := h
  exact room_congr hr k

/-- What a stretch does to the Room: its next beat takes the larger of what applies to it (R229). -/
def stretchRoom (add e8 : Nat) (x : Room) : Room := { x with nxtAdd := max x.nxtAdd add, nxtEv := x.nxtEv + e8 }

/-- A stretch charges tiles, and of the Rooms it changes its own alone. -/
theorem stretch_room (s : State) (r add e8 k : Nat) :
    (s.stretch r add e8).room k = if k = r then stretchRoom add e8 (s.room r) else s.room k := by
  have hk : Kept (s.modRoom r (stretchRoom add e8)) (s.stretch r add e8) := foldl_kept _ (fun _ _ => charge_kept ..) _ _
  rw [hk.room]
  split
  · rename_i h; rw [h, State.room_modRoom_self]
  · rename_i h; exact State.room_modRoom_ne _ _ h

/-- Every Room of a list but one is told something. -/
theorem foldl_tell_room (f : Room → Room) (r k : Nat) {l : List Nat} (hl : l.Nodup) : ∀ s : State,
    (l.foldl (fun u j => if j = r then u else u.modRoom j f) s).room k = if k ∈ l ∧ k ≠ r then f (s.room k) else s.room k := by
  induction l with
  | nil => intro s; simp
  | cons j l ih =>
    intro s
    obtain ⟨hj, hl⟩ := List.nodup_cons.mp hl
    rw [List.foldl_cons, ih hl]
    by_cases hk : k = j
    · subst hk
      by_cases hr : k = r <;> simp [hr, hj]
    · have hs : (if j = r then s else s.modRoom j f).room k = s.room k := by
        split
        · rfl
        · exact State.room_modRoom_ne _ _ hk
      simp [hs, hk]

/-- Telling Rooms changes nothing but Rooms. -/
theorem foldl_tell_frame (f : Room → Room) (r : Nat) (l : List Nat) : ∀ s : State,
    ∃ m, l.foldl (fun u j => if j = r then u else u.modRoom j f) s = { s with rooms := m } := by
  induction l with
  | nil => intro s; exact ⟨_, rfl⟩
  | cons j l ih =>
    intro s
    obtain ⟨m, hm⟩ := ih (if j = r then s else s.modRoom j f)
    refine ⟨m, ?_⟩
    rw [List.foldl_cons, hm]
    split <;> rfl

theorem announce_room (s : State) (r add : Nat) {k : Nat} (hk : k < 16) : (s.announce r add).room k =
    if k = r then s.room r else { s.room k with echoes := (s.room k).echoes ++ [((s.room r).sbn - 1 + 5, add, r)] } := by
  unfold State.announce
  rw [foldl_tell_room _ _ _ List.nodup_range]
  by_cases h : k = r <;> simp [h, hk]

theorem announce_frame (s : State) (r add : Nat) : ∃ m, s.announce r add = { s with rooms := m } := foldl_tell_frame ..

/-- A droop answered by a stretch of the Room's own: recorded and counted (R225). -/
def answerDroop (level : Nat) (y : Room) : Room :=
  ({ y with own := y.own.filter (fun o => decide (y.clk < o.1 + 5)) ++ [(y.clk, if level = 1 then 2 else 4)] } : Room).count
    (if level = 1 then .str25 else .str50) 1

theorem answerDroop_counts (level : Nat) (y : Room) :
    SMap.get 0 (answerDroop level y).ctr (if level = 1 then RoomCtr.str25 else RoomCtr.str50).idx =
      min (2 ^ 48 - 1) (SMap.get 0 y.ctr (if level = 1 then RoomCtr.str25 else RoomCtr.str50).idx + 1) := by
  have hw : (if level = 1 then RoomCtr.str25 else RoomCtr.str50).width = 48 := by split <;> rfl
  unfold answerDroop Room.count bump
  rw [SMap.get_put_self, hw]
  rfl

/-- The Room raises its alarm in the beat in progress (R227). -/
def raiseAlarm (y : Room) : Room := ({ y with arm := true, almAt := y.clk } : Room).count .alarm 1

/-- One more alarm is on its way to the Room. -/
def hearAlarm (y : Room) : Room := { y with alarm := y.alarm + 1 }

section
variable {s : State} {r level : Nat} (hr : r < 16) (hclk : (s.room r).clk ≠ 0) (hlev : level = 1 ∨ level = 2)
  (halm : (s.room r).almAt ≠ (s.room r).clk) (hans : (s.room r).answered = none)
include hr hclk hlev halm hans

/-- With fewer than two own stretches in flight a droop is answered and announced (R225, R226). -/
theorem droop_answers (hfl : (s.room r).inFlight < 2) : exec (.droopDetect r level) s =
    .next (((s.modRoom r (answerDroop level)).stretch r (if level = 1 then 2 else 4) (if level = 1 then 2 else 4)).announce r
      (if level = 1 then 2 else 4)) := by
  have h1 : ¬ 16 ≤ r := by omega
  have h2 : ¬ 2 ≤ (s.room r).inFlight := by omega
  show Host.Outcome.next _ = _
  rcases hlev with rfl | rfl <;> simp [hclk, h1, halm, hans, h2] <;> rfl

/-- With two in flight the alarm is raised and told to every other Room (R227). -/
theorem droop_alarms (hfl : 2 ≤ (s.room r).inFlight) : exec (.droopDetect r level) s =
    .next ((List.range 16).foldl (fun u k => if k = r then u else u.modRoom k hearAlarm)
      ((s.modRoom r raiseAlarm).stretch r 4 4)) := by
  have h1 : ¬ 16 ≤ r := by omega
  show Host.Outcome.next _ = _
  rcases hlev with rfl | rfl <;> simp [hclk, h1, halm, hans, hfl] <;> rfl

end

/-- The first echo that is due is applied, and only it. -/
theorem stretchEcho_head {s : State} {r : Nat} {e : Nat × Nat × Nat} {l : List (Nat × Nat × Nat)} (hx : (s.room r).echoes = e :: l)
    (he : e.1 ≤ (s.room r).sbn) (hs : s.restartsNext r = false) : exec (.stretchEcho r) s =
    .next ((s.modRoom r fun y => ({ y with echoes := y.echoes.erase e } : Room).count .echo 1).stretch r e.2.1 e.2.1) := by
  show Host.Outcome.next _ = _
  simp [hx, he, hs]

/-- A list of tiles, each within its reserve, is charged: those inside a course, and no others (R41, R229). -/
theorem foldl_charge_within {k : Charge} {e8 : Nat} {l : List Nat} (hl : l.Nodup) : ∀ s : State,
    (∀ t ∈ l, ∀ c, s.courseOf t = some c → (s.tile t).tim.s + e8 ≤ 8 * c.rsv) →
    let u := l.foldl (fun u t => u.charge t k e8) s
    (∀ t ∈ l, (u.tile t).tim.s = if s.inCourse t then (s.tile t).tim.s + e8 else (s.tile t).tim.s) ∧
      (∀ t, t ∉ l → u.tile t = s.tile t) ∧ u.parts = s.parts := by
  induction l with
  | nil => intro s _; exact ⟨fun _ h => absurd h (by simp), fun _ _ => rfl, rfl⟩
  | cons j l ih =>
    intro s hc
    obtain ⟨hj, hl⟩ := List.nodup_cons.mp hl
    obtain ⟨hself, hne, hparts, hhrt⟩ : ((s.charge j k e8).tile j).tim.s = (if s.inCourse j then (s.tile j).tim.s + e8 else (s.tile j).tim.s) ∧
        (∀ t, t ≠ j → (s.charge j k e8).tile t = s.tile t) ∧ (s.charge j k e8).parts = s.parts ∧ (s.charge j k e8).hrt = s.hrt := by
      by_cases hin : s.inCourse j = true
      · obtain ⟨c, hcj⟩ := courseOf_of_inCourse hin
        rw [charge_within hin hcj (hc j (by simp) c hcj)]
        refine ⟨by simp [hin], fun t ht => ?_, rfl, rfl⟩
        rw [State.tile_modTile_ne _ _ ht, State.tile_modTile_ne _ _ ht]
      · rw [charge_outside (by simpa using hin)]
        exact ⟨by simp [hin], fun _ _ => rfl, rfl, rfl⟩
    have hsame : ∀ t, t ≠ j → SameCourses s (s.charge j k e8) t := by
      intro t ht
      have hpart : ∀ p, (s.charge j k e8).part p = s.part p := fun p => by unfold State.part; rw [hparts]
      refine .of_tim ?_ (fun p => by rw [hpart]) (fun p i => by rw [hpart]) (by rw [hne t ht])
      unfold State.owner State.bindEntry
      rw [hhrt]
    have hmem : ∀ t ∈ l, t ≠ j := fun t ht h => hj (h ▸ ht)
    obtain ⟨i1, i2, i3⟩ := ih hl (s.charge j k e8) (fun t ht c hct => by
      rw [courseOf_congr (hsame t (hmem t ht))] at hct
      rw [hne t (hmem t ht)]
      exact hc t (List.mem_cons_of_mem _ ht) c hct)
    refine ⟨fun t ht => ?_, fun t ht => ?_, i3.trans hparts⟩
    · rcases List.mem_cons.mp ht with rfl | ht
      · exact (congrArg (fun v : Tile => v.tim.s) (i2 t hj)).trans hself
      · rw [List.foldl_cons, i1 t ht, inCourse_congr (hsame t (hmem t ht)), hne t (hmem t ht)]
    · rw [List.mem_cons, not_or] at ht
      exact (i2 t ht.2).trans (hne t ht.1)

/-- Settles O30: each event as a stretch with what its Room and the others are told; the charges by `foldl_charge_within`. -/
theorem roomClockEvents : Obligations.RoomClockEvents := by
  intro s r hr hclk x n
  refine ⟨?_, ?_, ?_, ?_, ?_, ?_, ?_, ?_⟩
  · intro level hlev halm hans hfl add c
    refine ⟨_, droop_answers hr hclk hlev halm hans hfl, ?_⟩
    have hroom := fun k => stretch_room (s.modRoom r (answerDroop level)) r add add k
    simp only [State.room_modRoom_self] at hroom
    have hself : ((((s.modRoom r (answerDroop level)).stretch r add add).announce r add).room r) = stretchRoom add add (answerDroop level x) := by
      rw [announce_room _ _ _ hr, if_pos rfl, hroom, if_pos rfl]
    rw [hself]
    refine ⟨rfl, ?_, answerDroop_counts level x, rfl, fun k hk hkr => ?_⟩
    · exact List.mem_append_right _ (List.mem_singleton_self _)
    · rw [announce_room _ _ _ hk, if_neg hkr, hroom, hroom, if_neg hkr, if_pos rfl, State.room_modRoom_ne _ _ hkr]
      exact ⟨rfl, rfl⟩
  · intro level hlev halm hans hfl
    refine ⟨_, droop_alarms hr hclk hlev halm hans hfl, ?_⟩
    have hroom := fun k => stretch_room (s.modRoom r raiseAlarm) r 4 4 k
    simp only [foldl_tell_room _ _ _ List.nodup_range, hroom]
    refine ⟨by simp [stretchRoom, raiseAlarm, Room.count, x], by simp [stretchRoom, raiseAlarm, Room.count], fun k hk hkr => ?_⟩
    simp [hk, hkr, hearAlarm, State.room_modRoom_ne]
  · intro hre
    show Host.Outcome.next _ = _
    simp [hre]
  · intro e l he hle hre
    refine ⟨_, stretchEcho_head he hle hre, ?_⟩
    rw [stretch_room, if_pos rfl, State.room_modRoom_self]
    refine ⟨rfl, ?_⟩
    show (s.room r).echoes.erase e = l
    rw [show (s.room r).echoes = e :: l from he, List.erase_cons_head]
  · intro hal
    refine ⟨_, show Host.Outcome.next _ = _ from congrArg _ (if_pos hal), ?_⟩
    simp only [stretch_room, if_true, State.room_modRoom_self]
    exact ⟨rfl, rfl, rfl, fun k hk => by rw [if_neg hk, State.room_modRoom_ne _ _ hk]⟩
  · intro h1 h2 h3 h4
    refine congrArg Host.Outcome.next (if_pos ?_)
    simp only [x] at h1 h2 h3 h4
    simp [h1, h2, h3, h4]
  · intro h1 h2
    refine congrArg Host.Outcome.next (if_neg ?_)
    have h3 : ¬ s.begTicks r < 0 := by omega
    have h4 : decide ((s.room r).sbnAt = sbnEpoch (s.begTicks r)) = false := decide_eq_false h2
    simp [hclk, h3, h4]
  · intro level hlev halm hans hfl e8 hres
    have hnd : (s.tilesIn r).Nodup := List.nodup_range.filter _
    obtain ⟨h1, h2, h3⟩ := foldl_charge_within (k := .stretch) hnd (s.modRoom r (answerDroop level) |>.modRoom r (stretchRoom e8 e8)) hres
    obtain ⟨m, hm⟩ := announce_frame ((s.modRoom r (answerDroop level)).stretch r e8 e8) r e8
    refine ⟨_, droop_answers hr hclk hlev halm hans hfl, ?_⟩
    rw [hm]
    exact ⟨h1, h2, h3⟩

end Sys2Proof
end

section
namespace Sys2Proof

open Machine

/-! ### Courses of a plan without step shapes (R38, R42 to R45) -/

/-- A plan without step shapes has no steps to advance. -/
theorem stepAdvance_plain {s : State} {p : Nat} {pl : Plan} (hpl : (s.part p).plan = some pl) (hserv : pl.serv = none) :
    s.stepAdvance p = s := by
  unfold State.stepAdvance
  dsimp only
  split
  · rename_i pl' b h he _ _
    have : pl' = pl := Option.some.inj (he.symm.trans hpl)
    simp [this, hserv]
  · rfl

/-- Before the pinned start of its next course a partition is left as it is (R38). -/
theorem pinnedStart_early {s : State} {p : Nat} {pl : Plan} (hpl : (s.part p).plan = some pl) (hserv : pl.serv = none)
    (h : ∀ x, (s.part p).startOf (s.part p).run.course = some x → s.now < x) : s.pinnedStart p = s := by
  unfold State.pinnedStart
  simp only [stepAdvance_plain hpl hserv]
  split
  · rfl
  · rename_i x hx
    simp [h x hx]

/-- The partition is in its first course. -/
def inFirst (v : Part) : Part := { v with run := { v.run with course := 0 + 1 } }

/-- Course 0 begins at its pinned start, with no course to close (R38). -/
theorem pinnedStart_first {s : State} {p b : Nat} {pl : Plan} (hpl : (s.part p).plan = some pl) (hserv : pl.serv = none)
    (hlive : (s.part p).live = true) (h0 : (s.part p).run.course = 0) (hb : (s.part p).startOf 0 = some b) (hnow : b ≤ s.now)
    (hpause : (s.part p).run.pause = none) : s.pinnedStart p = s.modPart p inFirst := by
  have hnow' : ¬ s.now < b := by omega
  have hplan : ((s.modPart p inFirst).part p).plan = some pl := by rw [State.part_modPart_self]; exact hpl
  have hw : (s.modPart p inFirst).weightCheck p 0 = s.modPart p inFirst := by
    unfold State.weightCheck
    simp only [hplan]
    simp [hserv]
  unfold State.pinnedStart
  simp only [stepAdvance_plain hpl hserv, h0, hb, hlive, hnow', hpause]
  exact hw

/-- A tile at plan beat 0 of course `k`, with the code locks that ended (R42, R102). -/
def startTile (k : Nat) (v : Tile) : Tile := { (if k = 0 then v else v.icUnlock (k - 1)) with tim := v.tim.start k }

theorem startTile_sreg (k : Nat) (v : Tile) : (startTile k v).sreg = v.sreg := by unfold startTile; split <;> rfl
theorem startTile_q (k : Nat) (v : Tile) : (startTile k v).q = v.q := by unfold startTile; split <;> rfl

/-- Where no step-down and no event falls on plan beat 0, a course begins with no charge (R41, R42). -/
theorem beginCourse_uncharged {s : State} {t p k b : Nat} (hs : s.startStepped t b = false) (he : (s.room (s.roomOf t)).curEv = 0) :
    s.beginCourse t p k b = (s.modTile t (startTile k)).modRoom (s.roomOf t) fun x => x.number p k := by
  unfold State.beginCourse
  simp only [hs, he]
  rfl

/-- A state in which a tile begins its next course `k`: what COURSE_START asks for (R42 to R44). -/
structure Begins (s : State) (t p k b : Nat) : Prop where
  course : (s.tile t).tim.course = k
  due : s.startDue t = true
  ready : s.beatReady t = true
  begun : k < (s.part p).run.course
  done : s.notDone t = false
  wait : (s.tile t).wait = none
  live : (s.part p).live = true
  start : (s.part p).startOf k = some b
  step : s.startStepped t b = false
  event : (s.room (s.roomOf t)).curEv = 0

/-- COURSE_START after what the pinned start left. -/
theorem courseStart_begins {s u : State} {t p k b : Nat} (hp : s.partOf t = some p) (hdue : s.startDue t = true)
    (hpin : s.pinnedStart p = u) (h : Begins u t p k b) :
    exec (.courseStart t) s = .next ((u.modTile t (startTile k)).modRoom (u.roomOf t) fun x => x.number p k) := by
  obtain ⟨hk, hd, hr, hc, hn, hw, hl, hb, hst, hev⟩ := h
  have hwb : u.waitBoundary t p = u := by simp [State.waitBoundary, hw]
  have hc' : ¬ (u.part p).run.course ≤ k := by omega
  show Host.Outcome.next _ = _
  simp only [hp, hdue, if_true, hpin, hk, hd, hr, hc', hn, hwb, hl, hb, Option.getD_some, beginCourse_uncharged hst hev]
  rfl

theorem pollDue_no_wait {s : State} {t : Nat} (h : (s.tile t).wait = none) : s.pollDue t = false := by
  unfold State.pollDue
  simp [h]

/-- The first course of the partition changes nothing that its tiles ask for at their start. -/
theorem begins_inFirst {s : State} {t p b : Nat} (hp : s.partOf t = some p) (hk : (s.tile t).tim.course = 0) (hdue : s.startDue t = true)
    (hr : s.beatReady t = true) (hw : (s.tile t).wait = none) (hl : (s.part p).live = true)
    (hb : (s.part p).startOf 0 = some b) (hst : s.startStepped t b = false) (hev : (s.room (s.roomOf t)).curEv = 0) :
    Begins (s.modPart p inFirst) t p 0 b := by
  have hp' : (s.modPart p inFirst).partOf t = some p := hp
  refine ⟨hk, ?_, ?_, ?_, ?_, hw, ?_, ?_, hst, hev⟩
  · rw [← hdue]
    unfold State.startDue
    rw [hp, hp']
    simp only [State.part_modPart_self]
    rfl
  · rw [← hr]
    unfold State.beatReady
    rw [pollDue_no_wait hw, pollDue_no_wait (s := s.modPart p inFirst) hw]
    rfl
  · rw [State.part_modPart_self]; exact Nat.one_pos
  · unfold State.notDone State.courseOf
    rw [hp', State.tile_modPart, hk]
    rfl
  · rw [State.part_modPart_self]; exact hl
  · rw [State.part_modPart_self]; exact hb

/-! ### The completion of a plan (R45) -/

/-- Within its token budget a course closes with no fault: its tokens count from 0 again (R71). -/
theorem powerClose_within {s : State} {p k : Nat} {c : Course} (hc : (s.part p).courseAt k = some c) (ht : (s.part p).run.tok ≤ c.avg * c.len) :
    s.powerClose p k = s.modPart p fun x => { x with run := { x.run with tok := 0 } } := by
  have h : ¬ c.avg * c.len < (s.part p).run.tok := by omega
  unfold State.powerClose
  simp only [hc, h]
  rfl

/-- A partition that does not shadow clears the course digests of its tiles (R513). -/
theorem shadowClose_alone {s : State} {p k : Nat} (h : (s.part p).sh.role = 0) :
    s.shadowClose p k = (s.tilesOf p).foldl (fun u t => u.modTile t fun x => { x with digCourse := 0 }) s := by
  unfold State.shadowClose
  simp only [h]
  rfl

theorem foldl_modTile_frame (f : Tile → Tile) (l : List Nat) : ∀ s : State,
    ∃ m, l.foldl (fun u t => u.modTile t f) s = { s with tiles := m } := by
  induction l with
  | nil => intro s; exact ⟨_, rfl⟩
  | cons t l ih =>
    intro s
    obtain ⟨m, hm⟩ := ih (s.modTile t f)
    exact ⟨m, hm⟩

/-- A fold of one idempotent update over tiles updates each of them. -/
theorem foldl_modTile_tile {f : Tile → Tile} (hf : ∀ v, f (f v) = f v) (l : List Nat) (j : Nat) : ∀ s : State,
    (l.foldl (fun u t => u.modTile t f) s).tile j = if j ∈ l then f (s.tile j) else s.tile j := by
  induction l with
  | nil => intro s; simp
  | cons t l ih =>
    intro s
    rw [List.foldl_cons, ih]
    by_cases h : j = t
    · subst h
      simp [hf]
    · simp [h, State.tile_modTile_ne]

/-- The course digest of a tile is closed (R513). -/
def closeDigest (v : Tile) : Tile := { v with digCourse := 0 }
/-- The tile drains (R501). -/
def drainTile (v : Tile) : Tile := { v with drained := false }
/-- The metered tokens count from 0 (R71). -/
def clearTokens (v : Part) : Part := { v with run := { v.run with tok := 0 } }

/-- What the completion of a plan within its budget leaves (`finishPlan_within`): its tokens and digests closed, the partition finished, its
tiles draining. -/
def planEnded (s : State) (p : Nat) : State :=
  (s.tilesOf p).foldl (fun u t => u.modTile t drainTile)
    (((s.tilesOf p).foldl (fun u t => u.modTile t closeDigest) (s.modPart p clearTokens)).modPart p Part.finished)

/-- A plan that kept its budget and does not shadow is finished, and its tiles drain (R45). -/
theorem finishPlan_within {s : State} {p : Nat} {c : Course} (hlive : (s.part p).live = true) (hrole : (s.part p).sh.role = 0)
    (hc : (s.part p).courseAt ((s.part p).run.course - 1) = some c) (ht : (s.part p).run.tok ≤ c.avg * c.len) :
    s.finishPlan p = planEnded s p := by
  have hr : ((s.modPart p clearTokens).part p).sh.role = 0 := by rw [State.part_modPart_self]; exact hrole
  have hl : (((s.tilesOf p).foldl (fun u t => u.modTile t closeDigest) (s.modPart p clearTokens)).part p).live = true := by
    obtain ⟨m, hm⟩ := foldl_modTile_frame closeDigest (s.tilesOf p) (s.modPart p clearTokens)
    rw [hm]
    show ((s.modPart p clearTokens).part p).live = true
    rw [State.part_modPart_self]
    exact hlive
  have h1 : (s.powerClose p ((s.part p).run.course - 1)).shadowClose p ((s.part p).run.course - 1) =
      (s.tilesOf p).foldl (fun u t => u.modTile t closeDigest) (s.modPart p clearTokens) := by
    rw [powerClose_within hc ht]
    exact shadowClose_alone hr
  unfold State.finishPlan
  simp only [h1, hl]
  rfl

theorem planEnded_frame (s : State) (p : Nat) :
    ∃ m, planEnded s p = { (s.modPart p clearTokens).modPart p Part.finished with tiles := m } := by
  obtain ⟨m, hm⟩ := foldl_modTile_frame closeDigest (s.tilesOf p) (s.modPart p clearTokens)
  obtain ⟨m', hm'⟩ := foldl_modTile_frame drainTile (s.tilesOf p)
    (((s.tilesOf p).foldl (fun u t => u.modTile t closeDigest) (s.modPart p clearTokens)).modPart p Part.finished)
  exact ⟨m', by rw [planEnded, hm', hm]; rfl⟩

theorem planEnded_part (s : State) (p j : Nat) :
    (planEnded s p).part j = if j = p then (clearTokens (s.part p)).finished else s.part j := by
  obtain ⟨m, hm⟩ := planEnded_frame s p
  rw [hm]
  show ((s.modPart p clearTokens).modPart p Part.finished).part j = _
  split
  · rename_i h
    rw [h, State.part_modPart_self, State.part_modPart_self]
  · rename_i h
    rw [State.part_modPart_ne _ _ h, State.part_modPart_ne _ _ h]

theorem planEnded_tile {s : State} {p j : Nat} (hj : j ∈ s.tilesOf p) : (planEnded s p).tile j = drainTile (closeDigest (s.tile j)) := by
  rw [planEnded, foldl_modTile_tile (f := drainTile) (fun _ => rfl), if_pos hj, State.tile_modPart,
    foldl_modTile_tile (f := closeDigest) (fun _ => rfl), if_pos hj, State.tile_modPart]

/-- Settles O33: COURSE_START through `courseStart_begins`, PLAN_COMPLETION through the close of its last course. -/
theorem courseStarts : Obligations.CourseStarts := by
  intro s t p pl hpl hserv hlive v k
  refine ⟨?_, ?_, ?_⟩
  · intro b hp hdue hr hn hw hb hst hev hcase
    obtain ⟨u, hpin, hbeg, htile, hmem, hcrs⟩ : ∃ u, s.pinnedStart p = u ∧ Begins u t p k b ∧ (∀ j, u.tile j = s.tile j) ∧ u.mem = s.mem ∧
        (u.part p).run.course = k + 1 := by
      rcases hcase with ⟨hc, hearly⟩ | ⟨h0, hc, hnow, hpause⟩
      · refine ⟨s, pinnedStart_early hpl hserv fun x hx => hearly x ?_, ⟨rfl, hdue, hr, ?_, hn, hw, hlive, hb, hst, hev⟩, fun _ => rfl, rfl, hc⟩
        · rw [← hc]; exact hx
        · show k < v.run.course
          omega
      · rw [h0] at hb
        refine ⟨_, pinnedStart_first hpl hserv hlive hc hb hnow hpause, ?_, fun _ => rfl, rfl, ?_⟩
        · rw [h0]
          exact begins_inFirst hp h0 hdue hr hw hlive hb hst hev
        · rw [State.part_modPart_self, h0]
          rfl
    refine ⟨_, courseStart_begins hp hdue hpin hbeg, ?_⟩
    simp only [State.tile_modRoom, State.tile_modTile_self, htile, State.part_modRoom, State.part_modTile, hcrs, startTile_sreg, startTile_q]
    exact ⟨rfl, rfl, rfl, rfl, trivial, trivial, trivial, fun j hj => (State.tile_modTile_ne _ _ hj).trans (htile j), hmem⟩
  · intro d c hd hnow hrole hc htok
    have hx : exec (.planCompletion p) s = .next (s.finishPlan p) := by
      have hd' : (s.part p).doneAt = some d := hd
      show Host.Outcome.next _ = _
      simp [hd', hlive, hnow]
    rw [finishPlan_within hlive hrole hc htok] at hx
    obtain ⟨m, hm⟩ := planEnded_frame s p
    refine ⟨_, hx, ?_, ?_, ?_, by rw [hm]; rfl, fun j hj => by rw [planEnded_part, if_neg hj], fun j hj => ?_⟩
    · rw [planEnded_part, if_pos rfl]; rfl
    · rw [planEnded_part, if_pos rfl]; rfl
    · rw [planEnded_part, if_pos rfl]; exact hpl
    · rw [planEnded_tile hj]
      exact ⟨rfl, rfl, rfl⟩
  · intro d hd hnow
    show Host.Outcome.next _ = _
    have hd' : (s.part p).doneAt = some d := hd
    have h : ¬ d ≤ s.now := by omega
    simp [hd', h]

end Sys2Proof
end

section
namespace Sys2Proof

open Machine

/-! ### Landings (R48, R56, R57, R231) -/

theorem SMap.find_mapVals {α β : Type} (f : α → β) (m : SMap α) (k : Nat) : SMap.find (SMap.mapVals f m) k = (SMap.find m k).map f := by
  induction m with
  | nil => rfl
  | cons x r ih =>
    obtain ⟨j, w⟩ := x
    simp only [SMap.mapVals, List.map_cons, SMap.find]
    split
    · rfl
    · exact ih

theorem SMap.get_mapVals {α β : Type} {f : α → β} {d : α} {d' : β} (hd : f d = d') (m : SMap α) (k : Nat) :
    SMap.get d' (SMap.mapVals f m) k = f (SMap.get d m k) := by
  unfold SMap.get
  rw [SMap.find_mapVals]
  cases SMap.find m k
  · exact hd.symm
  · rfl

/-- A write's notes are all that a tile sees of it (R330). -/
theorem notify_tile (s : State) (a n t : Nat) : ∃ ns, (s.notify a n).tile t = { s.tile t with notes := ns } := by
  have h := SMap.get_mapVals (f := fun v : Tile => { v with notes := v.notes ++ s.notesFor a n v.mons }) (d := Tile.reset)
    (d' := Tile.reset) rfl s.tiles t
  exact ⟨(s.tile t).notes ++ s.notesFor a n (s.tile t).mons, h⟩

theorem wrByte_frame (s : State) (a : Nat) (b : Byte) : ∃ m v, s.wrByte a b = { s with mem := m, valid := v } := by
  cases h : cellarOff a with
  | none => exact ⟨_, _, wrByte_plain b h⟩
  | some o =>
    by_cases hv : SMap.get false s.valid (o / 65536) = true
    · exact ⟨_, _, wrByte_cellar b h hv⟩
    · exact ⟨_, _, wrByte_first b h hv⟩

theorem wrBytes_frame (bs : List Byte) : ∀ (s : State) (a : Nat), ∃ m v, s.wrBytes a bs = { s with mem := m, valid := v } := by
  induction bs with
  | nil => intro s a; exact ⟨_, _, rfl⟩
  | cons b r ih =>
    intro s a
    obtain ⟨m, v, h⟩ := wrByte_frame s a b
    obtain ⟨m', v', h'⟩ := ih (s.wrByte a b) (a + 1)
    exact ⟨m', v', by rw [State.wrBytes, h', h]⟩

/-- What a write leaves: memory and its valid bits, error marks, notes to the tiles and answers to host waits. -/
structure WriteOnly (s u : State) : Prop where
  tile : ∀ t, ∃ ns, u.tile t = { s.tile t with notes := ns }
  rest : u = { s with mem := u.mem, valid := u.valid, dev := u.dev, cmd := u.cmd, tiles := u.tiles }

theorem wr_writeOnly (s : State) (a : Nat) (bs : List Byte) : WriteOnly s (s.wr a bs) := by
  obtain ⟨m, v, hb⟩ := wrBytes_frame bs s a
  unfold State.wr
  rw [hb]
  dsimp only
  obtain ⟨c, hc, -⟩ := wakeHosts_cmd_only (State.notify (State.modDev { s with mem := m, valid := v } fun d =>
    { d with bad := d.bad.filter fun x => decide (x < a ∨ a + bs.length ≤ x),
             soft := d.soft.filter fun x => decide (x < a ∨ a + bs.length ≤ x) }) a bs.length) a bs.length
  rw [hc]
  exact ⟨fun t => notify_tile _ a bs.length t, rfl⟩

/-- The tile into whose Landing a slot is written: the slot's tag is new (R57). -/
theorem landNow_tile (s : State) (t : Nat) (e : LandEnt) : ∃ ns, (s.landNow t e).tile t =
    { s.tile t with notes := ns, tags := SMap.put 0 (s.tile t).tags e.slot (byte e.epoch) } := by
  obtain ⟨ns, hn⟩ := (wr_writeOnly s (loftAddr t (0xF0000 + 256 * e.slot)) e.data).tile t
  refine ⟨ns, ?_⟩
  show ((s.wr (loftAddr t (0xF0000 + 256 * e.slot)) e.data).modTile t fun v =>
    { v with tags := SMap.put 0 v.tags e.slot (byte e.epoch) }).tile t = _
  rw [State.tile_modTile_self, hn]

theorem landNow_frame (s : State) (t : Nat) (e : LandEnt) : s.landNow t e = { s with
    mem := (s.landNow t e).mem, valid := (s.landNow t e).valid, dev := (s.landNow t e).dev, cmd := (s.landNow t e).cmd,
    tiles := (s.landNow t e).tiles } := by
  have h : s.landNow t e = { s.wr (loftAddr t (0xF0000 + 256 * e.slot)) e.data with
    dev := (s.landNow t e).dev, tiles := (s.landNow t e).tiles } := rfl
  rw [h, (wr_writeOnly s (loftAddr t (0xF0000 + 256 * e.slot)) e.data).rest]

/-- A slot of 256 bytes is written where its Landing slot lies, and no other byte (R48). -/
theorem landNow_rdByte (s : State) (t : Nat) (e : LandEnt) (hl : e.data.length = 256) (x : Nat) : (s.landNow t e).rdByte x =
    if loftAddr t (0xF0000 + 256 * e.slot) ≤ x ∧ x < loftAddr t (0xF0000 + 256 * e.slot) + 256 then
      e.data.getD (x - loftAddr t (0xF0000 + 256 * e.slot)) 0 else s.rdByte x := by
  have h := wr_wrote s (loftAddr t (0xF0000 + 256 * e.slot)) e.data x
  rw [hl] at h
  rw [← h]
  exact rdByte_congr rfl rfl x

theorem landNow_tagOf (s : State) (t : Nat) (e : LandEnt) (j : Nat) :
    ((s.landNow t e).tile t).tagOf j = if j = e.slot then e.epoch % 256 else (s.tile t).tagOf j := by
  obtain ⟨ns, h⟩ := landNow_tile s t e
  rw [h]
  unfold Tile.tagOf
  simp only [SMap.get_put]
  split
  · exact BitVec.toNat_ofNat ..
  · rfl

theorem tagOf_congr {v w : Tile} (h : w.tags = v.tags) (j : Nat) : w.tagOf j = v.tagOf j := by
  unfold Tile.tagOf
  rw [h]

/-- The tag that is written holds no error (R184). -/
theorem landNow_badTag (s : State) (t : Nat) (e : LandEnt) : (t, e.slot) ∉ (s.landNow t e).dev.badTag := by
  show (t, e.slot) ∉ List.filter _ _
  simp

theorem foldl_unmoved {α : Type} {f : State → α → State} {l : List α} (h : ∀ a ∈ l, ∀ u, f u a = u) : ∀ s, l.foldl f s = s := by
  induction l with
  | nil => intro s; rfl
  | cons a l ih =>
    intro s
    rw [List.foldl_cons, h a (by simp)]
    exact ih (fun b hb => h b (List.mem_cons_of_mem _ hb)) s

/-- No landing is of a beat that is over: all of them wait. -/
theorem landUpTo_waits {s : State} {t b : Nat} (h : ∀ e ∈ (s.tile t).lands, b ≤ e.beat) : s.landUpTo t b = s.setTile t (s.tile t) := by
  unfold State.landUpTo
  rw [foldl_unmoved (fun e he u => if_neg (Nat.not_lt.mpr (h e he)))]
  unfold State.modTile
  dsimp only
  rw [List.filter_eq_self.mpr fun e he => decide_eq_true (h e he)]

/-- The one landing of a tile, of a beat that is over, becomes readable. -/
theorem landUpTo_one {s : State} {t b : Nat} {e : LandEnt} (h : (s.tile t).lands = [e]) (hb : e.beat < b) :
    s.landUpTo t b = (s.setTile t { s.tile t with lands := [] }).landNow t e := by
  have hf : (s.tile t).lands.filter (fun x => decide (b ≤ x.beat)) = [] := by simp [h, hb]
  unfold State.landUpTo State.modTile
  dsimp only
  rw [hf, h]
  simp [hb]

theorem hzdWrite_off {s : State} {p : Nat} (h : (s.part p).run.hzd = false) (t slot ep : Nat) : s.hzdWrite p t slot ep = s := by
  unfold State.hzdWrite
  simp [h]

/-- A slot that arrives at a tile of its partition joins the tile's landings, of which those of beats that are over become readable. -/
theorem landSlot_joins {s : State} {p t slot ep w : Nat} {data : List Byte} {d : Dev} (ho : s.owner 0 t = some p)
    (hh : (s.part p).run.halted = false) (hz : s.hzdWrite p t slot ep = { s with dev := d }) :
    s.landSlot p t slot ep w data = (State.setTile { s with dev := d } t { s.tile t with
      lands := (s.tile t).lands ++ [{ beat := w, slot := slot, epoch := ep, data := data }] }).landUpTo t (s.tile t).now := by
  have hn : ((State.setTile { s with dev := d } t { s.tile t with
      lands := (s.tile t).lands ++ [{ beat := w, slot := slot, epoch := ep, data := data }] }).tile t).now = (s.tile t).now := by
    rw [State.tile_setTile_self]
    rfl
  unfold State.landSlot
  simp only [ho, hh, hz, ne_eq, not_true, if_false]
  rw [← hn]
  rfl

/-- A slot joins the landings of tile `t`, and nothing else changes but the detector's records `d`. -/
structure LandWaits (s u : State) (t : Nat) (e : List LandEnt) (d : Dev) : Prop where
  tile : u.tile t = { s.tile t with lands := (s.tile t).lands ++ e }
  other : ∀ j, j ≠ t → u.tile j = s.tile j
  rest : u = { s with tiles := u.tiles, dev := d }

/-- A slot of the beat in progress, or of a later one, waits for its end (R48). -/
theorem landSlot_waits {s : State} {p t slot ep w : Nat} {data : List Byte} {d : Dev} (ho : s.owner 0 t = some p)
    (hh : (s.part p).run.halted = false) (hz : s.hzdWrite p t slot ep = { s with dev := d }) (hw : (s.tile t).now ≤ w)
    (hl : ∀ e ∈ (s.tile t).lands, (s.tile t).now ≤ e.beat) :
    LandWaits s (s.landSlot p t slot ep w data) t [{ beat := w, slot := slot, epoch := ep, data := data }] d := by
  rw [landSlot_joins ho hh hz, landUpTo_waits]
  · refine ⟨?_, fun j hj => ?_, rfl⟩
    · rw [State.tile_setTile_self, State.tile_setTile_self]
    · rw [State.tile_setTile_ne _ _ hj, State.tile_setTile_ne _ _ hj]
      rfl
  · rw [State.tile_setTile_self]
    intro e he
    rcases List.mem_append.mp he with he | he
    · exact hl e he
    · rw [List.mem_singleton.mp he]
      exact hw

theorem landSlot_waits_off {s : State} {p t slot ep w : Nat} {data : List Byte} (ho : s.owner 0 t = some p)
    (hh : (s.part p).run.halted = false) (hz : (s.part p).run.hzd = false) (hw : (s.tile t).now ≤ w) (hl : (s.tile t).lands = []) :
    LandWaits s (s.landSlot p t slot ep w data) t [{ beat := w, slot := slot, epoch := ep, data := data }] s.dev := by
  have hz' : s.hzdWrite p t slot ep = { s with dev := s.dev } := hzdWrite_off hz ..
  exact landSlot_waits ho hh hz' hw (by simp [hl])

/-- Tile `t` of `s` becomes `v`, and then its landing `e` becomes readable. -/
def LandsNow (s u : State) (t : Nat) (v : Tile) (e : LandEnt) : Prop :=
  ∃ m, State.tile { s with tiles := m } t = v ∧ u = State.landNow { s with tiles := m } t e

section
variable {s u : State} {t : Nat} {v : Tile} {e : LandEnt} (h : LandsNow s u t v e)
include h

theorem LandsNow.rdByte (hl : e.data.length = 256) (x : Nat) : u.rdByte x =
    if loftAddr t (0xF0000 + 256 * e.slot) ≤ x ∧ x < loftAddr t (0xF0000 + 256 * e.slot) + 256 then
      e.data.getD (x - loftAddr t (0xF0000 + 256 * e.slot)) 0 else s.rdByte x := by
  obtain ⟨m, -, rfl⟩ := h
  exact landNow_rdByte _ t e hl x

theorem LandsNow.tile : ∃ ns, u.tile t = { v with notes := ns, tags := SMap.put 0 v.tags e.slot (byte e.epoch) } := by
  obtain ⟨m, rfl, rfl⟩ := h
  exact landNow_tile ..

theorem LandsNow.tagOf {w : Tile} (hv : v.tags = w.tags) (j : Nat) :
    (u.tile t).tagOf j = if j = e.slot then e.epoch % 256 else w.tagOf j := by
  obtain ⟨m, rfl, rfl⟩ := h
  rw [landNow_tagOf, tagOf_congr hv]

theorem LandsNow.badTag : (t, e.slot) ∉ u.dev.badTag := by
  obtain ⟨m, -, rfl⟩ := h
  exact landNow_badTag _ t e

theorem LandsNow.rest : u.parts = s.parts ∧ u.fab = s.fab ∧ u.hrt = s.hrt := by
  obtain ⟨m, -, rfl⟩ := h
  rw [landNow_frame]
  exact ⟨rfl, rfl, rfl⟩

end

/-- A slot of a beat that is over at a tile with no other landing is readable at once (R48). -/
theorem landSlot_over {s : State} {p t slot ep w : Nat} {data : List Byte} (ho : s.owner 0 t = some p) (hh : (s.part p).run.halted = false)
    (hz : (s.part p).run.hzd = false) (hw : w < (s.tile t).now) (hl : (s.tile t).lands = []) :
    LandsNow s (s.landSlot p t slot ep w data) t { s.tile t with lands := [] } { beat := w, slot := slot, epoch := ep, data := data } := by
  refine ⟨_, ?_, (landSlot_joins ho hh (d := s.dev) (hzdWrite_off hz ..)).trans (landUpTo_one ?_ hw)⟩
  · refine (State.tile_setTile_self ..).trans ?_
    rw [State.tile_setTile_self]
  · rw [State.tile_setTile_self, hl]
    rfl

theorem owner_congr {s u : State} (h : u.hrt = s.hrt) (k i : Nat) : u.owner k i = s.owner k i := by
  unfold State.owner State.bindEntry
  rw [h]

theorem part_congr {s u : State} (h : u.parts = s.parts) (p : Nat) : u.part p = s.part p := by
  unfold State.part
  rw [h]

theorem draining_congr {s u : State} {t : Nat} (hh : u.hrt = s.hrt) (hp : u.parts = s.parts) (hd : (u.tile t).drained = (s.tile t).drained) :
    u.draining t = s.draining t := by
  unfold State.draining State.partOf
  simp only [owner_congr hh, part_congr hp, hd]

/-- A tile at the start of its clock beat `b`. -/
def startBeat (b : Nat) (v : Tile) : Tile := { v.xbStart with tim := { v.tim with cb := b + 1, plan := false, maint := false } }

theorem goOnAll_idle {s : State} {t : Nat} (h : (s.tile t).fly = []) (b : Nat) : s.goOnAll t b = s := by
  unfold State.goOnAll
  rw [h]
  rfl

/-- The beat of a tile with nothing in flight begins with its one landing of an earlier beat. -/
theorem beatBegun_lands {s : State} {t : Nat} {e : LandEnt} (hl : (s.tile t).lands = [e]) (he : e.beat < (s.tile t).tim.cb)
    (hf : (s.tile t).fly = []) :
    LandsNow s (beatBegun s t) t { startBeat (s.tile t).tim.cb (s.tile t) with lands := [] } e := by
  have hs : (s.modTile t (startBeat (s.tile t).tim.cb)).landUpTo t (s.tile t).tim.cb = _ :=
    landUpTo_one (by rw [State.tile_modTile_self]; exact hl) he
  have hland : LandsNow s ((s.modTile t (startBeat (s.tile t).tim.cb)).landUpTo t (s.tile t).tim.cb) t
      { startBeat (s.tile t).tim.cb (s.tile t) with lands := [] } e := by
    refine ⟨_, ?_, hs⟩
    refine (State.tile_setTile_self ..).trans ?_
    rw [State.tile_modTile_self]
  have hfly : (((s.modTile t (startBeat (s.tile t).tim.cb)).landUpTo t (s.tile t).tim.cb).tile t).fly = [] := by
    obtain ⟨ns, hn⟩ := hland.tile
    rw [hn]
    exact hf
  have hb : beatBegun s t = (s.modTile t (startBeat (s.tile t).tim.cb)).landUpTo t (s.tile t).tim.cb := goOnAll_idle hfly _
  rw [hb]
  exact hland

/-- Outside a course and its drain a beat is the engine's alone. -/
theorem tileBeat_idle {s : State} {t : Nat} (hin : (beatBegun s t).inCourse t = false) (hd : (beatBegun s t).draining t = false) :
    EngineOnly (beatBegun s t) (s.tileBeat t) t := by
  rw [tileBeat_eq]
  simp only [hin, hd, Bool.not_false, Bool.and_self, Bool.false_and, Bool.false_eq_true, if_true, if_false]
  exact mxBeat_engineOnly ..

/-- The first clock beat after that of a landing writes it, on a tile outside a course and its drain. -/
theorem tileBeat_lands {s : State} {t : Nat} {e : LandEnt} (hl : (s.tile t).lands = [e]) (he : e.beat < (s.tile t).tim.cb)
    (hf : (s.tile t).fly = []) (hin : s.inCourse t = false) (hd : s.draining t = false) :
    LandsNow s (beatBegun s t) t { startBeat (s.tile t).tim.cb (s.tile t) with lands := [] } e ∧
      EngineOnly (beatBegun s t) (s.tileBeat t) t := by
  have h := beatBegun_lands hl he hf
  obtain ⟨hp, -, hh⟩ := h.rest
  obtain ⟨ns, ht⟩ := h.tile
  refine ⟨h, tileBeat_idle ?_ ?_⟩
  · rw [← hin]
    refine inCourse_congr ⟨owner_congr hh .., fun p => by rw [part_congr hp], fun p k => by rw [part_congr hp], ?_, ?_⟩ <;> rw [ht] <;> rfl
  · rw [← hd]
    refine draining_congr hh hp ?_
    rw [ht]
    rfl

/-- The one slot on the die, where it meets a condition, is taken off it. -/
theorem takeFirst_one {α : Type} {f : α → Bool} {a : α} (h : f a = true) : takeFirst f [a] = some (a, []) := by
  simp [takeFirst, h]

/-- A due slot that has crossed its Doorways comes to the Landing (R47, R231). -/
theorem onDieLandingWrite_due {s : State} {o : OnDie} (h : s.fab.onDie = [o]) (hd : o.doors = [])
    (hs : s.stepDue o (s.roomOf o.dst) o.dst = true) : exec (.onDieLandingWrite o.dst) s =
    .next ((s.modFab fun f => { f with onDie := [] }).landSlot o.part o.dst o.slot o.epoch
      (s.beatAt o.part o.dst (s.stepBn o (s.roomOf o.dst) o.dst)) o.data) := by
  show Host.Outcome.next _ = _
  rw [h, takeFirst_one (by simp [hd, hs])]

/-- A due slot passes its next Doorway (R231). -/
theorem doorwayWordWrite_due {s : State} {o : OnDie} {d b : Nat} {r : List (Nat × Nat)} (h : s.fab.onDie = [o]) (hd : o.doors = (d, b) :: r)
    (hs : s.stepDue o (doorRooms d).2 o.dst = true) : ∃ due c, exec (.doorwayWordWrite d true) s =
    .next (s.modFab fun f => { f with onDie := [{ o with doors := r, due := due, course := c }] }) := by
  refine ⟨s.stepBn o (doorRooms d).2 o.dst + (r.head?.map (·.2)).getD o.rest, s.crsAt o.part (doorRooms d).2 o.dst, ?_⟩
  show Host.Outcome.next _ = _
  rw [h, takeFirst_one (by simp [hd, hs])]
  simp only [hd, if_true]
  cases r <;> rfl

/-- Settles O27: a slot that is over lands (`landSlot_over`), one that is not waits (`landSlot_waits`) for the tile's next beat
(`tileBeat_lands`), and a Doorway passes it on (`doorwayWordWrite_due`). -/
theorem landingWrites : Obligations.LandingWrites := by
  intro s o hon
  refine ⟨?_, ?_, ?_⟩
  · intro t hdst hdoors hdue hown _ _ hlen hhalt hhzd hlands w
    subst hdst
    refine ⟨fun hw => ?_, fun hw => ?_⟩
    · obtain ⟨u, hx, h⟩ : ∃ u, exec (.onDieLandingWrite o.dst) s = .next u ∧ LandsNow (s.modFab fun f => { f with onDie := [] }) u o.dst
          { s.tile o.dst with lands := [] } { beat := w, slot := o.slot, epoch := o.epoch, data := o.data } :=
        ⟨_, onDieLandingWrite_due hon hdoors hdue, landSlot_over hown hhalt hhzd hw hlands⟩
      obtain ⟨hp, hfab, -⟩ := h.rest
      obtain ⟨ns, ht⟩ := h.tile
      exact ⟨u, hx, by rw [hfab]; rfl, h.rdByte hlen, h.tagOf rfl, by rw [ht], by rw [ht], hp, h.badTag⟩
    · obtain ⟨u, hx, ht, hne, hr⟩ : ∃ u, exec (.onDieLandingWrite o.dst) s = .next u ∧ LandWaits (s.modFab fun f => { f with onDie := [] }) u
          o.dst [{ beat := w, slot := o.slot, epoch := o.epoch, data := o.data }] s.dev :=
        ⟨_, onDieLandingWrite_due hon hdoors hdue, landSlot_waits_off hown hhalt hhzd hw hlands⟩
      rw [State.tile_modFab, hlands] at ht
      exact ⟨u, hx, by rw [hr]; rfl, ht, by rw [hr]; rfl, by rw [hr], by rw [hr]; rfl, hne⟩
  · intro t e hl he hok hf hin hd _ _ hlen a
    obtain ⟨u, hu, h, hm⟩ : ∃ u, s.tileBeat t = u ∧
        LandsNow s (beatBegun s t) t { startBeat (s.tile t).tim.cb (s.tile t) with lands := [] } e ∧ EngineOnly (beatBegun s t) u t :=
      ⟨_, rfl, tileBeat_lands hl he hf hin hd⟩
    generalize beatBegun s t = w at h hm
    obtain ⟨m, c, ht⟩ := hm.tile
    obtain ⟨ns, hn⟩ := h.tile
    refine ⟨u, congrArg Host.Outcome.next ((if_pos hok).trans hu), by rw [ht, hn], by rw [ht, hn]; rfl,
      fun x => (hm.rdByte x).trans (h.rdByte hlen x), fun j => ?_, by rw [ht, hn]; rfl⟩
    rw [tagOf_congr (v := w.tile t) (by rw [ht]), h.tagOf (w := s.tile t) rfl]
  · intro d b r hdoors hdue
    obtain ⟨due, c, hx⟩ := doorwayWordWrite_due hon hdoors hdue
    exact ⟨_, _, hx, rfl, rfl, rfl, rfl, rfl, rfl, rfl, rfl⟩

end Sys2Proof
end

section
namespace Sys2Proof

open Machine

/-! ### A position listed twice on a port (R276)

PLAN_PACKET_FORWARD takes the packet's own positions off the grid before it looks for a clash, and takes off every slot of that
packet. Where a port's list holds two slots under one position, of which only the first is the packet's own, the position reads as free of
another packet before and holds one after. Such a list is not in the canonical form of a sparse store, in which keys rise strictly; the
statement is for every state, and asks no such form of a port's positions. -/

/-- The header of a packet for device 9, with hops left. -/
def transitHdr : Flit := { Hdr.zero with dst := 9, src := 7, hops := 5 }.enc
/-- The same as it leaves, one hop later. -/
def transitOut : Flit := withHops transitHdr 4
/-- The packet, whose only flit reached the pins at time 0. -/
def transitIn : PlanIn :=
  { pkt := { hdr := transitHdr, data := [], ready := 0, ing := none }, arr := [0], done := 0, late := false, hold := 0, joined := 0 }
/-- The slot of another packet, which leaves first. -/
def earlierSlot : Slot := planSlot 0 transitHdr 0 false

/-- A plan of one course whose route table sends packets for device 9 by port 1. -/
def routedPlan : Plan :=
  { pdig := 7, tcv := 0, reduced := false, invariant := false, shadow := false, shw := 0, shs := 0, ndev := 1, f := 0, notebase := 0,
    collbase := 0, iaddr := 0, ilen := 0, devs := [5], classid := 0,
    courses := [{ len := 1000, rsv := 10, guard := 4, maint := 4, start := 0, peak := 100, avg := 50 }],
    tiles := [], init := [], sync := [], paths := [], deps := [], routes := [(9, 1)], links := [], sweeps := [], rafter := [], masks := [],
    serv := none, shapes := [], reads := [], wmap := none, digs := [], larder := none }

/-- Device 5, where the packet stands at port 0, and port 1 lists its departure position twice: first as the packet's own, then as that of
the other packet. -/
def twiceListed : State :=
  let slots := [(tk 180, planSlot 0 transitOut (tk 180) false), (tk 180, earlierSlot)]
  let s := { State.reset with fab := { Fab.reset with devid := 5 } }.setPart 0 { Part.reset with plan := some routedPlan }
  (s.setPort 0 { Port.reset with rx := { RxSide.reset with planIn := [transitIn] } }).setPort 1
    { Port.reset with st := .up, tx := { TxSide.reset with grp := tk 180, slots := slots } }

/-- What stands in a position of a port after a command. -/
def slotAfter (o : Host.Outcome State Fault Refusal) (n x : Nat) : Option Slot := (nextOf o).bind fun u => (u.port n).slotAt x

/-- The packet's one key: its departure position, 180 t after its arrival. -/
theorem twiceListed_keys :
    let h := Hdr.dec transitIn.pkt.hdr
    let hdr := withHops transitIn.pkt.hdr (h.hops - 1)
    (twiceListed.modPort 0 fun v => v.takeIn transitIn).planKeys 1 ((transitIn.arr.map fun b => b + tk 180).zip (hdr :: transitIn.pkt.data))
      (planSlot h.part hdr (transitIn.arr.headD 0 + tk 180) false) = [(tk 180, planSlot 0 transitOut (tk 180) false)] := by
  decide +kernel

/-- Before the packet goes on, its own slot is what its departure position reads as. -/
theorem twiceListed_before : ((twiceListed.modPort 0 fun v => v.takeIn transitIn).port 1).slotAt (tk 180) =
    some (planSlot 0 transitOut (tk 180) false) := by
  decide +kernel

/-- The position holds the other packet when the forwarding is done. -/
theorem twiceListed_after : slotAfter (exec (.planPacketForward 0) twiceListed) 1 (tk 180) = some earlierSlot := by
  decide +kernel

/-- Refutes O39: PLAN_PACKET_FORWARD of `transitIn` at port 0 of `twiceListed` meets every hypothesis of the last clause, and leaves the other
packet in the departure position. -/
theorem not_planPackets : ¬ Obligations.PlanPackets := by
  intro h
  obtain ⟨-, -, h3⟩ := h twiceListed 0
  obtain ⟨-, -, hforward⟩ := h3 transitIn [] (by decide +kernel) (by decide +kernel) rfl (by decide +kernel)
  have hsent := hforward 1 (by decide +kernel) (by decide +kernel) (by decide +kernel) (by decide +kernel) (by decide +kernel)
    (by decide +kernel) (by decide +kernel) (by decide +kernel) (by decide +kernel)
  rw [twiceListed_keys] at hsent
  obtain ⟨u, hu, -, hslot, -⟩ := hsent fun e he o ho => by
    rw [List.mem_singleton.mp he, twiceListed_before] at ho
    rw [← Option.some.inj ho]
    rfl
  have hown : (u.port 1).slotAt (tk 180) = some (planSlot 0 transitOut (tk 180) false) := hslot _ (List.mem_singleton_self _) rfl
  have hother := twiceListed_after
  rw [hu] at hother
  have hsame : some (planSlot 0 transitOut (tk 180) false) = some earlierSlot := hown.symm.trans hother
  exact absurd hsame (by decide +kernel)

end Sys2Proof
end

section
namespace Sys2Proof

open Machine

/-! ### The accumulators of a set through the reads of a run (R110, R120, R121) -/

@[simp] theorem accs_setAccs_self (v : Tile) (set : Nat) (x : SMap Acc) : (v.setAccs set x).accs set = x := by
  by_cases h : set = 0 <;> simp [Tile.accs, Tile.setAccs, h]

theorem accs_setAccs_ne (v : Tile) {a b : Nat} (ha : a < 2) (hb : b < 2) (h : a ≠ b) (x : SMap Acc) :
    (v.setAccs b x).accs a = v.accs a := by
  by_cases h0 : b = 0
  · have ha0 : a ≠ 0 := by omega
    simp [Tile.accs, Tile.setAccs, h0, ha0]
  · have ha0 : a = 0 := by omega
    simp [Tile.accs, Tile.setAccs, h0, ha0]

@[simp] theorem setAccs_setAccs (v : Tile) (set : Nat) (x y : SMap Acc) : (v.setAccs set x).setAccs set y = v.setAccs set y := by
  by_cases h : set = 0 <;> simp [Tile.setAccs, h]

@[simp] theorem setAccs_accs (v : Tile) (set : Nat) : v.setAccs set (v.accs set) = v := by
  by_cases h : set = 0 <;> simp [Tile.accs, Tile.setAccs, h]

/-- New accumulators of one set leave the rest of the tile. -/
theorem setAccs_eq (v : Tile) (set : Nat) (x : SMap Acc) : ∃ x0 x1, v.setAccs set x = { v with acc0 := x0, acc1 := x1 } := by
  unfold Tile.setAccs
  split <;> exact ⟨_, _, rfl⟩

/-- A key that no rewrite of a sequence names reads as before. -/
theorem get_foldl_put_of_ne {α : Type} [DecidableEq α] (d : α) (key : Nat → Nat) (g : Nat → α → α) {j : Nat} {l : List Nat}
    (h : ∀ i ∈ l, key i ≠ j) : ∀ x : SMap α,
    SMap.get d (l.foldl (fun x i => SMap.put d x (key i) (g i (SMap.get d x (key i)))) x) j = SMap.get d x j := by
  induction l with
  | nil => intro x; rfl
  | cons a l ih =>
    intro x
    have ha : j ≠ key a := (h a (List.mem_cons_self ..)).symm
    rw [List.foldl_cons, ih fun i hi => h i (List.mem_cons_of_mem _ hi), SMap.get_put_ne d x _ ha]

/-- A key that one rewrite of a sequence names is rewritten once. -/
theorem get_foldl_put_of_mem {α : Type} [DecidableEq α] (d : α) (key : Nat → Nat) (g : Nat → α → α) {i : Nat} {l : List Nat}
    (hl : l.Nodup) (hi : i ∈ l) (h : ∀ a ∈ l, key a = key i → a = i) : ∀ x : SMap α,
    SMap.get d (l.foldl (fun x a => SMap.put d x (key a) (g a (SMap.get d x (key a)))) x) (key i) = g i (SMap.get d x (key i)) := by
  induction l with
  | nil => cases hi
  | cons a l ih =>
    intro x
    obtain ⟨hal, hl⟩ := List.nodup_cons.mp hl
    rw [List.foldl_cons]
    by_cases ha : a = i
    · subst ha
      have hrest : ∀ b ∈ l, key b ≠ key a := fun b hb hk => hal (h b (List.mem_cons_of_mem _ hb) hk ▸ hb)
      rw [get_foldl_put_of_ne d key g hrest, SMap.get_put_self]
    · have hka : key i ≠ key a := fun hk => ha (h a (List.mem_cons_self ..) hk.symm)
      have hil : i ∈ l := (List.mem_cons.mp hi).resolve_left (Ne.symm ha)
      rw [ih hl hil fun b hb => h b (List.mem_cons_of_mem _ hb), SMap.get_put_ne d x _ hka]

/-- An accumulator after a read adds its product at row `m` and its own column `n`; sticky bits stay (R121, R134). -/
def Machine.KStep.onAcc (k : KStep) (w0 w1 : Word) (m n : Nat) (o : Acc) : Acc :=
  let r := k.addTo (mxFloat w0) (mxWb w0) (mxAf w0) (mxWf w1) m n o.a
  { a := r.a, sat := o.sat || r.sat, inv := o.inv || r.inv }

/-- In slab mode a read is one `slabStep` of its product. -/
theorem onAcc_slab {w0 : Word} (h : mxFloat w0 = false) (k : KStep) (w1 : Word) (m n : Nat) (o : Acc) :
    k.onAcc w0 w1 m n o = slabStep (mxWb w0) o (k.prod (mxAf w0) (mxWf w1) m n) := by
  unfold KStep.onAcc KStep.addTo slabStep
  rw [h]
  cases (k.prod (mxAf w0) (mxWf w1) m n).2 <;> simp

/-- The place in its set of the `i`-th accumulator that a read updates. -/
def Machine.KStep.place (k : KStep) (i : Nat) : Nat := 64 * (i / k.w.length) + k.n0 + i % k.w.length

/-- A read into the accumulators of a set: what `Tile.stepSet` makes of them (`stepSet_fst`). -/
def readInto (base : Nat) (w0 w1 : Word) (x : SMap Acc) (k : KStep) : SMap Acc :=
  (List.range (64 * k.w.length)).foldl (fun x i => SMap.put Acc.zero x (k.place i)
    (k.onAcc w0 w1 (base + i / k.w.length) (i % k.w.length) (SMap.get Acc.zero x (k.place i)))) x

theorem stepSet_fst (v : Tile) (set base : Nat) (w0 w1 : Word) (k : KStep) :
    (v.stepSet set base w0 w1 k).1 = readInto base w0 w1 (v.accs set) k :=
  (List.foldl_hom Prod.fst fun _ _ => rfl).symm

/-- A read covers column `n` of its set. -/
def Machine.KStep.covers (k : KStep) (n : Nat) : Bool := decide (k.n0 ≤ n ∧ n < k.n0 + k.w.length)

/-- A read updates the accumulators of the columns that it covers, each once, and no other (R110, R111). -/
theorem get_readInto {k : KStep} (hk : k.n0 + k.w.length ≤ 64) {m n : Nat} (hm : m < 64) (hn : n < 64) (base : Nat) (w0 w1 : Word)
    (x : SMap Acc) : SMap.get Acc.zero (readInto base w0 w1 x k) (64 * m + n) =
      if k.covers n then k.onAcc w0 w1 (base + m) (n - k.n0) (SMap.get Acc.zero x (64 * m + n))
      else SMap.get Acc.zero x (64 * m + n) := by
  have hpos : ∀ i ∈ List.range (64 * k.w.length), 0 < k.w.length := by
    intro i hi
    have hlt := List.mem_range.mp hi
    omega
  -- the accumulator of index `i` lies in row `i / cols` and in the read's own column `i % cols`
  have hcell : ∀ i ∈ List.range (64 * k.w.length), k.place i = 64 * m + n → i / k.w.length = m ∧ k.n0 + i % k.w.length = n := by
    intro i hi hp
    have hlt := Nat.mod_lt i (hpos i hi)
    unfold KStep.place at hp
    omega
  by_cases hc : k.n0 ≤ n ∧ n < k.n0 + k.w.length
  · have hlen : 0 < k.w.length := by omega
    have hlt : n - k.n0 < k.w.length := by omega
    have hdiv : (k.w.length * m + (n - k.n0)) / k.w.length = m := by
      rw [Nat.mul_add_div hlen, Nat.div_eq_of_lt hlt, Nat.add_zero]
    have hmod : (k.w.length * m + (n - k.n0)) % k.w.length = n - k.n0 := by
      rw [Nat.mul_add_mod, Nat.mod_eq_of_lt hlt]
    have hplace : k.place (k.w.length * m + (n - k.n0)) = 64 * m + n := by
      unfold KStep.place
      rw [hdiv, hmod]
      omega
    have hmem : k.w.length * m + (n - k.n0) ∈ List.range (64 * k.w.length) := by
      rw [List.mem_range]
      calc k.w.length * m + (n - k.n0) < k.w.length * m + k.w.length := by omega
        _ = k.w.length * (m + 1) := (Nat.mul_succ ..).symm
        _ ≤ k.w.length * 64 := Nat.mul_le_mul_left _ hm
        _ = 64 * k.w.length := Nat.mul_comm ..
    have honce : ∀ a ∈ List.range (64 * k.w.length), k.place a = k.place (k.w.length * m + (n - k.n0)) →
        a = k.w.length * m + (n - k.n0) := by
      intro a ha hp
      obtain ⟨hrow, hcol⟩ := hcell a ha (hp.trans hplace)
      rw [← Nat.div_add_mod a k.w.length, hrow]
      omega
    have hget := get_foldl_put_of_mem Acc.zero k.place (fun i => k.onAcc w0 w1 (base + i / k.w.length) (i % k.w.length))
      List.nodup_range hmem honce x
    rw [hplace, hdiv, hmod] at hget
    rw [KStep.covers, decide_eq_true hc, if_pos rfl]
    exact hget
  · rw [KStep.covers, decide_eq_false hc, if_neg Bool.false_ne_true]
    refine get_foldl_put_of_ne Acc.zero k.place _ (fun i hi hp => hc ?_) x
    obtain ⟨-, hcol⟩ := hcell i hi hp
    have hlt := Nat.mod_lt i (hpos i hi)
    omega

/-- The updates of a set by a sequence of reads rewrite the accumulators of that set alone. -/
theorem foldl_stepSet (set base : Nat) (w0 w1 : Word) (ks : List KStep) : ∀ v : Tile,
    ks.foldl (fun (x : Tile) k => x.setAccs set (x.stepSet set base w0 w1 k).1) v =
      v.setAccs set (ks.foldl (readInto base w0 w1) (v.accs set)) := by
  induction ks with
  | nil => intro v; simp
  | cons k ks ih => intro v; rw [List.foldl_cons, List.foldl_cons, ih, stepSet_fst, accs_setAccs_self, setAccs_setAccs]

/-- The products that a sequence of reads adds to the accumulator at row `m` and column `n` of a set. -/
def prodsAt (base : Nat) (w0 w1 : Word) (m n : Nat) (ks : List KStep) : List (FV × Bool) :=
  (ks.filter fun k => k.covers n).map fun k => k.prod (mxAf w0) (mxWf w1) (base + m) (n - k.n0)

/-- Reads that do not cover its column leave an accumulator as it was. -/
theorem get_foldl_readInto_uncovered {m n : Nat} (hm : m < 64) (hn : n < 64) (base : Nat) (w0 w1 : Word) {ks : List KStep}
    (hfit : ∀ k ∈ ks, k.n0 + k.w.length ≤ 64) (hun : ∀ k ∈ ks, k.covers n = false) : ∀ x : SMap Acc,
    SMap.get Acc.zero (ks.foldl (readInto base w0 w1) x) (64 * m + n) = SMap.get Acc.zero x (64 * m + n) := by
  induction ks with
  | nil => intro x; rfl
  | cons k ks ih =>
    intro x
    obtain ⟨hk, hks⟩ := List.forall_mem_cons.mp hfit
    obtain ⟨hc, hcs⟩ := List.forall_mem_cons.mp hun
    rw [List.foldl_cons, ih hks hcs, get_readInto hk hm hn, hc, if_neg Bool.false_ne_true]

/-- In slab mode a sequence of reads is one `slabStep` for each product that it adds. -/
theorem get_foldl_readInto_slab {w0 : Word} (hf : mxFloat w0 = false) {m n : Nat} (hm : m < 64) (hn : n < 64) (base : Nat) (w1 : Word)
    {ks : List KStep} (hfit : ∀ k ∈ ks, k.n0 + k.w.length ≤ 64) : ∀ x : SMap Acc,
    SMap.get Acc.zero (ks.foldl (readInto base w0 w1) x) (64 * m + n) =
      (prodsAt base w0 w1 m n ks).foldl (slabStep (mxWb w0)) (SMap.get Acc.zero x (64 * m + n)) := by
  induction ks with
  | nil => intro x; rfl
  | cons k ks ih =>
    intro x
    obtain ⟨hk, hks⟩ := List.forall_mem_cons.mp hfit
    rw [List.foldl_cons, ih hks, get_readInto hk hm hn, onAcc_slab hf]
    cases hc : k.covers n <;> simp [prodsAt, hc]

/-! ### Slab sums (R120, R121, R124) -/

/-- An accumulator with the contributions of a list of products added modulo 2^128, and its sticky bits. -/
def slabSum (wb : Nat) (o : Acc) (ps : List (FV × Bool)) : Acc :=
  { a := o.a + BitVec.ofInt 128 ((ps.map fun x => if x.2 then 0 else (contrib wb x.1).1).sum),
    sat := o.sat || ps.any fun x => !x.2 && (contrib wb x.1).2,
    inv := o.inv || ps.any fun x => x.2 }

theorem slabSum_cons (wb : Nat) (o : Acc) (p : FV × Bool) (ps : List (FV × Bool)) :
    slabSum wb (slabStep wb o p) ps = slabSum wb o (p :: ps) := by
  unfold slabSum slabStep
  cases h : p.2 <;> simp [h, BitVec.ofInt_add, BitVec.add_assoc, Bool.or_assoc]

/-- The steps of slab mode make the sum. -/
theorem foldl_slabStep (wb : Nat) (ps : List (FV × Bool)) : ∀ o : Acc, ps.foldl (slabStep wb) o = slabSum wb o ps := by
  induction ps with
  | nil => intro o; simp [slabSum]
  | cons p ps ih => intro o; rw [List.foldl_cons, ih, slabSum_cons]

/-- An integer sum does not depend on the order of its terms. (Core has this for natural numbers only, as `List.Perm.sum_nat`.) -/
theorem int_sum_perm {l m : List Int} (h : l.Perm m) : l.sum = m.sum := by
  induction h with
  | nil => rfl
  | cons x _ ih => rw [List.sum_cons, List.sum_cons, ih]
  | swap x y l =>
    simp only [List.sum_cons]
    omega
  | trans _ _ ih₁ ih₂ => exact ih₁.trans ih₂

/-- A slab sum is one of the multiset of its products. -/
theorem slabSum_perm (wb : Nat) (o : Acc) {ps qs : List (FV × Bool)} (h : ps.Perm qs) : slabSum wb o ps = slabSum wb o qs := by
  unfold slabSum
  rw [int_sum_perm (h.map _), h.any_eq, h.any_eq]

/-- An accumulator after a sequence of updates of its set. -/
theorem acc_foldl_stepSet (set base : Nat) (w0 w1 : Word) (ks : List KStep) (v : Tile) (m n : Nat) :
    (ks.foldl (fun (x : Tile) k => x.setAccs set (x.stepSet set base w0 w1 k).1) v).acc set m n =
      SMap.get Acc.zero (ks.foldl (readInto base w0 w1) (v.accs set)) (64 * m + n) := by
  unfold Tile.acc
  rw [foldl_stepSet, accs_setAccs_self]

/-- An accumulator after a sequence of slab-mode updates of its set. -/
theorem acc_foldl_stepSet_slab {w0 : Word} (hf : mxFloat w0 = false) {m n : Nat} (hm : m < 64) (hn : n < 64) (set base : Nat) (w1 : Word)
    {ks : List KStep} (hfit : ∀ k ∈ ks, k.n0 + k.w.length ≤ 64) (v : Tile) :
    (ks.foldl (fun (x : Tile) k => x.setAccs set (x.stepSet set base w0 w1 k).1) v).acc set m n =
      slabSum (mxWb w0) (v.acc set m n) (prodsAt base w0 w1 m n ks) := by
  rw [acc_foldl_stepSet, get_foldl_readInto_slab hf hm hn base w1 hfit, foldl_slabStep]
  rfl

/-- Settles O9: the accumulator is the slab sum of its products (`acc_foldl_stepSet_slab`), and that is one of their multiset
(`slabSum_perm`). -/
theorem slabSumsOrderFree : Obligations.SlabSumsOrderFree := by
  intro v set m n hm hn _ fits go prods
  constructor
  · intro base base' w0 w1 w0' w1' ks ls hf hf' hwb hks hls hperm
    calc go base w0 w1 ks
      _ = slabSum (mxWb w0) (v.acc set m n) (prods base w0 w1 ks) := acc_foldl_stepSet_slab hf hm hn set base w1 hks v
      _ = slabSum (mxWb w0) (v.acc set m n) (prods base' w0' w1' ls) := slabSum_perm _ _ hperm
      _ = slabSum (mxWb w0') (v.acc set m n) (prods base' w0' w1' ls) := by rw [hwb]
      _ = go base' w0' w1' ls := (acc_foldl_stepSet_slab hf' hm hn set base' w1' hls v).symm
  · intro base w0 w1 ks hks hnone
    have hun : ∀ k ∈ ks, k.covers n = false := by
      simpa [prods, KStep.covers] using hnone
    exact (acc_foldl_stepSet ..).trans (get_foldl_readInto_uncovered hm hn base w0 w1 hks hun _)

end Sys2Proof
end

section
namespace Sys2Proof

open Machine

/-! ### The end of a run (R110, R123, R129) -/

/-- A run outside the paired class updates one set. -/
theorem mxSets_single {w0 w1 : Word} (h : mxRate (mxAf w0) (mxWf w1) ≠ .paired) : mxSets w0 w1 = [mxSet w0] := if_neg h

theorem mxSet_lt (w0 : Word) : mxSet w0 < 2 := Nat.mod_lt _ (by decide)

theorem mxReads_pos (w0 w1 : Word) : 0 < mxReads w0 w1 := by
  unfold mxReads mxHalves mxN
  split <;> omega

/-- A tile with other counters (R135). -/
def Machine.Tile.withCtr (v : Tile) (c : SMap Nat) : Tile := { v with ctr := c }

@[simp] theorem accs_withCtr (v : Tile) (c : SMap Nat) (set : Nat) : (v.withCtr c).accs set = v.accs set := rfl
@[simp] theorem withCtr_withCtr (v : Tile) (c d : SMap Nat) : (v.withCtr c).withCtr d = v.withCtr d := rfl
@[simp] theorem withCtr_ctr (v : Tile) : v.withCtr v.ctr = v := rfl

@[simp] theorem setAccs_withCtr (v : Tile) (c : SMap Nat) (set : Nat) (x : SMap Acc) :
    (v.withCtr c).setAccs set x = (v.setAccs set x).withCtr c := by
  unfold Tile.setAccs
  split <;> rfl

/-- A run further on: the reads still to be applied, the updates made, and its record of a SAT and an INV bit. -/
def Machine.MxRun.further (r : MxRun) (ks : List KStep) (upd : Nat) (sat inv : Bool) : MxRun :=
  { r with ks := ks, upd := upd, sat := sat, inv := inv }

/-- The accumulators that the next update of a run finds: none after CLR (R123). -/
def Machine.MxRun.found (r : MxRun) (v : Tile) (set : Nat) : SMap Acc := if mxClr r.w0 && decide (r.upd = 0) then [] else v.accs set

theorem clearFor_single {r : MxRun} {set : Nat} (h : mxSets r.w0 r.w1 = [set]) (v : Tile) :
    v.clearFor r = v.setAccs set (r.found v set) := by
  unfold Tile.clearFor MxRun.found
  rw [h]
  split
  · rfl
  · exact (setAccs_accs ..).symm

theorem get_found (r : MxRun) (v : Tile) (set m n : Nat) : SMap.get Acc.zero (r.found v set) (64 * m + n) =
    if mxClr r.w0 = true ∧ r.upd = 0 then Acc.zero else v.acc set m n := by
  unfold MxRun.found
  simp only [Bool.and_eq_true, decide_eq_true_eq]
  split <;> rfl

/-- A run that has made an update clears nothing. -/
theorem found_later {r : MxRun} (h : r.upd ≠ 0) (v : Tile) (set : Nat) : r.found v set = v.accs set := by
  simp [MxRun.found, h]

/-- The tile after the end of a run of one set, but for the tile's counters: one read after the other into the set. -/
def Machine.MxRun.ended (r : MxRun) (v : Tile) (set : Nat) : Tile :=
  v.setAccs set (r.ks.foldl (readInto 0 r.w0 r.w1) (r.found v set))

theorem ended_nil {r : MxRun} (hk : r.ks = []) (hu : r.upd ≠ 0) (v : Tile) (set : Nat) : r.ended v set = v := by
  unfold MxRun.ended
  rw [hk, found_later hu, List.foldl_nil, setAccs_accs]

/-- What is left after the first update of a run. -/
theorem ended_cons {r : MxRun} {k : KStep} {ks : List KStep} (hk : r.ks = k :: ks) (v : Tile) (set : Nat) (c : SMap Nat) (sat inv : Bool) :
    (r.further ks (r.upd + 1) sat inv).ended ((v.setAccs set (readInto 0 r.w0 r.w1 (r.found v set) k)).withCtr c) set =
      (r.ended v set).withCtr c := by
  have hlater : (r.further ks (r.upd + 1) sat inv).upd ≠ 0 := Nat.succ_ne_zero _
  unfold MxRun.ended
  rw [found_later hlater, hk]
  simp [MxRun.further]

/-- The engine's counts of an update leave the rest of the tile (R135). -/
theorem satop_invop_ctr (v : Tile) (p q : Bool) : ∃ c,
    (if q then (if p then v.count .mxSatop 1 else v).count .mxInvop 1 else if p then v.count .mxSatop 1 else v) = v.withCtr c := by
  cases p <;> cases q <;> exact ⟨_, rfl⟩

/-- The next update of a run of one set is one read into it; besides, counters and the run's own record change. -/
theorem updateRun_single {r : MxRun} {set : Nat} {k : KStep} {ks : List KStep} (hs : mxSets r.w0 r.w1 = [set]) (hk : r.ks = k :: ks)
    (v : Tile) : ∃ c sat inv, v.updateRun r =
      ((v.setAccs set (readInto 0 r.w0 r.w1 (r.found v set) k)).withCtr c, r.further ks (r.upd + 1) sat inv) := by
  unfold Tile.updateRun
  rw [hk]
  simp only [clearFor_single hs, hs, List.zipIdx_cons, List.zipIdx_nil, List.foldl_cons, List.foldl_nil, Nat.mul_zero, stepSet_fst,
    accs_setAccs_self, setAccs_setAccs]
  exact (satop_invop_ctr ..).imp fun c hc => ⟨_, _, Prod.ext hc rfl⟩

/-- The updates that a run of one set still has to make. -/
theorem updateRuns_all {set scale start : Nat} : ∀ {n : Nat} {r : MxRun}, mxSets r.w0 r.w1 = [set] → r.ks.length ≤ n →
    (r.upd = 0 → r.ks ≠ []) → ∀ v : Tile, ∃ c upd sat inv,
    v.updateRuns r scale start none n = ((r.ended v set).withCtr c, r.further [] upd sat inv) := by
  have hdone : ∀ {r : MxRun}, r.ks = [] → (r.upd = 0 → r.ks ≠ []) → ∀ v : Tile, ∃ c upd sat inv,
      (v, r) = ((r.ended v set).withCtr c, r.further [] upd sat inv) := by
    intro r hk hu v
    refine ⟨v.ctr, r.upd, r.sat, r.inv, ?_⟩
    rw [ended_nil hk fun h => hu h hk, withCtr_ctr, ← hk]
    rfl
  intro n
  induction n with
  | zero => exact fun _ hn hu v => hdone (List.eq_nil_of_length_eq_zero (Nat.le_zero.mp hn)) hu v
  | succ n ih =>
    intro r hs hn hu v
    unfold Tile.updateRuns
    cases hk : r.ks with
    | nil => exact hdone hk hu v
    | cons k ks =>
      obtain ⟨c, sat, inv, hstep⟩ := updateRun_single hs hk v
      have hlen : ks.length ≤ n := by simpa [hk] using hn
      have hlater : r.upd + 1 ≠ 0 := Nat.succ_ne_zero _
      obtain ⟨c', upd', sat', inv', hrest⟩ := ih (r := r.further ks (r.upd + 1) sat inv) hs hlen (fun h => absurd h hlater)
        ((v.setAccs set (readInto 0 r.w0 r.w1 (r.found v set) k)).withCtr c)
      rw [ended_cons hk, withCtr_withCtr] at hrest
      rw [hstep]
      exact ⟨c', upd', sat', inv', hrest⟩

/-- The last clock beat of a run whose operands have all been read makes the updates that are left. -/
theorem runOn_read {r : MxRun} {set : Nat} (hs : mxSets r.w0 r.w1 = [set]) (hr : r.reads = mxReads r.w0 r.w1)
    (hk : r.ks.length ≤ r.reads) (hu : r.upd = 0 → r.ks ≠ []) (v : Tile) (scale start : Nat) : ∃ c upd sat inv,
    v.runOn r scale start none = ((r.ended v set).withCtr c, r.further [] upd sat inv) := by
  obtain ⟨c, upd, sat, inv, h⟩ := updateRuns_all (scale := scale) (start := start) hs (hr ▸ hk) hu v
  have hreads : mxReads r.w0 r.w1 ≤ (r.further [] upd sat inv).reads := Nat.le_of_eq hr.symm
  refine ⟨c, upd, sat, inv, ?_⟩
  unfold Tile.runOn
  simp only [h, hreads, decide_true, Bool.true_or, if_true]

/-- A run with nothing left to do stays as it is. -/
theorem runEnd_done {r : MxRun} (hr : r.reads = mxReads r.w0 r.w1) (hk : r.ks = []) (v : Tile) (scale : Nat) : ∀ n,
    v.runEnd r scale n = (v, r) := by
  have hup : ∀ n, v.updateRuns r scale 0 none n = (v, r) := by
    intro n
    cases n with
    | zero => rfl
    | succ n => simp [Tile.updateRuns, hk]
  have hon : v.runOn r scale 0 none = (v, r) := by simp [Tile.runOn, hup, hr]
  intro n
  induction n with
  | zero => rfl
  | succ n ih =>
    unfold Tile.runEnd
    rw [hon]
    exact ih

/-- What is left of a run of one set that has read its operands. -/
theorem runEnd_read {r : MxRun} {set : Nat} (hs : mxSets r.w0 r.w1 = [set]) (hr : r.reads = mxReads r.w0 r.w1)
    (hk : r.ks.length ≤ r.reads) (hu : r.upd = 0 → r.ks ≠ []) (v : Tile) (scale n : Nat) : ∃ c,
    (v.runEnd r scale (n + 1)).1 = (r.ended v set).withCtr c := by
  obtain ⟨c, upd, sat, inv, h⟩ := runOn_read hs hr hk hu v scale 0
  have hdone := runEnd_done (r := r.further [] upd sat inv) hr rfl ((r.ended v set).withCtr c) scale n
  refine ⟨c, ?_⟩
  unfold Tile.runEnd
  rw [h]
  exact congrArg Prod.fst hdone

theorem windowEvent_frame (s : State) (t : Nat) : ∃ x, s.windowEvent t = { s with parts := x } := by
  unfold State.windowEvent
  split <;> exact ⟨_, rfl⟩

/-- A completing run makes the tile what the end of the run leaves; besides, the step's window-event bit may be set (R434). -/
theorem effect_mxr (s : State) (t : Nat) (r : MxRun) : ∃ x, s.effect t (.mxr r) =
    { s.setTile t ((s.tile t).runEnd r (s.tscale t) (mxReads r.w0 r.w1 + 1)).1 with parts := x } := by
  unfold State.effect
  dsimp only
  split
  · exact windowEvent_frame ..
  · exact ⟨_, rfl⟩

/-- The completion of a run of one set that has read its operands and sets no bit: the updates left are made and the flight ends. -/
theorem mxr_completes {s : State} {t : Nat} {f : Flight} {r : MxRun} {set : Nat} (h : Completes s t .mx f) (hset : f.set = none)
    (heff : f.eff = [.mxr r]) (hs : mxSets r.w0 r.w1 = [set]) (hr : r.reads = mxReads r.w0 r.w1) (hk : r.ks.length ≤ r.reads)
    (hu : r.upd = 0 → r.ks ≠ []) : ∃ u c, exec (.operationComplete t .mx) s = .next u ∧
      u.tile t = (r.ended (Landed (s.tile t) f) set).withCtr c ∧ (∀ j, j ≠ t → u.tile j = s.tile j) ∧ u.mem = s.mem := by
  obtain ⟨x, hx⟩ := effect_mxr (s.setTile t (Landed (s.tile t) f)) t r
  rw [State.tile_setTile_self] at hx
  obtain ⟨c, hc⟩ := runEnd_read hs hr hk hu (Landed (s.tile t) f) ((s.setTile t (Landed (s.tile t) f)).tscale t) (mxReads r.w0 r.w1)
  rw [hc] at hx
  have hexec : exec (.operationComplete t .mx) s = .next ((s.setTile t (Landed (s.tile t) f)).effect t (.mxr r)) := by
    rw [operationComplete_of_completes h, complete_unset hset, heff]
    rfl
  rw [hx] at hexec
  refine ⟨_, c, hexec, State.tile_setTile_self _ _ _, fun j hj => ?_, rfl⟩
  exact (State.tile_setTile_ne (s.setTile t (Landed (s.tile t) f)) _ hj).trans (State.tile_setTile_ne s _ hj)

/-- Settles O8: the run's last updates (`mxr_completes`) are reads into one set, and each accumulator takes the slab sum of the products. -/
theorem matrixRunAccumulates : Obligations.MatrixRunAccumulates := by
  intro s t f r v hc hset heff hf hrate hr hupd hfit
  have hs := mxSets_single hrate
  have hu : r.upd = 0 → r.ks ≠ [] := by
    intro h0 hk
    have hpos := mxReads_pos r.w0 r.w1
    rw [h0, hk, List.length_nil] at hupd
    omega
  obtain ⟨u, c, hx, ht, hother, hmem⟩ := mxr_completes hc hset heff hs hr (by omega) hu
  obtain ⟨x0, x1, hframe⟩ := setAccs_eq (Landed v f) (mxSet r.w0) (r.ks.foldl (readInto 0 r.w0 r.w1) (r.found (Landed v f) (mxSet r.w0)))
  have ht' : u.tile t = { Landed v f with acc0 := x0, acc1 := x1, ctr := c } := ht.trans (congrArg (Tile.withCtr · c) hframe)
  refine ⟨u, hx, ?_, ?_, by rw [ht']; rfl, by rw [ht']; rfl, by rw [ht']; rfl, by rw [ht']; rfl, by rw [ht']; rfl, hmem, hother⟩
  · intro m n hm hn o p
    have hfound : SMap.get Acc.zero (r.found (Landed v f) (mxSet r.w0)) (64 * m + n) = o := get_found ..
    calc (u.tile t).acc (mxSet r.w0) m n
      _ = SMap.get Acc.zero (r.ks.foldl (readInto 0 r.w0 r.w1) (r.found (Landed v f) (mxSet r.w0))) (64 * m + n) := by
        rw [ht]
        exact congrArg (SMap.get _ · _) (accs_setAccs_self ..)
      _ = slabSum (mxWb r.w0) o (prodsAt 0 r.w0 r.w1 m n r.ks) := by
        rw [get_foldl_readInto_slab hf hm hn 0 r.w1 hfit, foldl_slabStep, hfound]
      _ = slabSum (mxWb r.w0) o p := by
        unfold prodsAt
        rw [Nat.zero_add]
        rfl
  · intro set m n hne hlt
    rw [ht]
    exact congrArg (SMap.get _ · _) (accs_setAccs_ne _ hlt (mxSet_lt _) hne _)

end Sys2Proof
end

section
namespace Sys2Proof

open Machine

/-! ### The issue of a run (R123, R129, R130, R131, R153) -/

theorem info_setInfo (v : Tile) {a b : Nat} (ha : a < 2) (hb : b < 2) (i : SlabInfo) :
    (v.setInfo b i).info a = if a = b then i else v.info a := by
  obtain rfl | rfl : a = 0 ∨ a = 1 := by omega
  all_goals obtain rfl | rfl : b = 0 ∨ b = 1 := by omega
  all_goals rfl

/-- The sets of a run as its issue leaves them established. -/
def Machine.Tile.establish (v : Tile) (w0 w1 : Word) (sets : List Nat) : Tile :=
  sets.foldl (fun y k => y.setInfo k ((y.info k).afterRun w0 w1)) v

/-- Each set of a run is established once, and no other. -/
theorem info_establish (w0 w1 : Word) {a : Nat} (ha : a < 2) {sets : List Nat} (hnd : sets.Nodup) (hlt : ∀ k ∈ sets, k < 2) :
    ∀ v : Tile, (v.establish w0 w1 sets).info a = if a ∈ sets then (v.info a).afterRun w0 w1 else v.info a := by
  induction sets with
  | nil => intro v; rfl
  | cons k sets ih =>
    intro v
    obtain ⟨hk, hnd⟩ := List.nodup_cons.mp hnd
    obtain ⟨hk2, hlt⟩ := List.forall_mem_cons.mp hlt
    show ((v.setInfo k ((v.info k).afterRun w0 w1)).establish w0 w1 sets).info a = _
    rw [ih hnd hlt, info_setInfo v ha hk2]
    by_cases hak : a = k
    · subst hak
      simp [hk]
    · simp [hak]

/-- Establishing sets leaves the rest of the tile. -/
theorem establish_frame (w0 w1 : Word) (sets : List Nat) : ∀ v : Tile, ∃ i0 i1,
    v.establish w0 w1 sets = { v with info0 := i0, info1 := i1 } := by
  induction sets with
  | nil => exact fun v => ⟨v.info0, v.info1, rfl⟩
  | cons k sets ih =>
    intro v
    obtain ⟨i0, i1, h⟩ := ih (v.setInfo k ((v.info k).afterRun w0 w1))
    refine ⟨i0, i1, h.trans ?_⟩
    unfold Tile.setInfo
    split <;> rfl

theorem mxSets_nodup (w0 w1 : Word) : (mxSets w0 w1).Nodup := by
  unfold mxSets
  split
  · decide
  · exact List.nodup_cons.mpr ⟨List.not_mem_nil, List.nodup_nil⟩

theorem mxSets_lt {w0 w1 : Word} : ∀ k ∈ mxSets w0 w1, k < 2 := by
  unfold mxSets
  split
  · decide
  · exact fun k hk => List.mem_singleton.mp hk ▸ mxSet_lt w0

/-- A tile whose engine an operation has taken for `occ` clock beats from the beat in progress on (R130), with its counters. -/
def Machine.Tile.taken (v : Tile) (occ : Nat) (c : SMap Nat) : Tile :=
  { v with mx := { v.mx with ramped := false, busy := v.now + occ, idle := 0, cold := false }, ctr := c }

/-- Tile `t` of `s` becomes `v` with its engine taken; besides, metered tokens may change. -/
structure EngineTaken (s u : State) (t : Nat) (v : Tile) (occ : Nat) : Prop where
  tile : ∃ c, u.tile t = v.taken occ c
  other : ∀ j, j ≠ t → u.tile j = s.tile j
  rest : u = { s with tiles := u.tiles, parts := u.parts }

theorem mxTokens_tile (s : State) (t b : Nat) (plan : Bool) (j : Nat) : (s.mxTokens t b plan).tile j = s.tile j := by
  unfold State.mxTokens
  split <;> rfl

theorem mxTokens_rest (s : State) (t b : Nat) (plan : Bool) : s.mxTokens t b plan = { s with parts := (s.mxTokens t b plan).parts } := by
  unfold State.mxTokens
  split <;> rfl

/-- An operation that occupies the engine takes it. -/
theorem mxActive_taken (s : State) (t occ : Nat) : EngineTaken s (s.mxActive t occ) t (s.tile t) occ := by
  unfold State.mxActive State.mxBusy
  refine ⟨?_, fun j hj => ?_, ?_⟩
  · rw [mxTokens_tile, State.tile_modTile_self, State.tile_modTile_self]
    exact ⟨_, rfl⟩
  · rw [mxTokens_tile, State.tile_modTile_ne _ _ hj, State.tile_modTile_ne _ _ hj]
  · rw [mxTokens_rest]
    rfl

/-- An event counted on the tile leaves its engine as it was. -/
theorem EngineTaken.count {s u : State} {t occ : Nat} {v : Tile} (h : EngineTaken s u t v occ) (k : TileCtr) (n : Nat) :
    EngineTaken s (u.tileCount t k n) t v occ := by
  obtain ⟨c, hc⟩ := h.tile
  unfold State.tileCount
  refine ⟨?_, fun j hj => ?_, ?_⟩
  · rw [State.tile_modTile_self, hc]
    exact ⟨_, rfl⟩
  · rw [State.tile_modTile_ne _ _ hj, h.other j hj]
  · rw [h.rest]
    rfl

/-- A tile rewritten before its engine is taken. -/
theorem EngineTaken.of_modTile {s u : State} {t occ : Nat} {f : Tile → Tile} (h : EngineTaken (s.modTile t f) u t ((s.modTile t f).tile t) occ) :
    EngineTaken s u t (f (s.tile t)) occ := by
  refine ⟨?_, fun j hj => ?_, ?_⟩
  · rw [← State.tile_modTile_self s t f]
    exact h.tile
  · rw [h.other j hj, State.tile_modTile_ne _ _ hj]
  · rw [h.rest]
    rfl

/-- An MXR that meets no matrix fault establishes its sets, takes the engine for its occupancy and captures its first read. -/
theorem mxr_issued {s : State} {t : Nat} {e : QEntry} (h : Issues s t .mx 1 e)
    (hf : (s.tile t).mxrFault e.w0 e.w1 ((s.tile t).s (mxAreg e.w1)) = none) : ∃ u w, exec (.mxr t) s = .next u ∧
    EngineTaken s w t ((s.tile t).establish e.w0 e.w1 (mxSets e.w0 e.w1)) (s.tscale t * s.occ t .mx e.w0 e.w1) ∧
    Issued w u t .mx e (s.tscale t * (s.occ t .mx e.w0 e.w1 + 13)) (s.tscale t * s.occ t .mx e.w0 e.w1) 0
      [.mxr { w0 := e.w0, w1 := e.w1, d := (s.tile t).s (mxAreg e.w1), wbase := (s.tile t).mx.wbase, wblks := (s.tile t).mx.wblks,
              ks := [(s.tile t).readStep e.w0 e.w1 ((s.tile t).s (mxAreg e.w1)) (s.tile t).mx.wbase (s.tile t).mx.wblks 0],
              reads := 1, upd := 0, sat := false, inv := false }] := by
  obtain ⟨hi, hop, hs⟩ := h
  refine ⟨_, _, rfl, .of_modTile (f := fun v => v.establish e.w0 e.w1 (mxSets e.w0 e.w1)) (mxActive_taken _ t _), issued_of_go hi hop ?_ ?_ rfl⟩
  · simp only [hs, hf, Bool.false_eq_true, if_false]
    rfl
  · simp [State.lat, State.latPub, hop]

theorem warm_issued {s : State} {t : Nat} {e : QEntry} (h : Issues s t .mx 2 e) : ∃ u w, exec (.warm t) s = .next u ∧
    EngineTaken s w t (s.tile t) (s.tscale t * 32) ∧ Issued w u t .mx e (s.tscale t * 32) (s.tscale t * 32) 0 [] := by
  obtain ⟨hi, hop, hs⟩ := h
  have hocc : s.occ t .mx e.w0 e.w1 = 32 := by simp [State.occ, hop]
  refine ⟨_, _, rfl, (mxActive_taken s t _).count .mxWarm 1, issued_of_go hi hop ?_ ?_ (by rw [hocc])⟩
  · rw [hocc]
  · simp [State.lat, State.latPub, hop]

/-- An MXCFG that names the ring in force changes nothing; one that names another, with no run in flight, sets it (R115, R153). -/
theorem mxcfg_issued {s : State} {t : Nat} {e : QEntry} (h : Issues s t .mx 3 e)
    (hrun : ¬ (mxcfgBase e.w0 = (s.tile t).mx.wbase ∧ mxcfgBlks e.w0 = (s.tile t).mx.wblks) → (s.tile t).runInFlight = false) :
    ∃ u, exec (.mxcfg t) s = .next u ∧ Issued s u t .mx e (s.tscale t) (s.tscale t) 0
      (if mxcfgBase e.w0 = (s.tile t).mx.wbase ∧ mxcfgBlks e.w0 = (s.tile t).mx.wblks then []
       else [.ring (mxcfgBase e.w0) (mxcfgBlks e.w0)]) := by
  obtain ⟨hi, hop, hs⟩ := h
  refine ⟨_, rfl, issued_of_go hi hop ?_ (by simp [State.lat, State.latPub, hop]) (by simp [State.occ, hop])⟩
  simp only [hs, Bool.false_eq_true, false_or]
  by_cases hsame : mxcfgBase e.w0 = (s.tile t).mx.wbase ∧ mxcfgBlks e.w0 = (s.tile t).mx.wblks
  · rw [if_pos hsame, if_pos hsame]
  · rw [if_neg hsame, if_neg hsame, hrun hsame]
    rfl

/-- Settles O7: the three issues are `mxr_issued`, `warm_issued` and `mxcfg_issued`; the sets that an MXR establishes by `info_establish`, and what
the engine's taking leaves of the state and the tile by `EngineTaken`. -/
theorem matrixRunIssues : Obligations.MatrixRunIssues := by
  intro s t e v k d n rate occ sets mode steps active
  have hactive : ∀ (i0 i1 : SlabInfo) (w : State) (o : Nat), EngineTaken s w t { v with info0 := i0, info1 := i1 } (k * o) → active w o := by
    intro i0 i1 w o h
    obtain ⟨c, ht⟩ := h.tile
    refine ⟨by rw [h.rest], by rw [h.rest], by rw [h.rest], by rw [h.rest], by rw [h.rest], by rw [h.rest], by rw [h.rest], h.other, ?_⟩
    rw [ht]
    exact ⟨rfl, rfl, rfl, rfl, rfl, rfl, rfl, rfl, rfl, rfl, rfl, rfl, rfl⟩
  refine ⟨fun h hf => ?_, fun h => ?_, fun h hb hn => ?_, fun h hne hrun => ?_⟩
  · have hocc : s.occ t .mx e.w0 e.w1 = occ := if_pos h.2.1
    obtain ⟨u, w, hx, hw, hissued⟩ := mxr_issued h hf
    obtain ⟨i0, i1, hest⟩ := establish_frame e.w0 e.w1 (mxSets e.w0 e.w1) v
    rw [hocc] at hw hissued
    refine ⟨u, w, hx, hactive i0 i1 w occ (hest ▸ hw), fun set hset => ?_, hissued⟩
    obtain ⟨c, ht⟩ := hw.tile
    rw [ht]
    exact info_establish e.w0 e.w1 hset (mxSets_nodup ..) mxSets_lt v
  · obtain ⟨u, w, hx, hw, hissued⟩ := warm_issued h
    obtain ⟨c, ht⟩ := hw.tile
    exact ⟨u, w, hx, hactive v.info0 v.info1 w 32 hw, fun set => by rw [ht]; rfl, hissued⟩
  · have hissued := mxcfg_issued h fun hne => absurd ⟨hb, hn⟩ hne
    rwa [if_pos ⟨hb, hn⟩] at hissued
  · have hissued := mxcfg_issued h fun _ => hrun
    rwa [if_neg hne] at hissued

/-! ### The engine's activity (R130, R132) -/

/-- Settles O10: each command acts just where its event is due. -/
theorem engineActivity : Obligations.EngineActivity := by
  intro s t v
  refine ⟨fun h => ?_, fun h => ?_, fun h => ?_⟩
  · exact congrArg Host.Outcome.next (if_pos h)
  · exact congrArg Host.Outcome.next (if_neg (Nat.not_le.mpr h))
  · exact congrArg Host.Outcome.next (if_pos h)

end Sys2Proof
end

section
namespace Sys2Proof

open Machine

/-! ### Operations with no published latency: all of it is scaled under the hazard detector (R63, R138, Table 5.1) -/

/-- `issued_of_go` where the identity data publish no part of the latency. -/
theorem issued_unpublished {s w : State} {t : Nat} {q : Queue} {op : Nat} {e : QEntry} {act : State → QEntry → Act} {eff : List Effect}
    {need lat occ : Nat} (h : Issues s t q op e) (ha : act s e = .go w eff need) (hpub : s.latPub t q e.w0 e.w1 e.aux = 0)
    (hlat : s.lat t q e.w0 e.w1 e.aux = lat) (hocc : s.occ t q e.w0 e.w1 = occ) :
    Issued w (s.issue t q op act) t q e (s.tscale t * lat) (s.tscale t * occ) need eff := by
  obtain ⟨hi, hop, -⟩ := h
  exact issued_of_go hi hop ha (by simp [hpub, hlat]) (by rw [hocc])

/-- The same of an operation that occupies its unit for 1 b. -/
theorem issued_one_beat {s w : State} {t : Nat} {q : Queue} {op : Nat} {e : QEntry} {act : State → QEntry → Act} {eff : List Effect}
    {need lat : Nat} (h : Issues s t q op e) (ha : act s e = .go w eff need) (hpub : s.latPub t q e.w0 e.w1 e.aux = 0)
    (hlat : s.lat t q e.w0 e.w1 e.aux = lat) (hocc : s.occ t q e.w0 e.w1 = 1) :
    Issued w (s.issue t q op act) t q e (s.tscale t * lat) (s.tscale t) need eff := by
  have hi := issued_unpublished h ha hpub hlat hocc
  rwa [Nat.mul_one] at hi

theorem pureAct_go {s : State} {e : QEntry} (f : State → QEntry → List Effect) (hs : e.skip = false) : pureAct f s e = .go s (f s e) 0 := by
  simp [pureAct, hs]

/-! ### Scalar operations (R138 to R140, Table 5.2) -/

/-- A scalar operation completes 1 b after issue, MUL 3 b (R138), and its issue changes nothing else. -/
theorem scalar_issued {s : State} {t op : Nat} {e : QEntry} {f : State → QEntry → List Effect} {eff : List Effect}
    (h : Issues s t .sc op e) (hf : f s e = eff) :
    Issued s (s.issue t .sc op (pureAct f)) t .sc e (s.tscale t * if op = 0xB then 3 else 1) (s.tscale t) 0 eff := by
  have ⟨_, hcode, hs⟩ := h
  have hlat : s.lat t .sc e.w0 e.w1 e.aux = if op = 0xB then 3 else 1 := by simp [State.lat, hcode]
  exact hf ▸ issued_one_beat h (pureAct_go f hs) rfl hlat rfl

/-- The same of one with a latency of 1 b. -/
theorem scalar_issued_one {s : State} {t op : Nat} {e : QEntry} {f : State → QEntry → List Effect} {eff : List Effect}
    (h : Issues s t .sc op e) (hop : op ≠ 0xB) (hf : f s e = eff) :
    Issued s (s.issue t .sc op (pureAct f)) t .sc e (s.tscale t) (s.tscale t) 0 eff := by
  have hi := scalar_issued h hf
  rwa [if_neg hop, Nat.mul_one] at hi

/-- A scalar operation that writes a function of its operands makes its value visible in sd. -/
theorem scOp_issued {s : State} {t op : Nat} {e : QEntry} {f : DWord → DWord → DWord} {x : DWord} (h : Issues s t .sc op e)
    (hf : f ((s.tile t).scA e) ((s.tile t).scB e) = x) :
    Issued s (s.scOp t op f) t .sc e (s.tscale t * if op = 0xB then 3 else 1) (s.tscale t) 0 [.sreg (scD e) x] :=
  scalar_issued h (by rw [hf])

theorem sub_eq_ofInt (a b : DWord) : a - b = BitVec.ofInt 64 ((a.toNat : Int) - b.toNat) := by
  apply BitVec.eq_of_toInt_eq
  rw [BitVec.toInt_sub, BitVec.toInt_ofInt, BitVec.toInt_eq_toNat_bmod, BitVec.toInt_eq_toNat_bmod, Int.bmod_sub_bmod, Int.sub_bmod_bmod]

theorem shiftLeft_eq_ofNat (a : DWord) (n : Nat) : a <<< n = BitVec.ofNat 64 (a.toNat * 2 ^ n) := by
  apply BitVec.eq_of_toNat_eq
  rw [BitVec.toNat_shiftLeft, BitVec.toNat_ofNat, Nat.shiftLeft_eq]

theorem ushiftRight_eq_ofNat (a : DWord) (n : Nat) : a >>> n = BitVec.ofNat 64 (a.toNat / 2 ^ n) := by
  rw [← Nat.shiftRight_eq_div_pow, ← BitVec.toNat_ushiftRight, BitVec.ofNat_toNat, BitVec.setWidth_eq]

theorem sshiftRight_eq_ofInt (a : DWord) (n : Nat) : a.sshiftRight n = BitVec.ofInt 64 (a.toInt / 2 ^ n) := by
  have h := Int.shiftRight_eq_div_pow a.toInt n
  exact congrArg (BitVec.ofInt 64) h

/-- The conditions of SETP on the numbers that the operands stand for (Table 5.2). -/
theorem setpCond_lt (a b : DWord) : setpCond 2 a b = decide (a.toInt < b.toInt) := rfl
theorem setpCond_ge (a b : DWord) : setpCond 3 a b = decide (b.toInt ≤ a.toInt) := by
  change (!decide (a.toInt < b.toInt)) = _
  rw [← decide_not, decide_eq_decide]
  exact Int.not_lt
theorem setpCond_below (a b : DWord) : setpCond 4 a b = decide (a.toNat < b.toNat) := rfl
theorem setpCond_above (c : Nat) (a b : DWord) : setpCond (c + 5) a b = decide (b.toNat ≤ a.toNat) := by
  change (!decide (a.toNat < b.toNat)) = _
  rw [← decide_not, decide_eq_decide]
  exact Nat.not_lt

/-- Settles O1: each operation is `scOp_issued` with its value as a number; SETP is `scalar_issued` with the case of its condition. -/
theorem scalarOperations : Obligations.ScalarOperations := by
  intro s t e a b d k res
  refine ⟨fun h => ⟨_, rfl, scOp_issued h (BitVec.add_def ..)⟩, fun h => ⟨_, rfl, scOp_issued h (sub_eq_ofInt ..)⟩,
    fun h => ⟨_, rfl, scOp_issued h (BitVec.mul_def ..)⟩, fun h => ⟨_, rfl, scOp_issued h (shiftLeft_eq_ofNat ..)⟩,
    fun h => ⟨_, rfl, scOp_issued h (ushiftRight_eq_ofNat ..)⟩, fun h => ⟨_, rfl, scOp_issued h (sshiftRight_eq_ofInt ..)⟩,
    fun h => ⟨_, rfl, scalar_issued h (congrArg (fun x => [Effect.pred d x]) ?_)⟩⟩
  change setpCond (fld e.w0 29 3) a b = _
  rcases fld e.w0 29 3 with _ | _ | _ | _ | _ | c
  · rfl
  · rfl
  · exact setpCond_lt a b
  · exact setpCond_ge a b
  · exact setpCond_below a b
  · exact setpCond_above c a b

/-- LIH puts its word above the low half of the register. -/
theorem append_low_eq_ofNat (w : Word) (x : DWord) : w ++ x.extractLsb' 0 32 = BitVec.ofNat 64 (w.toNat * 2 ^ 32 + x.toNat % 2 ^ 32) := by
  apply BitVec.eq_of_toNat_eq
  have hw := w.isLt
  have hx : (x.extractLsb' 0 32).toNat < 2 ^ 32 := BitVec.isLt _
  rw [BitVec.toNat_append, Nat.shiftLeft_eq, Nat.mul_comm, ← Nat.two_pow_add_eq_or_of_lt hx, BitVec.extractLsb'_toNat, Nat.shiftRight_zero,
    BitVec.toNat_ofNat]
  omega

/-- Settles O2: each move is `scalar_issued_one` with its value; PLOG has the case of its combination. -/
theorem scalarMoves : Obligations.ScalarMoves := by
  intro s t e a b d old pa pb k res
  refine ⟨fun h => ⟨_, rfl, scalar_issued_one h (by decide) rfl⟩, fun h => ⟨_, rfl, scalar_issued_one h (by decide) rfl⟩,
    fun h => ⟨_, rfl, scalar_issued_one h (by decide) (congrArg (fun x => [Effect.sreg d x]) (append_low_eq_ofNat e.w1 old))⟩,
    fun h => ⟨_, rfl, scalar_issued_one h (by decide) rfl⟩, fun h => ⟨_, rfl, scalar_issued_one h (by decide) rfl⟩,
    fun h => ⟨_, rfl, scalar_issued_one h (by decide) rfl⟩,
    fun h => ⟨_, rfl, scalar_issued_one h (by decide) (congrArg (fun x => [Effect.pred d x]) ?_)⟩⟩
  change plogComb (fld e.w0 29 3) pa pb = _
  rcases fld e.w0 29 3 with _ | _ | _ | c <;> rfl

end Sys2Proof
end

section
namespace Sys2Proof

open Machine

/-! ### Vector operations on lanes (R143 to R147, Tables 5.1 and 5.5) -/

/-- What a lane operation occupies and when it completes: 5 b after its VN beats, VFN 9 b and VRED 7 b (Table 5.1). -/
theorem lanewise_issued {s : State} {t op : Nat} {e : QEntry} {f : State → QEntry → List Effect} {eff : List Effect}
    (h : Issues s t .ve op e) (hop : op < 0x10) (hf : f s e = eff) :
    Issued s (s.issue t .ve op (pureAct f)) t .ve e (s.tscale t * (veN e.w0 + if op = 8 then 9 else if op = 9 then 7 else 5))
      (s.tscale t * veN e.w0) 0 eff := by
  have ⟨_, hcode, hs⟩ := h
  have h10 : op ≠ 0x10 := by omega
  have h11 : op ≠ 0x11 := by omega
  have h12 : op ≠ 0x12 := by omega
  have hocc : s.occ t .ve e.w0 e.w1 = veN e.w0 := by simp [State.occ, hcode, h10, h11, h12]
  have hlat : s.lat t .ve e.w0 e.w1 e.aux = veN e.w0 + if op = 8 then 9 else if op = 9 then 7 else 5 := by
    simp only [State.lat, hcode, hocc, h10, h11, h12, decide_false, Bool.or_self, Bool.false_eq_true, if_false]
    by_cases h8 : op = 8
    · rw [if_pos h8, if_pos h8]
    · rw [if_neg h8, if_neg h8]
      by_cases h9 : op = 9
      · rw [if_pos h9, if_pos h9]
      · rw [if_neg h9, if_neg h9]
  exact hf ▸ issued_unpublished h (pureAct_go f hs) rfl hlat hocc

/-- A piece of a list that a function of the index makes. -/
theorem drop_take_map_range {α : Type} (f : Nat → α) {n o k : Nat} (h : o + k ≤ n) :
    (((List.range n).map f).drop o).take k = (List.range k).map fun j => f (o + j) := by
  apply List.ext_getElem
  · simp only [List.length_take, List.length_drop, List.length_map, List.length_range]
    omega
  · intro j _ _
    simp only [List.getElem_take, List.getElem_drop, List.getElem_map, List.getElem_range]

theorem drop_take_opndRd (v : Tile) {off n o k : Nat} (h : o + k ≤ n) : ((v.opndRd off n).drop o).take k = v.opndRd (off + o) k := by
  unfold Tile.opndRd
  simp only [drop_take_map_range _ h, Nat.add_assoc]

/-- TYPE's elements are 2 or 4 bytes wide. -/
theorem typeWidth_bytes (ty : Nat) : 8 * (typeWidth ty / 8) = typeWidth ty := by
  unfold typeWidth
  split <;> rfl

/-- Vector `i` of `n` vectors of `l` lanes lies within them. -/
theorem vector_within {i n : Nat} (l : Nat) (hi : i < n) : i * l + l ≤ n * l := by
  rw [← Nat.succ_mul]
  exact Nat.mul_le_mul_right l hi

/-- The elements of a vector operation are the lanes from its unit on, in order. -/
theorem veSrc_eq (v : Tile) (w0 : Word) (unit : Nat) : v.veSrc w0 unit = (List.range (veCount w0)).map (laneAt v w0 unit) := by
  unfold Tile.veSrc Tile.lanes
  rw [List.map_map]
  apply List.map_congr_left
  intro i hi
  have hlt : i < veCount w0 := List.mem_range.mp hi
  have hw := typeWidth_bytes (veType w0)
  have hb : typeWidth (veType w0) * veCount w0 / 8 = typeWidth (veType w0) / 8 * veCount w0 := by
    rw [← hw, Nat.mul_assoc, Nat.mul_div_cancel_left _ (by decide), Nat.mul_div_cancel_left _ (by decide)]
  have hfit : i * (typeWidth (veType w0) / 8) + typeWidth (veType w0) / 8 ≤ typeWidth (veType w0) * veCount w0 / 8 := by
    rw [hb, Nat.mul_comm _ (veCount w0)]
    exact vector_within _ hlt
  simp only [Function.comp, laneAt, natAt, drop_take_opndRd v hfit]

/-- Two operands' elements, paired, are the lanes paired. -/
theorem veSrc_zip (v : Tile) (w0 : Word) (a b : Nat) : (v.veSrc w0 a).zip (v.veSrc w0 b) =
    (List.range (veCount w0)).map fun i => (laneAt v w0 a i, laneAt v w0 b i) := by
  rw [veSrc_eq, veSrc_eq, List.zip_map']

/-- What a lane operation makes visible, given the code of each lane. -/
theorem veOut_map (w0 w1 : Word) (c : Nat → Nat) : veOut w0 w1 ((List.range (veCount w0)).map c) =
    [.opnd (256 * veD w1) ((List.range (veN w0 * typeLanes (veType w0))).flatMap fun i => toLE (typeWidth (veType w0) / 8) (c i))] := by
  unfold veOut
  rw [List.flatMap_map]
  rfl

/-- A lane-wise operation on VA and VB, rounded once to TYPE (R144). -/
theorem veBin_issued {s : State} {t op : Nat} {e : QEntry} (f : FV → FV → FV) (h : Issues s t .ve op e) (hop : op < 0x10) :
    Issued s (s.veBin t op f) t .ve e (s.tscale t * (veN e.w0 + if op = 8 then 9 else if op = 9 then 7 else 5)) (s.tscale t * veN e.w0) 0
      [.opnd (256 * veD e.w1) (lanesOut e.w0 fun i => f (laneAt (s.tile t) e.w0 (veA e.w1) i) (laneAt (s.tile t) e.w0 (veB e.w1) i))] := by
  refine lanewise_issued h hop ?_
  simp only [veSrc_zip, List.map_map]
  exact veOut_map ..

/-- Settles O4: the operations on VA and VB are `veBin_issued`; the others are `lanewise_issued` with what they make of each lane. -/
theorem vectorLanes : Obligations.VectorLanes := by
  intro s t e v a b d f k n res
  refine ⟨fun h => ⟨_, rfl, veBin_issued _ h (by decide)⟩, fun h => ⟨_, rfl, veBin_issued _ h (by decide)⟩,
    fun h => ⟨_, rfl, veBin_issued _ h (by decide)⟩, fun h => ⟨_, rfl, lanewise_issued h (by decide) ?_⟩,
    fun h => ⟨_, rfl, veBin_issued _ h (by decide)⟩, fun h => ⟨_, rfl, veBin_issued _ h (by decide)⟩,
    fun h => ⟨_, rfl, lanewise_issued h (by decide) ?_⟩, fun h => ⟨_, rfl, lanewise_issued h (by decide) ?_⟩⟩
  all_goals
    simp only [veSrc_eq, List.zip_map', List.map_map]
    exact veOut_map ..

/-- Settles O5: VRED takes its lanes vector by vector (`drop_take_map_range`), VCVT one after the other. -/
theorem vectorReduceAndConvert : Obligations.VectorReduceAndConvert := by
  intro s t e v a l k n
  refine ⟨fun h => ⟨_, rfl, lanewise_issued h (by decide) ?_⟩, fun h => ⟨_, rfl, lanewise_issued h (by decide) ?_⟩⟩
  · simp only [veSrc_eq, List.map_map, List.flatMap_map]
    refine congrArg (fun x => [Effect.opnd (256 * veD e.w1) (List.flatten x)]) (List.map_congr_left fun i hi => ?_)
    rw [veCount, drop_take_map_range _ (vector_within l (List.mem_range.mp hi))]
    rfl
  · simp only [veSrc_eq, List.map_map]
    rfl

/-! ### Operations on slab sets (R123, R148, R150) -/

/-- VSLB and VSLD complete 6 b after their occupancy (Table 5.1). -/
theorem slabRow_latency {s : State} {t op occ : Nat} {e : QEntry} (h : Issues s t .ve op e) (hop : op = 0x10 ∨ op = 0x11)
    (hocc : s.occ t .ve e.w0 e.w1 = occ) : s.lat t .ve e.w0 e.w1 e.aux = occ + 6 := by
  obtain ⟨-, hcode, -⟩ := h
  rcases hop with rfl | rfl <;> simp [State.lat, hcode, hocc]

/-- One accumulator for each value that a VSLD loads. -/
theorem getElem?_vsldAccs (v : Tile) (w0 w1 : Word) {j : Nat} (hj : j < vslbRows w0 * 64) :
    let sz := if vsldRaw64 w0 then 8 else 16
    let x := leNat (((v.opndRd (256 * veD w1) (vslbRows w0 * 64 * sz)).drop (j * sz)).take sz)
    (v.vsldAccs w0 w1)[j]? = some
      (if vsldFloat w0 then { a := BitVec.ofNat 128 (x % 2 ^ 32), sat := false, inv := false } else vsldAcc (sval (8 * sz) x)) := by
  intro sz x
  unfold Tile.vsldAccs
  rw [List.getElem?_map, List.getElem?_range hj]
  rfl

/-- A clear of set 0, of set 1, of both or of neither. -/
theorem setInfo_resets (v : Tile) (a0 a1 : Bool) :
    (if a1 then (if a0 then v.setInfo 0 SlabInfo.reset else v).setInfo 1 SlabInfo.reset else if a0 then v.setInfo 0 SlabInfo.reset else v) =
    { v with info0 := if a0 then SlabInfo.reset else v.info0, info1 := if a1 then SlabInfo.reset else v.info1 } := by
  cases a0 <;> cases a1 <;> rfl

/-- Settles O6: VSLB makes nothing but its rows visible, VSLD meets none of its set's faults (R123, R150), and VSCLR is `setInfo_resets`. -/
theorem slabSetOperations : Obligations.SlabSetOperations := by
  intro s t e v k set rows
  refine ⟨?_, ?_, ?_⟩
  · intro h
    have ⟨_, hcode, hs⟩ := h
    have hocc : s.occ t .ve e.w0 e.w1 = rows * tfmtBpr (vslbTfmt e.w0) := by simp [State.occ, hcode, rows]
    exact ⟨_, rfl, issued_unpublished h (pureAct_go _ hs) rfl (slabRow_latency h (.inl rfl) hocc) hocc⟩
  · intro h i mode dep sz occ src hset hdep
    have ⟨_, hcode, hs⟩ := h
    have hocc : s.occ t .ve e.w0 e.w1 = occ := by simp [State.occ, hcode, occ, rows]
    have hwb : ¬ (i.mode ≠ .clear ∧ i.wb ≠ vsldWb e.w0) := fun hne => hset.elim hne.1 fun hsame => hne.2 hsame.1
    have hmode : ¬ (i.mode ≠ .clear ∧ i.mode ≠ mode) := fun hne => hset.elim hne.1 fun hsame => hne.2 hsame.2
    refine ⟨_, v.vsldAccs e.w0 e.w1, rfl, issued_unpublished h ?_ rfl (slabRow_latency h (.inr rfl) hocc) hocc, ?_, fun j hj => ?_⟩
    · simp only [hs, Bool.false_eq_true, if_false]
      exact (if_neg hwb).trans ((if_neg hmode).trans (if_neg (Nat.not_lt.mpr hdep)))
    · simp [Tile.vsldAccs, rows]
    · exact getElem?_vsldAccs v e.w0 e.w1 hj
  · intro h a0 a1
    obtain ⟨hi, hcode, hs⟩ := h
    refine ⟨_, rfl, issued_of_go hi hcode ?_ (by simp [State.lat, State.latPub, hcode, k]) (by simp [State.occ, hcode, k])⟩
    simp only [hs, Bool.false_eq_true, if_false]
    rw [← setInfo_resets v a0 a1]
    rfl

end Sys2Proof
end

section
namespace Sys2Proof

open Machine

/-! ### Reads of a Loft that meet no error mark (R155, R184, R185) -/

theorem badIn_eq_none {s : State} {a n : Nat} : s.badIn a n = none ↔ ∀ x ∈ s.dev.bad, ¬ (a ≤ x ∧ x < a + n) := by
  simp [State.badIn, List.find?_eq_none]

/-- A range without error marks holds none that stops a read and none that a read corrects. -/
theorem unmarked {s : State} {a n : Nat} (hc : ∀ x, a ≤ x → x < a + n → x ∉ s.dev.bad ∧ x ∉ s.dev.soft) :
    s.badIn a n = none ∧ ∀ x ∈ s.dev.soft, ¬ (a ≤ x ∧ x < a + n) :=
  ⟨badIn_eq_none.mpr fun x hx hr => (hc x hr.1 hr.2).1 hx, fun x hx hr => (hc x hr.1 hr.2).2 hx⟩

/-- A read with nothing to correct leaves the state as it was (R184). -/
theorem loftSoft_clean {s : State} {t off n : Nat} (h : ∀ x ∈ s.dev.soft, ¬ (loftAddr t off ≤ x ∧ x < loftAddr t off + n)) :
    s.loftSoft t off n = s := by
  have hnil : (s.dev.soft.filter fun x => decide (loftAddr t off ≤ x ∧ x < loftAddr t off + n)) = [] :=
    List.filter_eq_nil_iff.mpr fun x hx => by simpa using h x hx
  unfold State.loftSoft
  simp only [hnil, List.foldl_nil]

theorem tagSoft_clean {s : State} {t slot n : Nat} (h : ∀ i, i < n → (t, slot + i) ∉ s.dev.softTag) : s.tagSoft t slot n = s := by
  have hmiss : ∀ x ∈ s.dev.softTag, ¬ (x.1 = t ∧ slot ≤ x.2 ∧ x.2 < slot + n) := by
    rintro ⟨j, k⟩ hx ⟨rfl, hlo, hhi⟩
    refine h (k - slot) (by omega) ?_
    rwa [Nat.add_sub_cancel' hlo]
  have hnil : (s.dev.softTag.filter fun x => decide (x.1 = t ∧ slot ≤ x.2 ∧ x.2 < slot + n)) = [] :=
    List.filter_eq_nil_iff.mpr fun x hx => by simpa using hmiss x hx
  have hall : (s.dev.softTag.filter fun x => !decide (x.1 = t ∧ slot ≤ x.2 ∧ x.2 < slot + n)) = s.dev.softTag :=
    List.filter_eq_self.mpr fun x hx => by rw [decide_eq_false (hmiss x hx), Bool.not_false]
  unfold State.tagSoft State.modDev
  simp only [hnil, hall, List.foldl_nil]

/-- An aligned range that ends at or below the Landing meets no access fault. -/
theorem loftFault_none {off n align : Nat} (ha : off % align = 0) (hn : off + n ≤ 0xF0000) (landing : Bool) :
    loftFault off n align landing = none := by
  have hl : inLanding off n = false := decide_eq_false (by omega)
  have hw : off + n ≤ 1048576 := by omega
  simp [loftFault, ha, hl, hw]

/-- A load of such a range with no error mark goes on with its bytes. -/
theorem loftLoad_clean {s : State} {t off n align : Nat} (e : QEntry) (f : List Byte → List Effect) (ha : off % align = 0)
    (hn : off + n ≤ 0xF0000) (hc : ∀ x, loftAddr t off ≤ x → x < loftAddr t off + n → x ∉ s.dev.bad ∧ x ∉ s.dev.soft) :
    s.loftLoad t e off n align f = .go s (f (s.rd (loftAddr t off) n)) 0 := by
  obtain ⟨hbad, hsoft⟩ := unmarked hc
  simp only [State.loftLoad, loftFault_none ha hn, hbad, loftSoft_clean hsoft]

/-- Slots whose tags are as expected, with no error mark, are read (R157). -/
theorem readSlots_clean {s : State} {t slot n ep : Nat} (ht : ∀ i, i < n → (s.tile t).tagOf (slot + i) = ep ∧ (t, slot + i) ∉ s.dev.badTag)
    (hbad : s.badIn (loftAddr t (0xF0000 + 256 * slot)) (256 * n) = none) :
    s.readSlots t slot n ep = .inr (s.rd (loftAddr t (0xF0000 + 256 * slot)) (256 * n)) := by
  have hslots : ∀ k ∈ (List.range n).map fun i => slot + i, (s.tile t).tagOf k = ep ∧ (t, k) ∉ s.dev.badTag := by
    intro k hk
    obtain ⟨i, hi, rfl⟩ := List.mem_map.mp hk
    exact ht i (List.mem_range.mp hi)
  have htag : (((List.range n).map fun i => slot + i).find? fun k => s.dev.badTag.contains (t, k)) = none :=
    List.find?_eq_none.mpr fun k hk => by simpa using (hslots k hk).2
  have hep : (((List.range n).map fun i => slot + i).find? fun k => decide ((s.tile t).tagOf k ≠ ep)) = none :=
    List.find?_eq_none.mpr fun k hk => by simpa using (hslots k hk).1
  simp only [State.readSlots, htag, hep, hbad]

/-- With the hazard detector off, reads of slots are not recorded (R64). -/
theorem hzdReads_off {s : State} {t : Nat} (h : ∀ p, s.partOf t = some p → (s.part p).run.hzd = false) (slot n ep iaddr : Nat) :
    s.hzdReads t slot n ep iaddr = s := by
  unfold State.hzdReads
  split
  · rfl
  · rename_i p hp
    have hread : ∀ i, s.hzdRead p t (slot + i) ep iaddr = s := fun i => by
      unfold State.hzdRead
      simp only [h p hp, Bool.not_false, if_true]
    induction List.range n with
    | nil => rfl
    | cons i l ih => rw [List.foldl_cons, hread, ih]

/-- Settles O11: LDL and LDS through `loftLoad_clean`, LDG through `readSlots_clean`; nothing is recorded or corrected. -/
theorem loftLoads : Obligations.LoftLoads := by
  intro s t e v k clean busy
  refine ⟨?_, ?_, ?_⟩
  · intro h off n occ ha hn hc
    have ⟨_, hcode, hs⟩ := h
    have hocc : s.occ t .ld e.w0 e.w1 = occ := by simp [State.occ, hcode, occ]
    have hlat : s.lat t .ld e.w0 e.w1 e.aux = occ := by simp [State.lat, hcode, hocc]
    have hpub : s.latPub t .ld e.w0 e.w1 e.aux = 0 := by simp [State.latPub, hcode]
    refine ⟨_, rfl, issued_unpublished h ?_ hpub hlat hocc⟩
    simp only [hs, Bool.false_eq_true, if_false]
    rw [loftLoad_clean e _ ha hn hc, hocc]
    rfl
  · intro h off ha hn hc
    have ⟨_, hcode, hs⟩ := h
    have hlat : s.lat t .ld e.w0 e.w1 e.aux = 3 := by simp [State.lat, hcode]
    have hpub : s.latPub t .ld e.w0 e.w1 e.aux = 0 := by simp [State.latPub, hcode]
    refine ⟨_, rfl, issued_one_beat h ?_ hpub hlat (by simp [State.occ, hcode])⟩
    simp only [hs, Bool.false_eq_true, if_false]
    rw [loftLoad_clean e _ ha hn hc]
    rfl
  · intro h ep slot n a hn hz ht hc
    have ⟨_, hcode, hs⟩ := h
    have hocc : s.occ t .ld e.w0 e.w1 = ceilDiv n 2 := by simp [State.occ, hcode, n]
    have hlat : s.lat t .ld e.w0 e.w1 e.aux = ceilDiv n 2 := by simp [State.lat, hcode, hocc]
    have hpub : s.latPub t .ld e.w0 e.w1 e.aux = 0 := by simp [State.latPub, hcode]
    obtain ⟨hbad, hsound⟩ := unmarked hc
    have hread : s.readSlots t slot n ep = .inr (s.rd a (256 * n)) :=
      readSlots_clean (fun i hi => (ht i hi).imp_right And.left) hbad
    have hsoft : s.slotSoft t slot n = s := by
      unfold State.slotSoft
      rw [loftSoft_clean hsound, tagSoft_clean fun i hi => (ht i hi).right.right]
    refine ⟨_, rfl, issued_unpublished h ?_ hpub hlat hocc⟩
    simp only [hs, Bool.false_eq_true, if_false, hzdReads_off hz]
    rw [Nat.min_eq_right hn, hread, if_neg (Nat.not_lt.mpr hn), hocc]
    change (Act.go (s.slotSoft t slot n) _ 0).loftBusy t _ = _
    rw [hsoft]
    rfl

/-! ### Stores to a Loft (R77, R158) -/

/-- A store to an aligned range that ends at or below the Landing keeps all its bytes for its completion. -/
theorem loftStore_below {s : State} {t off align : Nat} {bs : List Byte} (e : QEntry) (ha : off % align = 0) (hn : off + bs.length ≤ 0xF0000) :
    s.loftStore t e off align bs = .go s [.mem (loftAddr t off) bs] 0 := by
  have hl : inLanding off bs.length = false := decide_eq_false (by omega)
  have hparts : loftParts t off bs = [.mem (loftAddr t off) bs] := if_pos (by omega)
  simp only [State.loftStore, loftFault_none ha hn, State.countLanding, hl, hparts]
  rfl

@[simp] theorem opndRd_length (v : Tile) (off n : Nat) : (v.opndRd off n).length = n := by simp [Tile.opndRd]

@[simp] theorem toLE_length (n : Nat) : ∀ x : Nat, (toLE n x).length = n := by
  induction n with
  | zero => intro x; rfl
  | succ n ih => intro x; simp [toLE, ih]

/-- The signed value of a word is its two's-complement value. -/
theorem sval_word (w : Word) : sval 32 w.toNat = w.toInt := by
  rw [BitVec.toInt_eq_toNat_cond, sval, Nat.mod_eq_of_lt w.isLt]
  rfl

/-- Settles O13: each store is `loftStore_below`, of bytes read at issue. -/
theorem loftStores : Obligations.LoftStores := by
  intro s t e v k
  refine ⟨?_, ?_, ?_⟩
  · intro h hdig off occ ha hn
    have ⟨_, hcode, hs⟩ := h
    have hocc : s.occ t .st e.w0 e.w1 = occ := by simp [State.occ, hcode, occ]
    have hlat : s.lat t .st e.w0 e.w1 e.aux = occ := by simp [State.lat, hcode, hocc]
    have hpub : s.latPub t .st e.w0 e.w1 e.aux = 0 := by simp [State.latPub, hcode]
    refine ⟨_, rfl, issued_unpublished h ?_ hpub hlat hocc⟩
    simp only [State.withDig, hdig, hs, Bool.not_false, if_true, Bool.false_eq_true, if_false]
    exact loftStore_below e ha (by rwa [opndRd_length])
  · intro h hdig off occ bs ha hn
    have ⟨_, hcode, hs⟩ := h
    have hocc : s.occ t .st e.w0 e.w1 = occ := by simp [State.occ, hcode, occ]
    have hlat : s.lat t .st e.w0 e.w1 e.aux = occ + 6 := by simp [State.lat, hcode, hocc]
    have hpub : s.latPub t .st e.w0 e.w1 e.aux = 0 := by simp [State.latPub, hcode]
    refine ⟨_, rfl, issued_unpublished h ?_ hpub hlat hocc⟩
    simp only [State.withDig, hdig, hs, Bool.not_false, if_true, Bool.false_eq_true, if_false]
    exact loftStore_below e ha hn
  · intro h off ha hn
    have ⟨_, hcode, hs⟩ := h
    have hlat : s.lat t .st e.w0 e.w1 e.aux = 2 := by simp [State.lat, hcode]
    have hpub : s.latPub t .st e.w0 e.w1 e.aux = 0 := by simp [State.latPub, hcode]
    have hoff : v.loftOffS (ldsAreg e.w0) e.w1 = off.toNat := by rw [Tile.loftOffS, sval_word]
    refine ⟨_, rfl, issued_one_beat h ?_ hpub hlat (by simp [State.occ, hcode])⟩
    simp only [hs, Bool.false_eq_true, if_false]
    change State.loftStore s t e (v.loftOffS (ldsAreg e.w0) e.w1) 8 _ = _
    rw [hoff]
    exact loftStore_below e (by omega) (by rw [toLE_length]; omega)

/-! ### Loads and stores of the Marl (R155, R156, R166, R172) -/

/-- The `n` blocks from `a` are aligned blocks of usable Marl that the tile's partition owns (R155, R193). -/
structure OwnsMarl (s : State) (t a n : Nat) : Prop where
  aligned : a % 256 = 0
  marl : ∀ i, i < n → ∃ m o, s.region (a + 256 * i) = .marl m o
  owned : ∀ i, i < n → s.blkOwned t (a + 256 * i) = true

/-- The blocks of an operation of tile `t` on the Marl from `a` on (R172): what `execLdm` and `execStm` put on the channels. -/
def marlBlks (s : State) (t a n : Nat) (how : Nat → BlkOp) : List Blk :=
  (List.range n).map fun i => { addr := a + 256 * i, tile := t, fly := (s.tile t).nextId, op := how i }

theorem marlBlks_congr {s : State} {t a n : Nat} {f g : Nat → BlkOp} (h : ∀ i, i < n → f i = g i) : marlBlks s t a n f = marlBlks s t a n g :=
  List.map_congr_left fun i hi => by rw [h i (List.mem_range.mp hi)]

theorem OwnsMarl.noFault {s : State} {t a n : Nat} (h : OwnsMarl s t a n) : s.marlFault a n = none := by
  unfold State.marlFault
  rw [if_neg fun hne => hne h.aligned]
  refine if_pos (List.all_eq_true.mpr fun i hi => ?_)
  obtain ⟨m, o, hr⟩ := h.marl i (List.mem_range.mp hi)
  rw [hr]

/-- No block of the range is foreign. -/
theorem OwnsMarl.partition {s : State} {t a n : Nat} (h : OwnsMarl s t a n) :
    (List.range n).partition (fun i => s.blkOwned t (a + 256 * i)) = (List.range n, []) := by
  have ho : ∀ i ∈ List.range n, s.blkOwned t (a + 256 * i) = true := fun i hi => h.owned i (List.mem_range.mp hi)
  rw [List.partition_eq_filter_filter, List.filter_eq_self.mpr ho]
  exact congrArg (Prod.mk _) (List.filter_eq_nil_iff.mpr fun i hi => by simp [ho i hi])

/-- Blocks put on their channels leave every tile as it was. -/
theorem pushBlks_tile (bs : List Blk) (t : Nat) : ∀ s : State, (s.pushBlks bs).tile t = s.tile t := by
  induction bs with
  | nil => intro s; rfl
  | cons b r ih => intro s; exact ih (s.pushBlk b)

/-- An LDM puts its blocks on the channels and waits for them; with INC = 1 its scalar result is in flight beside it (R156). -/
theorem ldm_issued {s : State} {t : Nat} {e : QEntry} (h : Issues s t .ld 3 e)
    (ho : OwnsMarl s t ((s.tile t).marlAddr (lsAreg e.w0) (lsmOff e.w1)) (lsmL e.w0)) :
    let v := s.tile t
    let n := lsmL e.w0
    let a := v.marlAddr (lsAreg e.w0) (lsmOff e.w1)
    let how := fun i => if lsmSel e.w0 then BlkOp.rdLoft (256 * (lsmUnit e.w1 + i)) else .rdOpnd (256 * (lsmUnit e.w1 + i))
    let w := s.pushBlks (marlBlks s t a n how)
    ∃ u, exec (.ldm t) s = .next u ∧
      Issued (if ldmInc e.w0 then w.modTile t fun x => x.ldmIncr e (s.tscale t) (v.s (lsAreg e.w0) + dword (256 * n)) else w)
        u t .ld e (s.lMfor t a (256 * n) + s.tscale t * (4 * n)) (s.tscale t * (4 * n)) n [] := by
  intro v n a how w
  obtain ⟨hi, hcode, hs⟩ := h
  have hocc : s.occ t .ld e.w0 e.w1 = 4 * n := by simp [State.occ, hcode, n]
  have hpub : s.latPub t .ld e.w0 e.w1 e.aux = s.lMfor t a (256 * n) := by simp [State.latPub, hcode, n, a, v]
  have hlat : s.lat t .ld e.w0 e.w1 e.aux = s.lMfor t a (256 * n) + 4 * n := by simp [State.lat, hcode, hocc, n, a, v]
  refine ⟨_, rfl, issued_of_go hi hcode ?_ (by rw [hpub, hlat, Nat.add_sub_cancel_left]) (by rw [hocc])⟩
  simp only [hs, Bool.false_eq_true, if_false, ho.noFault, ho.partition]
  simp only [State.countForeign, List.length_nil, List.flatMap_nil, List.foldl_nil, List.length_map, List.length_range, if_true, ite_self]
  rfl

/-- The flight of the scalar result of INC: a write of s[AREG] with a latency of its own. -/
theorem ldmIncr_fly (v : Tile) (e : QEntry) (lat : Nat) (x : DWord) : ∃ f, v.ldmIncr e lat x = { v with fly := f :: v.fly } ∧
    f.q = .ld ∧ f.due = v.now + lat ∧ f.sregs = [lsAreg e.w0] ∧ f.need = 0 ∧ f.set = none ∧ f.eff = [.sreg (lsAreg e.w0) x] :=
  ⟨_, rfl, rfl, rfl, rfl, rfl, rfl, rfl⟩

theorem add_dword (x : DWord) (n : Nat) : x + dword n = BitVec.ofNat 64 (x.toNat + n) := by
  rw [BitVec.ofNat_add, BitVec.ofNat_toNat, BitVec.setWidth_eq]

/-- An STM without a digest puts blocks on the channels that write the operand store's bytes (R156), and waits for them. -/
theorem stm_issued {s : State} {t : Nat} {e : QEntry} (h : Issues s t .st 5 e) (hdig : stmDig e.w0 = false) (hsel : lsmSel e.w0 = false)
    (ho : OwnsMarl s t ((s.tile t).marlAddr (lsAreg e.w0) (lsmOff e.w1)) (lsmL e.w0)) :
    let v := s.tile t
    let n := lsmL e.w0
    let a := v.marlAddr (lsAreg e.w0) (lsmOff e.w1)
    ∃ u, exec (.stm t) s = .next u ∧
      Issued (s.pushBlks (marlBlks s t a n fun i => .wr (v.opndRd (256 * (lsmUnit e.w1 + i)) 256)))
        u t .st e (s.lWfor t a (256 * n) + s.tscale t * (4 * n)) (s.tscale t * (4 * n)) n [] := by
  intro v n a
  obtain ⟨hi, hcode, hs⟩ := h
  have hocc : s.occ t .st e.w0 e.w1 = 4 * n := by simp [State.occ, hcode, n]
  have hpub : s.latPub t .st e.w0 e.w1 e.aux = s.lWfor t a (256 * n) := by simp [State.latPub, hcode, n, a, v]
  have hlat : s.lat t .st e.w0 e.w1 e.aux = s.lWfor t a (256 * n) + 4 * n := by simp [State.lat, hcode, hocc, n, a, v]
  have hblks : marlBlks s t a n (fun i => .wr (((v.opndRd (256 * lsmUnit e.w1) (256 * n)).drop (256 * i)).take 256)) =
      marlBlks s t a n fun i => .wr (v.opndRd (256 * (lsmUnit e.w1 + i)) 256) :=
    marlBlks_congr fun i hi => by rw [drop_take_opndRd v (by omega), Nat.mul_add]
  refine ⟨_, rfl, issued_of_go hi hcode ?_ (by rw [hpub, hlat, Nat.add_sub_cancel_left]) (by rw [hocc])⟩
  simp only [State.withDig, hdig, hs, hsel, Bool.not_false, if_true, Bool.false_eq_true, if_false, ho.noFault, ho.partition]
  simp only [State.countForeign, List.length_nil, List.length_map, List.length_range, if_true]
  exact congrArg (fun b => Act.go (s.pushBlks b) [] n) hblks

/-- Settles O12: LDM is `ldm_issued`, with the flight of INC's result from `ldmIncr_fly`, and STM `stm_issued`. -/
theorem marlLoadsAndStores : Obligations.MarlLoadsAndStores := by
  intro s t e v k n a own dst loads stores
  have howns : own → OwnsMarl s t a n := fun ⟨hal, hblk⟩ => ⟨hal, fun i hi => (hblk i hi).1, fun i hi => (hblk i hi).2⟩
  refine ⟨fun h ho hinc => ?_, fun h ho hinc => ?_, fun h ho hdig hsel => stm_issued h hdig hsel (howns ho)⟩
  · obtain ⟨u, hu, hi⟩ := ldm_issued h (howns ho)
    rw [if_neg (by simp [hinc])] at hi
    exact ⟨u, hu, hi⟩
  · obtain ⟨u, hu, hi⟩ := ldm_issued h (howns ho)
    obtain ⟨f, hfly, hf⟩ := ldmIncr_fly v e k (v.s (lsAreg e.w0) + dword (256 * n))
    rw [if_pos hinc, State.modTile, pushBlks_tile] at hi
    rw [add_dword] at hf
    obtain ⟨hq, hdue, hregs, hneed, hset, heff⟩ := hf
    exact ⟨u, _, f, hu, congrArg (State.setTile _ t) hfly, hq, hdue, hregs, hneed, hset, heff, hi⟩

end Sys2Proof
end

section
namespace Sys2Proof

open Machine

/-! ### Where a synchronisation word lies (R161, R166, R323, Table 6.1) -/

theorem region_loft {s : State} {t a : Nat} (ht : t < s.nTiles) (ht' : t < 256) (hlo : loftAddr t 0 ≤ a) (hhi : a < loftAddr t 0x100000) :
    s.region a = .loft t (a - loftAddr t 0) := by
  simp only [loftAddr] at hlo hhi ⊢
  have hm : ¬ a < marlEnd := by unfold marlEnd stackSize; omega
  have hc0 : ¬ (0x010000000000 ≤ a ∧ a < 0x020000000000) := by omega
  have hc1 : ¬ (0x040000000000 ≤ a ∧ a < 0x050000000000) := by omega
  have hl : 0x020000000000 ≤ a ∧ a < 0x020010000000 := by omega
  have hk : (a - 0x020000000000) / 0x100000 = t := by omega
  have ho : (a - 0x020000000000) % 0x100000 = a - (0x020000000000 + t * 0x100000 + 0) := by omega
  simp only [State.region, hm, hc0, hc1, hl, hk, ht, ho, if_true, if_false, and_self]

/-- Only an address of the Marl range lies in the Marl. -/
theorem lt_marlEnd_of_region {s : State} {a m o : Nat} (h : s.region a = .marl m o) : a < marlEnd := by
  refine Decidable.byContradiction fun hm => ?_
  unfold State.region at h
  rw [if_neg hm] at h
  simp only at h
  split at h
  · split at h <;> exact absurd h (by simp)
  · split at h
    · split at h <;> exact absurd h (by simp)
    · split at h <;> exact absurd h (by simp)

/-- A word of the tile's own Loft below the Landing. -/
theorem syPlace_loft {s : State} {t a : Nat} (ht : t < s.nTiles) (ht' : t < 256) (ha : a % 8 = 0) (hlo : loftAddr t 0 ≤ a)
    (hhi : a + 8 ≤ loftAddr t 0xF0000) : s.syPlace t a = .loft := by
  simp only [loftAddr] at hhi
  have hr := region_loft ht ht' hlo (show a < loftAddr t 0x100000 by unfold loftAddr; omega)
  have hl : inLanding (a - loftAddr t 0) 8 = false := decide_eq_false (by unfold loftAddr at hlo ⊢; omega)
  simp [State.syPlace, ha, hr, hl]

theorem syPlace_marl {s : State} {t a m o : Nat} (ha : a % 8 = 0) (hr : s.region a = .marl m o) (hown : s.blkOwned t a = true) :
    s.syPlace t a = .marl := by
  simp [State.syPlace, ha, hr, hown]

/-- The address of a synchronisation word, with OFF as the signed number that it is (R161). -/
theorem syAddr_eq (v : Tile) (w0 w1 : Word) :
    v.syAddr w0 w1 = ((((v.s (syAreg w0)).toNat % 2 ^ 48 : Nat) + w1.toInt : Int) % 2 ^ 48).toNat := by
  unfold Tile.syAddr
  rw [sval_word]

/-- A word of the own Loft with no error to correct is read as it is. -/
theorem loftSoft_word {s : State} {t a : Nat} (hlo : loftAddr t 0 ≤ a) (h : ∀ z ∈ s.dev.soft, ¬ (a ≤ z ∧ z < a + 8)) :
    s.loftSoft t (a - loftAddr t 0) 8 = s := by
  have ha : loftAddr t (a - loftAddr t 0) = a := by
    unfold loftAddr at *
    omega
  exact loftSoft_clean (by rwa [ha])

theorem loftWordBad_none {s : State} {t a : Nat} (h : s.badIn a 8 = none) (blind : Bool) : s.loftWordBad t a blind = none := by
  simp [State.loftWordBad, h]

/-- The plan scale is 1 or 4 (R63). -/
theorem tscale_pos (s : State) (t : Nat) : 0 < s.tscale t := by
  unfold State.tscale Part.scale
  split
  · exact Nat.one_pos
  · split <;> decide

/-! ### Synchronisation updates (R161, R325, R333) -/

/-- The update that SADD, SSET or SCAS (operation 1, 2 or 3) makes of the word at `a`: what `State.syUpdate` makes visible. -/
def syUpd (v : Tile) (op a : Nat) (e : QEntry) : SyncUpd :=
  { kind := op - 1, addr := a, x := v.s (syVreg e.w0), y := if op = 3 then v.s (syNreg e.w0) else 0 }

section
variable {s : State} {t op a : Nat} {e : QEntry} (h : Issues s t .sy op e) (hop : op ≤ 3)
include h hop

/-- The latency of an update is that of its word's place (Table 5.1). -/
theorem syUpdate_lat : s.lat t .sy e.w0 e.w1 e.aux = s.syLat t e.w0 e.w1 := by
  obtain ⟨-, hcode, -⟩ := h
  simp [State.lat, hcode, hop]

theorem syUpdate_latPub : s.latPub t .sy e.w0 e.w1 e.aux =
    if syRmt e.w0 = false ∧ s.syLat t e.w0 e.w1 ≠ 2 then s.syLat t e.w0 e.w1 else 0 := by
  obtain ⟨-, hcode, -⟩ := h
  simp [State.latPub, hcode, hop]

/-- An update of a word of the own Loft completes 2 b after issue. -/
theorem syUpdate_loft (ha : (s.tile t).syAddr e.w0 e.w1 = a) (hrmt : syRmt e.w0 = false) (hp : s.syPlace t a = .loft)
    (hlo : loftAddr t 0 ≤ a) (hhi : a + 8 ≤ loftAddr t 0xF0000) (hbad : s.badIn a 8 = none)
    (hsoft : ∀ z ∈ s.dev.soft, ¬ (a ≤ z ∧ z < a + 8)) :
    Issued s (s.syUpdate t op) t .sy e (s.tscale t * 2) (s.tscale t) 0 [.sync (syUpd (s.tile t) op a e)] := by
  have hin : loftAddr t 0 ≤ a ∧ a < loftAddr t 0x100000 := by unfold loftAddr at *; omega
  have hlat : s.syLat t e.w0 e.w1 = 2 := by simp [State.syLat, ha, hrmt, hin]
  have hpub : s.latPub t .sy e.w0 e.w1 e.aux = 0 := by simp [syUpdate_latPub h hop, hlat]
  have ⟨_, _, hs⟩ := h
  refine issued_one_beat h ?_ hpub ((syUpdate_lat h hop).trans hlat) rfl
  simp only [hs, Bool.false_eq_true, if_false, ha, hrmt, hp, loftWordBad_none hbad, loftSoft_word hlo hsoft, ite_self]
  rfl

/-- An update of a word of the Marl goes as one plan block, and completes no earlier than the published latency. -/
theorem syUpdate_marl (ha : (s.tile t).syAddr e.w0 e.w1 = a) (hrmt : syRmt e.w0 = false) (hp : s.syPlace t a = .marl) (hm : a < marlEnd) :
    ∃ lat, s.lSfor t a ≤ lat ∧
      Issued (s.pushBlk { addr := a / 256 * 256, tile := t, fly := (s.tile t).nextId, op := .sync (syUpd (s.tile t) op a e) })
        (s.syUpdate t op) t .sy e lat (s.tscale t) 1 [] := by
  have ⟨hi, hcode, hs⟩ := h
  have hout : ¬ (loftAddr t 0 ≤ a ∧ a < loftAddr t 0x100000) := by unfold loftAddr marlEnd stackSize at *; omega
  have hlat : s.syLat t e.w0 e.w1 = s.lSfor t a := by simp [State.syLat, ha, hrmt, hout]
  have hle : s.lSfor t a - s.latPub t .sy e.w0 e.w1 e.aux ≤ s.tscale t * (s.lSfor t a - s.latPub t .sy e.w0 e.w1 e.aux) :=
    Nat.le_mul_of_pos_left _ (tscale_pos s t)
  refine ⟨_, ?_, issued_of_go hi hcode ?_ rfl (Nat.mul_one _)⟩
  · rw [syUpdate_lat h hop, hlat]
    omega
  · simp only [hs, Bool.false_eq_true, if_false, ha, hrmt, hp]
    rfl

/-- A remote update is one flagged packet (R333), and completes 4 b after issue. -/
theorem syUpdate_remote {p : Nat} (ha : (s.tile t).syAddr e.w0 e.w1 = a) (hrmt : syRmt e.w0 = true) (hpart : s.partOf t = some p)
    (ha8 : a % 8 = 0) (hin : a < marlEnd ∨ (0x020000000000 ≤ a ∧ a < 0x020010000000)) :
    let v := s.tile t
    let u := syUpd v op a e
    Issued (s.send { Hdr.zero with dst := (v.s (syAreg e.w0)).toNat / 2 ^ 48, vc := 3, ord := true, part := p, opc := 6 + u.kind, addr := a,
                                   tag := sigTag t p, opa := u.x.toNat, opb := u.y.toNat } [])
      (s.syUpdate t op) t .sy e (s.tscale t * 4) (s.tscale t) 0 [] := by
  intro v u
  have hlat : s.syLat t e.w0 e.w1 = 4 := by simp [State.syLat, hrmt]
  have hpub : s.latPub t .sy e.w0 e.w1 e.aux = 0 := by simp [syUpdate_latPub h hop, hrmt]
  have hok : (!(decide (a < marlEnd) || decide (0x020000000000 ≤ a ∧ a < 0x020010000000))) = false := by
    rw [← Bool.decide_or, decide_eq_true hin, Bool.not_true]
  have ⟨_, _, hs⟩ := h
  refine issued_one_beat h ?_ hpub ((syUpdate_lat h hop).trans hlat) rfl
  simp only [hs, Bool.false_eq_true, if_false, ha, hrmt, if_true, State.syRemote, ha8, ne_eq, not_true, hok, hpart]
  rfl

end

/-- The commands SADD, SSET and SCAS are the updates 1, 2 and 3. -/
theorem exec_syUpdate {t op : Nat} {c : Instr} (hc : (c, op) ∈ [(Instr.sadd t, 1), (.sset t, 2), (.scas t, 3)]) (s : State) :
    exec c s = .next (s.syUpdate t op) ∧ 1 ≤ op ∧ op ≤ 3 := by
  simp only [List.mem_cons, Prod.mk.injEq, List.not_mem_nil, or_false] at hc
  rcases hc with ⟨rfl, rfl⟩ | ⟨rfl, rfl⟩ | ⟨rfl, rfl⟩ <;> exact ⟨rfl, by decide, by decide⟩

/-- Settles O18: by the place of the word, `syUpdate_loft`, `syUpdate_marl` or `syUpdate_remote`. -/
theorem syncUpdates : Obligations.SyncUpdates := by
  intro s t p op c e hc h hpart v k a x y upd ha8
  obtain ⟨hx, hone, hop⟩ := exec_syUpdate hc s
  have ha : v.syAddr e.w0 e.w1 = a := syAddr_eq ..
  refine ⟨fun hrmt hlo hhi ht ht' hbad hsoft => ?_, fun hrmt hm hown => ?_, fun hrmt hin => ?_⟩
  · exact ⟨_, hx, syUpdate_loft h hop ha hrmt (syPlace_loft ht ht' ha8 hlo hhi) hlo hhi hbad hsoft⟩
  · obtain ⟨m, o, hr⟩ := hm
    obtain ⟨lat, hle, hi⟩ := syUpdate_marl h hop ha hrmt (syPlace_marl ha8 hr hown) (lt_marlEnd_of_region hr)
    exact ⟨_, lat, hx, hle, hi⟩
  · have hopc : 6 + (op - 1) = 5 + op := by omega
    have hi := syUpdate_remote h hop ha hrmt hpart ha8 hin
    simp only [syUpd, hopc] at hi
    exact ⟨_, hx, hi⟩

/-! ### Synchronisation waits (R327, R329) -/

theorem met_iff (w : Wait) (x : DWord) : w.met x = true ↔ if w.eq = true then x = w.val else w.val.toNat ≤ x.toNat := by
  unfold Wait.met
  split <;> simp

/-- A tile none of whose monitors watches a line keeps no value of it. -/
theorem monKeep_unwatched {v : Tile} {a : Nat} (h : v.monOf (a / 64) = none) (x : DWord) : v.monKeep a x = v := by
  have hmap : (v.mons.map fun m => if m.line = a / 64 then { m with vals := SMap.set m.vals a x } else m) = v.mons :=
    (List.map_congr_left fun m hm => if_neg (by simpa using List.find?_eq_none.mp h m hm)).trans v.mons.map_id
  unfold Tile.monKeep
  rw [hmap]

/-- What SWGE or SWEQ (operation 4 or 5) without MON waits for at the word `a`, of which a first read has returned `x` (R327). -/
def syWaitOf (v : Tile) (op a : Nat) (e : QEntry) (x : DWord) : Wait :=
  { barWait .word a with eq := decide (op = 5), val := v.s (syVreg e.w0), reads := 1, last := x, poll := v.tim.cb }

/-- A wait on an unwatched word of the own Loft completes 1 b after issue if the word meets it, and otherwise begins. -/
theorem syWait_loft {s : State} {t op a : Nat} {e : QEntry} (h : Issues s t .sy op e) (hop : 4 ≤ op ∧ op ≤ 5) (hmon : syMon e.w0 = false)
    (ha : (s.tile t).syAddr e.w0 e.w1 = a) (hp : s.syPlace t a = .loft) (hlo : loftAddr t 0 ≤ a) (hfree : (s.tile t).monOf (a / 64) = none)
    (hbad : s.badIn a 8 = none) (hsoft : ∀ z ∈ s.dev.soft, ¬ (a ≤ z ∧ z < a + 8)) :
    let v := s.tile t
    let w := syWaitOf v op a e (s.rdW a)
    (w.met (s.rdW a) = true → Issued (s.setTile t v) (s.syWait t op) t .sy e (s.tscale t) (s.tscale t) 0 []) ∧
    (¬ w.met (s.rdW a) = true → WaitBegun (s.setTile t v) (s.syWait t op) t e w) := by
  intro v w
  obtain ⟨hi, hcode, hs⟩ := h
  have h3 : ¬ op ≤ 3 := by omega
  have h8 : op ≠ 8 := by omega
  have hA : op ≠ 0xA := by omega
  have hlat : s.lat t .sy e.w0 e.w1 e.aux = 1 := by simp [State.lat, hcode, h3, h8, hA]
  have hpub : s.latPub t .sy e.w0 e.w1 e.aux = 0 := by simp [State.latPub, hcode, h3]
  refine ⟨fun hmet => issued_of_go hi hcode ?_ (by simp [hlat, hpub]) (Nat.mul_one _), fun hmet => issue_wait hi hcode ?_⟩
  all_goals
    simp only [hs, hmon, ha, hp, Bool.false_eq_true, if_false, Bool.false_and, loftWordBad_none hbad, loftSoft_word hlo hsoft, State.modTile,
      monKeep_unwatched hfree]
  · exact if_pos hmet
  · exact if_neg hmet

/-- The commands SWGE and SWEQ are the waits 4 and 5. -/
theorem exec_syWait {t op : Nat} {c : Instr} (hc : (c, op) ∈ [(Instr.swge t, 4), (.sweq t, 5)]) (s : State) :
    exec c s = .next (s.syWait t op) ∧ 4 ≤ op ∧ op ≤ 5 := by
  simp only [List.mem_cons, Prod.mk.injEq, List.not_mem_nil, or_false] at hc
  rcases hc with ⟨rfl, rfl⟩ | ⟨rfl, rfl⟩ <;> exact ⟨rfl, by decide, by decide⟩

/-- Settles O20: the wait is on a word of the own Loft (`syPlace_loft`), so it completes or begins as `syWait_loft` says. -/
theorem syncWaits : Obligations.SyncWaits := by
  intro s t op c e hc h hmon ht ht' v k a x y met ha8 hlo hhi hfree hbad hsoft
  obtain ⟨hx, hop⟩ := exec_syWait hc s
  obtain ⟨hgo, hwait⟩ := syWait_loft h hop hmon rfl (syPlace_loft ht ht' ha8 hlo hhi) hlo hfree hbad hsoft
  have hmet : (syWaitOf v op a e x).met x = true ↔ met := by simp [met_iff, syWaitOf, met, y]
  exact ⟨fun hm => ⟨_, hx, hgo (hmet.mpr hm)⟩, fun hm => ⟨_, hx, hwait fun hw => hm (hmet.mp hw)⟩⟩

end Sys2Proof
end

section
namespace Sys2Proof

open Machine

/-! ### Canonical memory (R164, R190, R478): the branches and folds of the model's functions

Every function of the model keeps `State.memWf`: one lemma `f_memWf` per function, in the order of the model's files, over the rules of the
state's operations. A row's lemma `execRow_nextWf` says that its outcome is a next state, and that its memory is canonical. -/

/-- An outcome that is a next state whose memory has the canonical form. -/
def NextWf (o : Host.Outcome State Fault Refusal) : Prop := ∃ u, o = .next u ∧ u.memWf

/-- The canonical form in the state that an issuing operation leaves; a fault leaves none. -/
def Machine.Act.Keeps : Act → Prop
  | .fault .. => True
  | .go u .. => u.memWf
  | .wait u _ => u.memWf

theorem nextWf {u : State} (hu : u.memWf) : NextWf (.next u) := ⟨u, rfl, hu⟩

section
variable {α β : Type} {c : Prop} {i : Decidable c}

theorem ite_memWf {a b : State} (ha : a.memWf) (hb : b.memWf) : (if c then a else b).memWf := by
  split
  · exact ha
  · exact hb

theorem ite_fst_memWf {a b : State × β} (ha : a.1.memWf) (hb : b.1.memWf) : (if c then a else b).1.memWf := by
  split
  · exact ha
  · exact hb

theorem ite_snd_memWf {a b : α × State} (ha : a.2.memWf) (hb : b.2.memWf) : (if c then a else b).2.memWf := by
  split
  · exact ha
  · exact hb

theorem ite_keeps {a b : Act} (ha : a.Keeps) (hb : b.Keeps) : (if c then a else b).Keeps := by
  split
  · exact ha
  · exact hb

theorem fst_memWf {r : State × β} {u : State} {b : β} (h : r.1.memWf) (e : r = (u, b)) : u.memWf := by
  rw [e] at h; exact h

theorem snd_memWf {r : α × State} {u : State} {a : α} (h : r.2.memWf) (e : r = (a, u)) : u.memWf := by
  rw [e] at h; exact h

theorem foldl_memWf {f : State → α → State} {l : List α} (hf : ∀ u a, u.memWf → (f u a).memWf) {s : State} (hs : s.memWf) :
    (l.foldl f s).memWf := by
  induction l generalizing s with
  | nil => exact hs
  | cons a r ih => exact ih (hf _ _ hs)

theorem foldl_fst_memWf {f : State × β → α → State × β} {l : List α} (hf : ∀ u a, u.1.memWf → (f u a).1.memWf) {x : State × β}
    (hx : x.1.memWf) : (l.foldl f x).1.memWf := by
  induction l generalizing x with
  | nil => exact hx
  | cons a r ih => exact ih (hf _ _ hx)

theorem foldl_snd_memWf {f : β × State → α → β × State} {l : List α} (hf : ∀ u a, u.2.memWf → (f u a).2.memWf) {x : β × State}
    (hx : x.2.memWf) : (l.foldl f x).2.memWf := by
  induction l generalizing x with
  | nil => exact hx
  | cons a r ih => exact ih (hf _ _ hx)
end

end Sys2Proof
end

section
namespace Sys2Proof

open Machine

/-! ### Canonical memory: the shared operations, packets and faults -/

variable {s : State}

/-! #### Ops -/

theorem modCmd_memWf {f : Cmd → Cmd} (hf : (f s.cmd).host = s.cmd.host) (hs : s.memWf) : (s.modCmd f).memWf :=
  memWf_congr (s := s) rfl rfl hf hs

theorem setTile_memWf {t : Nat} {v : Tile} (hs : s.memWf) : (s.setTile t v).memWf := hs

theorem setRoom_memWf {r : Nat} {v : Room} (hs : s.memWf) : (s.setRoom r v).memWf := hs

theorem setStack_memWf {k : Nat} {v : Stack} (hs : s.memWf) : (s.setStack k v).memWf := hs

theorem setPort_memWf {n : Nat} {v : Port} (hs : s.memWf) : (s.setPort n v).memWf := hs

theorem setPart_memWf {p : Nat} {v : Machine.Part} (hs : s.memWf) : (s.setPart p v).memWf := hs

theorem setRecord_memWf {r : Nat} {v : Record} (hs : s.memWf) : (s.setRecord r v).memWf := hs

theorem setResDig_memWf {r : Nat} {v : ResDig} (hs : s.memWf) : (s.setResDig r v).memWf := hs

theorem setLslot_memWf {n : Nat} {v : LSlot} (hs : s.memWf) : (s.setLslot n v).memWf := hs

theorem modTile_memWf {t : Nat} {f : Tile → Tile} (hs : s.memWf) : (s.modTile t f).memWf := setTile_memWf hs

theorem modRoom_memWf {r : Nat} {f : Room → Room} (hs : s.memWf) : (s.modRoom r f).memWf := setRoom_memWf hs

theorem modStack_memWf {k : Nat} {f : Stack → Stack} (hs : s.memWf) : (s.modStack k f).memWf := setStack_memWf hs

theorem modPort_memWf {n : Nat} {f : Port → Port} (hs : s.memWf) : (s.modPort n f).memWf := setPort_memWf hs

theorem modPart_memWf {p : Nat} {f : Machine.Part → Machine.Part} (hs : s.memWf) : (s.modPart p f).memWf := setPart_memWf hs

theorem modRecord_memWf {r : Nat} {f : Record → Record} (hs : s.memWf) : (s.modRecord r f).memWf := setRecord_memWf hs

theorem setFn_memWf {hp fn : Nat} {v : Fn} (hs : s.memWf) : (s.setFn hp fn v).memWf := modCmd_memWf rfl hs

theorem modFn_memWf {hp fn : Nat} {f : Fn → Fn} (hs : s.memWf) : (s.modFn hp fn f).memWf := setFn_memWf hs

theorem modHport_memWf {hp : Nat} {f : HostPort → HostPort} (hs : s.memWf) : (s.modHport hp f).memWf := modCmd_memWf rfl hs

theorem modFab_memWf {f : Fab → Fab} (hs : s.memWf) : (s.modFab f).memWf := hs

theorem modMnt_memWf {f : Mnt → Mnt} (hs : s.memWf) : (s.modMnt f).memWf := hs

theorem modHrt_memWf {f : Hearth → Hearth} (hs : s.memWf) : (s.modHrt f).memWf := hs

theorem idWrite_memWf (hs : s.memWf) : (s.idWrite).memWf := modHrt_memWf hs

theorem modPwr_memWf {f : Pwr → Pwr} (hs : s.memWf) : (s.modPwr f).memWf := hs

theorem modDev_memWf {f : Dev → Dev} (hs : s.memWf) : (s.modDev f).memWf := hs

theorem tileCount_memWf {t : Nat} {c : TileCtr} {n : Nat} (hs : s.memWf) : (s.tileCount t c n).memWf := modTile_memWf hs

theorem portCount_memWf {n : Nat} {c : PortCtr} {k : Nat} (hs : s.memWf) : (s.portCount n c k).memWf := modPort_memWf hs

theorem stackCount_memWf {k : Nat} {c : StackCtr} {n : Nat} (hs : s.memWf) : (s.stackCount k c n).memWf := modStack_memWf hs

theorem fabCount_memWf {c : FabCtr} {n : Nat} (hs : s.memWf) : (s.fabCount c n).memWf := modFab_memWf hs

theorem mntCount_memWf {c : MntCtr} {n : Nat} (hs : s.memWf) : (s.mntCount c n).memWf := modMnt_memWf hs

theorem devCount_memWf {c : DevCtr} {n : Nat} (hs : s.memWf) : (s.devCount c n).memWf := modDev_memWf hs

theorem fnCount_memWf {hp fn : Nat} {c : FnCtr} (hs : s.memWf) : (s.fnCount hp fn c).memWf := modFn_memWf hs

theorem setBind_memWf {kind i e : Nat} (hs : s.memWf) : (s.setBind kind i e).memWf := modHrt_memWf hs

theorem tagsGood_memWf {ts : List Nat} (hs : s.memWf) : (s.tagsGood ts).memWf := modDev_memWf hs

/-! #### Packets -/

theorem way_memWf {h : Hdr} (hs : s.memWf) : (s.way h).2.memWf := (way_frame ..).kept.memWf hs

theorem pushEgress_memWf {n vc : Nat} {k : Packet} (hs : s.memWf) : (s.pushEgress n vc k).memWf := (pushEgress_frame ..).kept.memWf hs

theorem answerDrop_memWf {h : Hdr} {status : Nat} (hs : s.memWf) : (s.answerDrop h status).memWf := (answerDrop_frame ..).kept.memWf hs

theorem sendAny_memWf {h : Hdr} {data : List Flit} (hs : s.memWf) : (s.sendAny h data).memWf := (sendAny_frame ..).kept.memWf hs

theorem send_memWf {h : Hdr} {data : List Flit} (hs : s.memWf) : (s.send h data).memWf := (send_frame ..).kept.memWf hs

theorem sendMsg_memWf {p dst addr : Nat} {ord : Bool} {ws : List Word} (hs : s.memWf) : (s.sendMsg p dst addr ord ws).memWf :=
  (sendMsg_frame ..).kept.memWf hs

theorem sendWrites_memWf {p dst tag : Nat} {l : List (List Byte)} :
    ∀ {s : State} {addr : Nat}, s.memWf → (s.sendWrites p dst addr tag l).memWf := by
  induction l with
  | nil => exact fun hs => hs
  | cons c r ih => exact fun hs => ih (send_memWf hs)

/-! #### Raise -/

theorem irq_memWf {hp fn v : Nat} (hs : s.memWf) : (s.irq hp fn v).memWf := modFn_memWf hs

theorem writeRecord_memWf {p : Nat} {ws : List Word} (hs : s.memWf) : (s.writeRecord p ws).memWf := (writeRecord_kept ..).memWf hs

theorem writeEvent_memWf {p cause : Nat} {fields : List Word} (hs : s.memWf) : (s.writeEvent p cause fields).memWf := modDev_memWf hs

theorem sendNotice_memWf {p lid cls origin tick : Nat} {from? : Option Nat} (hs : s.memWf) :
    (s.sendNotice p lid cls origin tick from?).memWf :=
  (sendNotice_kept ..).memWf hs

theorem failSwap_memWf {p : Nat} (hs : s.memWf) : (s.failSwap p).memWf := (failSwap_kept ..).memWf hs

theorem haltPart_memWf {p : Nat} (hs : s.memWf) : (s.haltPart p).memWf := (haltPart_kept ..).memWf hs

theorem raise_memWf {p : Nat} {f : FInfo} (hs : s.memWf) : (s.raise p f).memWf := (raise_kept ..).memWf hs

theorem raiseTile_memWf {t : Nat} {f : FInfo} (hs : s.memWf) : (s.raiseTile t f).memWf := by
  unfold State.raiseTile
  split
  · exact raise_memWf hs
  · exact hs

theorem takeNotice_memWf {p : Nat} {n : Notice} (hs : s.memWf) : (s.takeNotice p n).memWf := by
  unfold State.takeNotice
  dsimp only
  exact ite_memWf (modPart_memWf hs) (ite_memWf (modPart_memWf hs)
    (sendNotice_memWf (modPart_memWf (haltPart_memWf (writeRecord_memWf hs)))))

theorem askTest_memWf {kind idx : Nat} (hs : s.memWf) : (s.askTest kind idx).memWf := (askTest_kept ..).memWf hs

theorem raisePower_memWf {p : Nat} {f : FInfo} (hs : s.memWf) : (s.raisePower p f).memWf := raise_memWf (modPwr_memWf hs)

end Sys2Proof
end

section
namespace Sys2Proof

open Machine

/-! ### Canonical memory: the tile -/

variable {s : State}

/-! #### Front -/

theorem tileFault_memWf {t cls cause iaddr : Nat} {fields : List Word} (hs : s.memWf) : (s.tileFault t cls cause iaddr fields).memWf :=
  raiseTile_memWf hs

theorem opFault_memWf {t : Nat} {q : Queue} {cls cause iaddr : Nat} {fields : List Word} (hs : s.memWf) :
    (s.opFault t q cls cause iaddr fields).memWf := by
  unfold State.opFault
  dsimp only
  exact tileFault_memWf (modTile_memWf (ite_memWf (askTest_memWf hs) hs))

theorem chargeS_memWf {t : Nat} {k : Charge} {e8 : Nat} (hs : s.memWf) : (s.chargeS t k e8).memWf := by
  unfold State.chargeS
  dsimp only
  exact ite_memWf (tileFault_memWf (modTile_memWf hs)) (modTile_memWf hs)

theorem charge_memWf {t : Nat} {k : Charge} {e8 : Nat} (hs : s.memWf) : (s.charge t k e8).memWf := by
  unfold State.charge
  dsimp only
  refine ite_memWf ?_ hs
  refine chargeS_memWf ?_
  split
  · exact tileCount_memWf hs
  · exact tileCount_memWf hs
  · exact tileCount_memWf hs
  · exact tileCount_memWf hs

/-! #### Issue -/

theorem issue_memWf {t : Nat} {q : Queue} {op : Nat} {act : State → QEntry → Act} (hs : s.memWf)
    (hact : ∀ u e, u.memWf → (act u e).Keeps) : (s.issue t q op act).memWf := by
  unfold State.issue
  split
  · exact hs
  · rename_i e _
    refine ite_memWf hs ?_
    have ha := hact s e hs
    split
    · exact opFault_memWf (ite_memWf (modTile_memWf hs) hs)
    · rename_i h; rw [h] at ha; exact modTile_memWf ha
    · rename_i h; rw [h] at ha; exact modTile_memWf ha

theorem pureAct_keeps {f : State → QEntry → List Effect} {e : QEntry} (hs : s.memWf) : (pureAct f s e).Keeps := hs

theorem pushBlk_memWf {b : Blk} (hs : s.memWf) : (s.pushBlk b).memWf := modStack_memWf hs

theorem pushBlks_memWf {l : List Blk} : ∀ {s : State}, s.memWf → (s.pushBlks l).memWf := by
  induction l with
  | nil => exact fun hs => hs
  | cons b r ih => exact fun hs => ih (pushBlk_memWf hs)

theorem fetchLine_memWf {t line : Nat} (hs : s.memWf) : (s.fetchLine t line).memWf := by
  unfold State.fetchLine
  dsimp only
  exact ite_memWf hs (ite_memWf (ite_memWf hs (pushBlk_memWf hs)) (devCount_memWf (modTile_memWf hs)))

/-! #### Vector -/

theorem veBin_memWf {t op : Nat} {f : FV → FV → FV} (hs : s.memWf) : (s.veBin t op f).memWf :=
  issue_memWf hs (fun _ _ hu => pureAct_keeps hu)

theorem execVsld_nextWf {t : Nat} (hs : s.memWf) : NextWf (execVsld t s) := by
  unfold execVsld
  dsimp only
  exact nextWf (issue_memWf hs (fun _ _ hu => ite_keeps hu (ite_keeps trivial (ite_keeps trivial (ite_keeps trivial (modTile_memWf hu))))))

theorem execVsclr_nextWf {t : Nat} (hs : s.memWf) : NextWf (execVsclr t s) := by
  unfold execVsclr
  dsimp only
  exact nextWf (issue_memWf hs (fun _ _ hu => ite_keeps hu (modTile_memWf hu)))

/-! #### Matrix -/

theorem mxTokens_memWf {t b : Nat} {plan : Bool} (hs : s.memWf) : (s.mxTokens t b plan).memWf := by
  unfold State.mxTokens
  dsimp only
  split
  · exact hs
  · exact modPart_memWf hs

theorem mxBusy_memWf {t b : Nat} {plan : Bool} (hs : s.memWf) : (s.mxBusy t b plan).memWf := mxTokens_memWf (modTile_memWf hs)

theorem mxActive_memWf {t occ : Nat} (hs : s.memWf) : (s.mxActive t occ).memWf := mxBusy_memWf (modTile_memWf hs)

theorem execMxr_nextWf {t : Nat} (hs : s.memWf) : NextWf (execMxr t s) := by
  unfold execMxr
  dsimp only
  refine nextWf ?_
  refine issue_memWf hs (fun _ _ hu => ?_)
  refine ite_keeps (mxActive_memWf hu) ?_
  split
  · exact trivial
  · exact mxActive_memWf (modTile_memWf hu)

theorem execMxcfg_nextWf {t : Nat} (hs : s.memWf) : NextWf (execMxcfg t s) := by
  unfold execMxcfg
  dsimp only
  exact nextWf (issue_memWf hs (fun _ _ hu => ite_keeps hu (ite_keeps trivial hu)))

theorem execEngineCold_nextWf {t : Nat} (hs : s.memWf) : NextWf (execEngineCold t s) := by
  unfold execEngineCold
  dsimp only
  exact nextWf (ite_memWf (modTile_memWf hs) hs)

theorem execInsertedRampEnd_nextWf {t : Nat} (hs : s.memWf) : NextWf (execInsertedRampEnd t s) := by
  unfold execInsertedRampEnd
  dsimp only
  exact nextWf (ite_memWf (modTile_memWf hs) hs)

/-! #### OnDie -/

theorem stnSend_memWf {t : Nat} {w0 w1 : Word} {i epoch : Nat} (hs : s.memWf) : (s.stnSend t w0 w1 i epoch).memWf := by
  unfold State.stnSend
  dsimp only
  split
  · exact modFab_memWf hs
  · exact hs

theorem hazard_memWf {p : Nat} {h : HzdRec} (hs : s.memWf) : (s.hazard p h).memWf := by
  unfold State.hazard
  dsimp only
  exact ite_memWf (modPart_memWf (haltPart_memWf (modDev_memWf hs))) (modDev_memWf hs)

theorem hzdWrite_memWf {p t slot ep : Nat} (hs : s.memWf) : (s.hzdWrite p t slot ep).memWf := by
  unfold State.hzdWrite
  dsimp only
  exact ite_memWf hs (ite_memWf (modDev_memWf hs) (hazard_memWf (modDev_memWf hs)))

theorem hzdRead_memWf {p t slot ep iaddr : Nat} (hs : s.memWf) : (s.hzdRead p t slot ep iaddr).memWf := by
  unfold State.hzdRead
  dsimp only
  exact ite_memWf hs (ite_memWf (modDev_memWf hs) (hazard_memWf (modDev_memWf hs)))

theorem landNow_memWf {t : Nat} {e : LandEnt} (hs : s.memWf) : (s.landNow t e).memWf := modDev_memWf (modTile_memWf (wr_memWf _ _ hs))

theorem landUpTo_memWf {t b : Nat} (hs : s.memWf) : (s.landUpTo t b).memWf :=
  foldl_memWf (fun _ _ hu => ite_memWf (landNow_memWf hu) hu) (modTile_memWf hs)

theorem landView_memWf {t : Nat} (hs : s.memWf) : (s.landView t).memWf := landUpTo_memWf hs

theorem landSlot_memWf {p t slot epoch w : Nat} {data : List Byte} (hs : s.memWf) : (s.landSlot p t slot epoch w data).memWf := by
  unfold State.landSlot
  dsimp only
  exact ite_memWf (devCount_memWf hs) (ite_memWf (modPart_memWf hs) (landUpTo_memWf (modTile_memWf (hzdWrite_memWf hs))))

theorem execDoorwayWordWrite_nextWf {door : Nat} {parityOk : Bool} (hs : s.memWf) : NextWf (execDoorwayWordWrite door parityOk s) := by
  unfold execDoorwayWordWrite
  dsimp only
  refine nextWf ?_
  split
  · exact hs
  · refine ite_memWf (modFab_memWf hs) ?_
    refine askTest_memWf ?_
    split
    · exact raise_memWf (modFab_memWf hs)
    · exact modFab_memWf hs

theorem execOnDieLandingWrite_nextWf {t : Nat} (hs : s.memWf) : NextWf (execOnDieLandingWrite t s) := by
  refine nextWf ?_
  split
  · exact hs
  · exact landSlot_memWf (modFab_memWf hs)

/-! #### Scalar -/

theorem scOp_memWf {t op : Nat} {f : DWord → DWord → DWord} (hs : s.memWf) : (s.scOp t op f).memWf :=
  issue_memWf hs (fun _ _ hu => pureAct_keeps hu)

theorem tcOp_memWf {t op : Nat} {f : Tile → QEntry → Tile} (hs : s.memWf) : (s.tcOp t op f).memWf := by
  unfold State.tcOp
  dsimp only
  split
  · exact modTile_memWf hs
  · exact issue_memWf hs (fun _ _ hu => pureAct_keeps hu)

/-! #### LoadStore -/

theorem loftSoft_memWf {t off n : Nat} (hs : s.memWf) : (s.loftSoft t off n).memWf := (loftSoft_kept ..).memWf hs

theorem tagSoft_memWf {t slot n : Nat} (hs : s.memWf) : (s.tagSoft t slot n).memWf :=
  foldl_memWf (fun _ _ hu => askTest_memWf (tileCount_memWf hu)) (modDev_memWf hs)

theorem slotSoft_memWf {t slot n : Nat} (hs : s.memWf) : (s.slotSoft t slot n).memWf := tagSoft_memWf (loftSoft_memWf hs)

theorem loftLoad_keeps {t : Nat} {e : QEntry} {off n align : Nat} {f : List Byte → List Effect} (hs : s.memWf) :
    (s.loftLoad t e off n align f).Keeps := by
  unfold State.loftLoad
  split
  · exact trivial
  · split
    · exact trivial
    · exact loftSoft_memWf hs

theorem Act.loftBusy_keeps {a : Act} {t occ : Nat} (hs : a.Keeps) : (a.loftBusy t occ).Keeps := by
  cases a with
  | fault cls cause fs => exact hs
  | go u eff need => exact modTile_memWf hs
  | wait u w => exact hs

theorem hzdReads_memWf {t slot n epoch iaddr : Nat} (hs : s.memWf) : (s.hzdReads t slot n epoch iaddr).memWf := by
  unfold State.hzdReads
  split
  · exact hs
  · exact foldl_memWf (fun _ _ => hzdRead_memWf) hs

theorem execLdg_nextWf {t : Nat} (hs : s.memWf) : NextWf (execLdg t s) := by
  unfold execLdg
  dsimp only
  refine nextWf ?_
  refine issue_memWf hs (fun _ _ hu => ?_)
  refine ite_keeps hu ?_
  split
  · exact trivial
  · exact Act.loftBusy_keeps (slotSoft_memWf (hzdReads_memWf hu))

theorem countForeign_memWf {n : Nat} (hs : s.memWf) : (s.countForeign n).memWf := ite_memWf hs (devCount_memWf hs)

theorem countLanding_memWf {t off n : Nat} (hs : s.memWf) : (s.countLanding t off n).memWf := ite_memWf (tileCount_memWf hs) hs

theorem execLdm_nextWf {t : Nat} (hs : s.memWf) : NextWf (execLdm t s) := by
  unfold execLdm
  refine nextWf ?_
  refine issue_memWf hs (fun _ _ hu => ?_)
  refine ite_keeps hu ?_
  extract_lets v a n dst
  split
  · exact trivial
  · split
    extract_lets how eff u0 u1 u2
    have h0 : u0.memWf := countForeign_memWf (pushBlks_memWf hu)
    have h1 : u1.memWf := ite_memWf (foldl_memWf (fun _ _ => countLanding_memWf) h0) h0
    have h2 : u2.memWf := ite_memWf (modTile_memWf h1) h1
    exact h2

theorem execFetch_nextWf {t : Nat} (hs : s.memWf) : NextWf (execFetch t s) := by
  unfold execFetch
  dsimp only
  refine nextWf ?_
  split
  · exact ite_memWf (modTile_memWf hs) (foldl_memWf (fun _ _ => fetchLine_memWf) (modTile_memWf hs))
  · refine issue_memWf hs (fun _ _ hu => ?_)
    split
    · exact trivial
    · split
      · exact trivial
      · exact modTile_memWf (foldl_memWf (fun _ _ => fetchLine_memWf) hu)

theorem digStore_memWf {t n : Nat} {skip : Bool} {bs : List Byte} {u : State} (hs : s.memWf) (h : s.digStore t skip n bs = .inr u) :
    u.memWf := by
  unfold State.digStore at h
  dsimp only at h
  split at h
  · exact absurd h (by simp)
  · split at h
    · exact absurd h (by simp)
    · rw [← Sum.inr.inj h]
      exact modTile_memWf hs

theorem withDig_keeps {t n : Nat} {dig skip : Bool} {bs : List Byte} {go : State → Act} (hs : s.memWf)
    (hgo : ∀ u, u.memWf → (go u).Keeps) : (s.withDig t dig skip n bs go).Keeps := by
  refine ite_keeps (hgo s hs) ?_
  split
  · trivial
  · exact hgo _ (digStore_memWf hs ‹_›)

theorem loftStore_keeps {t : Nat} {e : QEntry} {off align : Nat} {bs : List Byte} (hs : s.memWf) :
    (s.loftStore t e off align bs).Keeps := by
  unfold State.loftStore
  split
  · exact trivial
  · exact countLanding_memWf hs

theorem execStl_nextWf {t : Nat} (hs : s.memWf) : NextWf (execStl t s) := by
  unfold execStl
  dsimp only
  exact nextWf (issue_memWf hs (fun _ _ hu => withDig_keeps hu (fun _ hu => ite_keeps hu (loftStore_keeps hu))))

theorem execSta_nextWf {t : Nat} (hs : s.memWf) : NextWf (execSta t s) := by
  unfold execSta
  dsimp only
  exact nextWf (issue_memWf hs (fun _ _ hu => withDig_keeps hu (fun _ hu => ite_keeps hu (loftStore_keeps hu))))

theorem execSts_nextWf {t : Nat} (hs : s.memWf) : NextWf (execSts t s) := by
  unfold execSts
  dsimp only
  exact nextWf (issue_memWf hs (fun _ _ hu => ite_keeps hu (loftStore_keeps hu)))

theorem execStm_nextWf {t : Nat} (hs : s.memWf) : NextWf (execStm t s) := by
  unfold execStm
  dsimp only
  refine nextWf ?_
  refine issue_memWf hs (fun _ _ hu => ?_)
  refine withDig_keeps hu (fun _ hu => ?_)
  refine ite_keeps hu ?_
  split
  · exact trivial
  · split
    · exact trivial
    · exact countForeign_memWf (pushBlks_memWf (ite_memWf (loftSoft_memWf hu) hu))

theorem execStn_nextWf {t : Nat} (hs : s.memWf) : NextWf (execStn t s) := by
  unfold execStn
  dsimp only
  exact nextWf (issue_memWf hs (fun _ _ hu => ite_keeps hu (stnSend_memWf hu)))

theorem execStd_nextWf {t : Nat} (hs : s.memWf) : NextWf (execStd t s) := by
  unfold execStd
  dsimp only
  refine nextWf ?_
  refine issue_memWf hs (fun _ _ hu => ?_)
  split
  · exact ite_keeps trivial (modPort_memWf hu)
  · exact hu

/-! #### Service -/

theorem modChan_memWf {stk ch : Nat} {f : Chan → Chan} (hs : s.memWf) : (s.modChan stk ch f).memWf := modStack_memWf hs

theorem markBad_memWf {a : Nat} (hs : s.memWf) : (s.markBad a).memWf := modDev_memWf hs

theorem countCe_memWf {a n : Nat} (hs : s.memWf) : (s.countCe a n).memWf := (countCe_kept ..).memWf hs

theorem memSoft_memWf {a n : Nat} (hs : s.memWf) : (s.memSoft a n).memWf := (memSoft_kept ..).memWf hs

theorem svcBlk_memWf {a : Nat} (hs : s.memWf) : (s.svcBlk a).memWf := (svcBlk_kept ..).memWf hs

theorem transferFault_memWf {a : Nat} {tile : Option Nat} {fields : List Word} (hs : s.memWf) : (s.transferFault a tile fields).memWf :=
  (transferFault_kept ..).memWf hs

theorem svcCross_memWf {wr : Bool} {r : Bool × State} {a : Nat} (hr : r.2.memWf) : (s.svcCross wr r a).2.memWf :=
  (svcCross_kept ..).memWf hr

theorem svcPass_memWf {wr : Bool} {a n : Nat} (hs : s.memWf) : (s.svcPass wr a n).2.memWf := (svcPass_kept ..).memWf hs

/-! #### SyncOps -/

theorem rafterSend_memWf {p bid dst addr : Nat} (hs : s.memWf) : (s.rafterSend p bid dst addr).memWf := send_memWf hs

theorem rafterRelease_memWf {p bid : Nat} {e : RafterEnt} (hs : s.memWf) : (s.rafterRelease p bid e).memWf :=
  foldl_memWf (fun _ _ => rafterSend_memWf) (modPart_memWf hs)

theorem rafterGen_memWf {p bid : Nat} {e : RafterEnt} {g : Nat} (hs : s.memWf) : (s.rafterGen p bid e g).memWf := by
  unfold State.rafterGen
  dsimp only
  exact ite_memWf (rafterRelease_memWf (modPart_memWf hs)) (modPart_memWf hs)

theorem rafterCheck_memWf {p bid : Nat} {e : RafterEnt} (hs : s.memWf) : (s.rafterCheck p bid e).memWf := by
  unfold State.rafterCheck
  dsimp only
  exact ite_memWf (rafterGen_memWf hs) (ite_memWf (rafterGen_memWf (wrW_memWf _ _ (rafterGen_memWf hs)))
    (rafterSend_memWf (modPart_memWf (rafterGen_memWf hs))))

theorem rafterAct_memWf {p : Nat} (hs : s.memWf) : (s.rafterAct p).memWf := by
  unfold State.rafterAct
  split
  · exact hs
  · refine foldl_memWf (fun _ _ hu => ?_) hs
    split
    · exact rafterCheck_memWf hu
    · exact hu

theorem rafterArrive_memWf {p bid : Nat} {e : RafterEnt} {child : Option Nat} (hs : s.memWf) : (s.rafterArrive p bid e child).memWf := by
  unfold State.rafterArrive
  dsimp only
  refine rafterCheck_memWf ?_
  refine wrW_memWf _ _ ?_
  split
  · exact modPart_memWf hs
  · exact hs

theorem syncDo_memWf {p? : Option Nat} {u : SyncUpd} (hs : s.memWf) : (s.syncDo p? u).memWf := by
  unfold State.syncDo
  dsimp only
  refine ite_memWf hs ?_
  split
  · exact wrW_memWf _ _ hs
  · split
    · exact rafterCheck_memWf (wrW_memWf _ _ hs)
    · exact wrW_memWf _ _ hs

theorem syRemote_keeps {t : Nat} {e : QEntry} {a : Nat} {u : SyncUpd} (hs : s.memWf) : (s.syRemote t e a u).Keeps := by
  unfold State.syRemote
  dsimp only
  refine ite_keeps trivial ?_
  refine ite_keeps trivial ?_
  split
  · exact hs
  · exact send_memWf hs

theorem syUpdate_memWf {t op : Nat} (hs : s.memWf) : (s.syUpdate t op).memWf := by
  unfold State.syUpdate
  dsimp only
  refine issue_memWf hs (fun _ _ hu => ?_)
  refine ite_keeps hu ?_
  refine ite_keeps (syRemote_keeps hu) ?_
  split
  · exact trivial
  · split
    · exact trivial
    · exact ite_memWf hu (loftSoft_memWf hu)
  · exact pushBlk_memWf hu
  · exact devCount_memWf hu

theorem waitHit_memWf {t : Nat} (hs : s.memWf) : (s.waitHit t).memWf := ite_memWf (modTile_memWf hs) (modTile_memWf hs)

theorem waitRead_memWf {t : Nat} {x : DWord} {poll : Nat} (hs : s.memWf) : (s.waitRead t x poll).memWf := by
  unfold State.waitRead
  dsimp only
  split
  · exact hs
  · exact ite_memWf (waitHit_memWf (modTile_memWf hs)) (modTile_memWf hs)

theorem syWait_memWf {t op : Nat} (hs : s.memWf) : (s.syWait t op).memWf := by
  unfold State.syWait
  dsimp only
  refine issue_memWf hs (fun _ _ hu => ?_)
  refine ite_keeps hu ?_
  split
  · exact trivial
  · exact ite_keeps (devCount_memWf hu) (devCount_memWf hu)
  · exact ite_keeps hu hu
  · split
    · exact trivial
    · exact ite_keeps (modTile_memWf (loftSoft_memWf hu)) (modTile_memWf (loftSoft_memWf hu))
  · exact pushBlk_memWf (modTile_memWf hu)

theorem execMonitorNotify_nextWf {t : Nat} (hs : s.memWf) : NextWf (execMonitorNotify t s) := by
  unfold execMonitorNotify
  dsimp only
  refine nextWf ?_
  split
  · exact hs
  · refine ite_memWf (modTile_memWf hs) ?_
    split
    · refine ite_memWf ?_ (modTile_memWf (modTile_memWf hs))
      split
      · exact waitRead_memWf (modTile_memWf (modTile_memWf hs))
      · exact modTile_memWf (modTile_memWf hs)
    · exact modTile_memWf (modTile_memWf hs)

theorem waitBad_memWf {t cause iaddr : Nat} {fields : List Word} (hs : s.memWf) : (s.waitBad t cause iaddr fields).memWf :=
  opFault_memWf (modTile_memWf hs)

theorem pollLoft_memWf {t : Nat} {w : Wait} (hs : s.memWf) : (s.pollLoft t w).memWf := by
  unfold State.pollLoft
  split
  · exact waitBad_memWf hs
  · exact waitRead_memWf (loftSoft_memWf hs)

theorem pollMarl_memWf {t : Nat} {w : Wait} (hs : s.memWf) : (s.pollMarl t w).memWf := by
  unfold State.pollMarl
  dsimp only
  refine ite_memWf (modTile_memWf (svcPass_memWf hs)) ?_
  split
  · exact waitBad_memWf (svcPass_memWf hs)
  · exact waitRead_memWf (memSoft_memWf (svcPass_memWf hs))

theorem execSyncPollRead_nextWf {t : Nat} (hs : s.memWf) : NextWf (execSyncPollRead t s) := by
  refine nextWf ?_
  split
  · exact hs
  · refine ite_memWf (pollLoft_memWf (tileCount_memWf hs)) ?_
    refine ite_memWf ?_ hs
    split
    · exact pollMarl_memWf (tileCount_memWf hs)
    · exact waitRead_memWf (devCount_memWf (tileCount_memWf hs))
    · exact hs

theorem execRbar_nextWf {t : Nat} (hs : s.memWf) : NextWf (execRbar t s) := by
  unfold execRbar
  dsimp only
  refine nextWf ?_
  refine issue_memWf hs (fun _ _ hu => ?_)
  refine ite_keeps hu ?_
  split
  · exact hu
  · split
    · exact trivial
    · split
      · exact trivial
      · exact modTile_memWf hu

theorem rbarDone_memWf {t bid : Nat} (hs : s.memWf) : (s.rbarDone t bid).memWf := by
  unfold State.rbarDone
  split
  · exact hs
  · split
    · exact rafterArrive_memWf hs
    · exact hs

theorem execRwait_nextWf {t : Nat} (hs : s.memWf) : NextWf (execRwait t s) := by
  unfold execRwait
  dsimp only
  refine nextWf ?_
  refine issue_memWf hs (fun _ _ hu => ?_)
  refine ite_keeps hu ?_
  split
  · exact hu
  · split
    · exact trivial
    · exact ite_keeps hu hu

theorem execRafterRelease_nextWf {t : Nat} (hs : s.memWf) : NextWf (execRafterRelease t s) := by
  refine nextWf ?_
  split
  · refine ite_memWf hs ?_
    split
    · exact ite_memWf (waitHit_memWf hs) hs
    · exact hs
  · exact hs

theorem execMbar_nextWf {t : Nat} (hs : s.memWf) : NextWf (execMbar t s) := by
  unfold execMbar
  dsimp only
  refine nextWf ?_
  refine issue_memWf hs (fun _ _ hu => ?_)
  refine ite_keeps hu ?_
  split
  · exact hu
  · refine ite_keeps (ite_keeps hu hu) ?_
    split
    · exact trivial
    · split
      · exact trivial
      · exact ite_keeps trivial (modTile_memWf (modPart_memWf hu))

theorem execMaskBarrierRelease_nextWf {p mid : Nat} (hs : s.memWf) : NextWf (execMaskBarrierRelease p mid s) := by
  unfold execMaskBarrierRelease
  dsimp only
  refine nextWf ?_
  split
  · exact hs
  · refine ite_memWf hs ?_
    refine foldl_memWf (fun _ _ hu => ?_) (modPart_memWf hs)
    split
    · exact ite_memWf (waitHit_memWf hu) hu
    · exact hu

/-! #### Beat -/

theorem dropFlight_memWf {t id : Nat} (hs : s.memWf) : (s.dropFlight t id).memWf := modTile_memWf hs

theorem windowEvent_memWf {t : Nat} (hs : s.memWf) : (s.windowEvent t).memWf := by
  unfold State.windowEvent
  dsimp only
  split
  · exact modPart_memWf hs
  · exact hs

theorem goOn_memWf {t b : Nat} {f : Flight} (hs : s.memWf) : (s.goOn t b f).memWf := by
  unfold State.goOn
  dsimp only
  refine foldl_memWf (fun _ _ hu => ?_) hs
  split
  · refine ite_memWf hu ?_
    split
    · exact opFault_memWf (dropFlight_memWf (hzdReads_memWf hu))
    · exact modTile_memWf (slotSoft_memWf (hzdReads_memWf hu))
  · exact ite_memWf hu (modTile_memWf (stnSend_memWf hu))
  · exact ite_memWf (windowEvent_memWf (setTile_memWf hu)) (setTile_memWf hu)
  · exact hu

theorem goOnAll_memWf {t b : Nat} (hs : s.memWf) : (s.goOnAll t b).memWf := foldl_memWf (fun _ _ => goOn_memWf) hs

theorem decodeWord_memWf {t : Nat} {h : Word} {ops : List (Queue × Word × Word)} (hs : s.memWf) : (s.decodeWord t h ops).memWf :=
  modTile_memWf hs

theorem malformed_memWf {t : Nat} {h : Word} {why : Nat} (hs : s.memWf) : (s.malformed t h why).memWf := tileFault_memWf (modTile_memWf hs)

theorem countBeat_memWf {t : Nat} {inC : Bool} (hs : s.memWf) : (s.countBeat t inC).memWf := by
  unfold State.countBeat
  dsimp only
  exact modTile_memWf (ite_memWf (charge_memWf hs) hs)

theorem planBeat_memWf {t : Nat} {inC : Bool} (hs : s.memWf) : (s.planBeat t inC).memWf := modTile_memWf (countBeat_memWf hs)

theorem maintBeat_memWf {t : Nat} (hs : s.memWf) : (s.maintBeat t).memWf := modTile_memWf (countBeat_memWf hs)

theorem endCourse_memWf {t : Nat} (hs : s.memWf) : (s.endCourse t).memWf := by
  unfold State.endCourse
  dsimp only
  split
  · exact hs
  · exact ite_memWf hs (modTile_memWf hs)

theorem stallBeat_memWf {t : Nat} (hs : s.memWf) : (s.stallBeat t).memWf := charge_memWf hs

theorem mxBeat_memWf {t b : Nat} {ramp issues plan : Bool} (hs : s.memWf) : (s.mxBeat t b ramp issues plan).memWf :=
  ite_memWf (mxBusy_memWf hs) (ite_memWf hs (modTile_memWf hs))

theorem workBeat_memWf {t b : Nat} {inC late : Bool} (hs : s.memWf) : (s.workBeat t b inC late).memWf := by
  unfold State.workBeat
  extract_lets v hzd s1 look miss x1 s2 s3
  have h3 : s3.memWf := ite_memWf (planBeat_memWf (mxBeat_memWf hs)) (modTile_memWf (planBeat_memWf (mxBeat_memWf hs)))
  refine ite_memWf (ite_memWf (mxBeat_memWf hs) (stallBeat_memWf (mxBeat_memWf hs))) ?_
  refine ite_memWf (maintBeat_memWf (mxBeat_memWf hs)) ?_
  refine ite_memWf (stallBeat_memWf (modTile_memWf (mxBeat_memWf hs))) ?_
  refine ite_memWf (charge_memWf (modTile_memWf (mxBeat_memWf hs))) ?_
  clear_value look
  split
  · exact tileCount_memWf h3
  · exact modTile_memWf h3
  · exact malformed_memWf h3
  · exact decodeWord_memWf h3
  · exact h3

theorem rampBeat_memWf {t b : Nat} (hs : s.memWf) : (s.rampBeat t b).memWf := modTile_memWf (mxBeat_memWf hs)

theorem tileBeat_memWf {t : Nat} (hs : s.memWf) : (s.tileBeat t).memWf := by
  unfold State.tileBeat
  extract_lets b s0 s1 inC s2 late
  have h1 : s1.memWf := goOnAll_memWf (landUpTo_memWf (modTile_memWf hs))
  have h2 : s2.memWf := ite_memWf (modTile_memWf h1) h1
  exact ite_memWf (mxBeat_memWf h2) (ite_memWf (rampBeat_memWf h2) (ite_memWf (mxBeat_memWf h2) (endCourse_memWf (workBeat_memWf h2))))

theorem effect_memWf {t : Nat} {e : Effect} (hs : s.memWf) : (s.effect t e).memWf := by
  unfold State.effect
  dsimp only
  split
  · exact modTile_memWf hs
  · exact modTile_memWf hs
  · exact modTile_memWf hs
  · exact wr_memWf _ _ hs
  · exact ite_memWf (windowEvent_memWf (modTile_memWf hs)) (modTile_memWf hs)
  · exact modTile_memWf hs
  · exact ite_memWf (windowEvent_memWf (setTile_memWf hs)) (setTile_memWf hs)
  · exact modTile_memWf hs
  · exact hs
  · exact syncDo_memWf hs
  · exact rbarDone_memWf hs
  · exact hs
  · exact hs

theorem setBit_memWf {t : Nat} {f : Flight} (hs : s.memWf) : (s.setBit t f).memWf := by
  unfold State.setBit
  dsimp only
  split
  · exact hs
  · exact ite_memWf (tileFault_memWf (modTile_memWf hs)) (modTile_memWf hs)

theorem complete_memWf {t : Nat} {f : Flight} (hs : s.memWf) : (s.complete t f).memWf :=
  setBit_memWf (foldl_memWf (fun _ _ => effect_memWf) (dropFlight_memWf hs))

theorem execOperationComplete_nextWf {t : Nat} {q : Queue} (hs : s.memWf) : NextWf (execOperationComplete t q s) := by
  unfold execOperationComplete
  dsimp only
  refine nextWf ?_
  split
  · exact ite_memWf (complete_memWf hs) hs
  · exact hs

theorem execTileDrainEnd_nextWf {t : Nat} (hs : s.memWf) : NextWf (execTileDrainEnd t s) := by
  unfold execTileDrainEnd
  dsimp only
  exact nextWf (ite_memWf (modTile_memWf hs) hs)

theorem execLoftEccWriteback_nextWf {t : Nat} (hs : s.memWf) : NextWf (execLoftEccWriteback t s) := by
  unfold execLoftEccWriteback
  refine nextWf ?_
  split
  · exact hs
  · refine ite_memWf hs (ite_memWf (modTile_memWf hs) ?_)
    rw [memWf_iff] at hs ⊢
    exact ⟨SMap.wf_putList _ _ hs.1, hs.2⟩

end Sys2Proof
end

section
namespace Sys2Proof

open Machine

/-! ### Canonical memory: Marl, clocks, ports and links -/

variable {s : State}

/-! #### Marl -/

theorem lateBlk_memWf {b : Blk} {f? : Option Flight} (hs : s.memWf) : (s.lateBlk b f?).memWf := ite_memWf (stackCount_memWf hs) hs

theorem blkCrossed_memWf {b : Blk} {e : Option Effect} (hs : s.memWf) : (s.blkCrossed b e).memWf := modTile_memWf (lateBlk_memWf hs)

theorem blkArrive_memWf {x : BackBlk} (hs : s.memWf) : (s.blkArrive x).memWf := by
  unfold State.blkArrive
  dsimp only
  split
  · exact blkCrossed_memWf hs
  · exact ite_memWf (blkCrossed_memWf (tileCount_memWf (modTile_memWf hs))) (blkCrossed_memWf (modTile_memWf hs))
  · exact modTile_memWf (lateBlk_memWf hs)
  · exact blkCrossed_memWf hs
  · exact blkCrossed_memWf hs
  · split
    · exact ite_memWf (waitRead_memWf (modTile_memWf hs)) hs
    · exact hs

theorem marlBack_memWf {stk : Nat} (hs : s.memWf) : (s.marlBack stk).memWf := foldl_memWf (fun _ _ => blkArrive_memWf) (modStack_memWf hs)

theorem blkStack_memWf {b : Blk} (hs : s.memWf) : (s.blkStack b).memWf := by
  unfold State.blkStack
  split
  · exact wr_memWf _ _ hs
  · exact syncDo_memWf hs
  · exact hs

theorem blkDone_memWf {b : Blk} (hs : s.memWf) : (s.blkDone b).memWf := marlBack_memWf (modStack_memWf (blkStack_memWf hs))

theorem blkLost_memWf {b : Blk} (hs : s.memWf) : (s.blkLost b).memWf := by
  unfold State.blkLost
  split
  · split
    · exact dropFlight_memWf hs
    · exact hs
  · exact modTile_memWf hs
  · exact dropFlight_memWf hs

theorem blkBad_memWf {b : Blk} {sector : Nat} (hs : s.memWf) : (s.blkBad b sector).memWf :=
  tileFault_memWf (modTile_memWf (blkLost_memWf (askTest_memWf (markBad_memWf hs))))

theorem sweepBlk_memWf {stk die ch : Nat} {plan : Bool} (hs : s.memWf) : (s.sweepBlk stk die ch plan).memWf := modStack_memWf hs

theorem blkChecked_memWf {b : Blk} {ecc : EccEvent} (hs : s.memWf) : (s.blkChecked b ecc).memWf := by
  unfold State.blkChecked
  dsimp only
  refine ite_memWf (blkDone_memWf hs) ?_
  split
  · exact blkBad_memWf hs
  · exact blkBad_memWf hs
  · exact blkDone_memWf (memSoft_memWf (countCe_memWf hs))
  · exact blkDone_memWf (memSoft_memWf hs)

theorem crcFail_memWf {stk ch : Nat} {b : Blk} (hs : s.memWf) : (s.crcFail stk ch b).memWf := askTest_memWf (stackCount_memWf hs)

theorem blkMeter_memWf {stk ch : Nat} {b : Blk} (hs : s.memWf) : (s.blkMeter stk ch b).memWf := by
  unfold State.blkMeter
  dsimp only
  exact ite_memWf (modStack_memWf (sweepBlk_memWf hs)) (sweepBlk_memWf hs)

theorem blkFirst_memWf {stk ch : Nat} {b : Blk} {crcOk : Bool} {ecc : EccEvent} (hs : s.memWf) : (s.blkFirst stk ch b crcOk ecc).memWf := by
  unfold State.blkFirst
  dsimp only
  exact ite_memWf (blkChecked_memWf (blkMeter_memWf hs)) (modChan_memWf (crcFail_memWf (blkMeter_memWf hs)))

theorem svcPosition_memWf {stk ch : Nat} (hs : s.memWf) : (s.svcPosition stk ch).memWf := by
  unfold State.svcPosition
  split
  · exact hs
  · exact sweepBlk_memWf (modChan_memWf hs)

theorem execMarlPositionTransfer_nextWf {stk ch : Nat} {crcOk : Bool} {ecc : EccEvent} (hs : s.memWf) :
    NextWf (execMarlPositionTransfer stk ch crcOk ecc s) := by
  unfold execMarlPositionTransfer
  dsimp only
  refine nextWf ?_
  refine ite_memWf hs ?_
  split
  · exact blkFirst_memWf (modChan_memWf hs)
  · exact ite_memWf hs (svcPosition_memWf hs)

theorem execMarlBlockResend_nextWf {stk ch : Nat} {crcOk : Bool} {ecc : EccEvent} (hs : s.memWf) :
    NextWf (execMarlBlockResend stk ch crcOk ecc s) := by
  unfold execMarlBlockResend
  dsimp only
  refine nextWf ?_
  split
  · exact hs
  · exact ite_memWf hs (ite_memWf (blkChecked_memWf (blkMeter_memWf (modChan_memWf hs)))
      (transferFault_memWf (blkLost_memWf (crcFail_memWf (blkMeter_memWf (modChan_memWf hs))))))

theorem execIcacheMissFill_nextWf {t : Nat} (hs : s.memWf) : NextWf (execIcacheMissFill t s) := by
  unfold execIcacheMissFill
  dsimp only
  refine nextWf ?_
  split
  · exact hs
  · exact ite_memWf (devCount_memWf (modTile_memWf hs)) (blkFirst_memWf (modChan_memWf (modDev_memWf hs)))

theorem execMarlRefreshWindow_nextWf {stk ch : Nat} {katPass : Bool} (hs : s.memWf) : NextWf (execMarlRefreshWindow stk ch katPass s) := by
  unfold execMarlRefreshWindow
  dsimp only
  refine nextWf ?_
  refine ite_memWf hs ?_
  refine ite_memWf (modStack_memWf (modChan_memWf hs)) ?_
  refine ite_memWf (devCount_memWf (modStack_memWf (modChan_memWf hs))) ?_
  refine askTest_memWf ?_
  split
  · exact raise_memWf (devCount_memWf (modStack_memWf (modChan_memWf hs)))
  · exact devCount_memWf (modStack_memWf (modChan_memWf hs))

theorem execPatrolScrub_nextWf {stk sector : Nat} {ecc : EccEvent} (hs : s.memWf) : NextWf (execPatrolScrub stk sector ecc s) := by
  unfold execPatrolScrub
  refine nextWf (ite_memWf hs ?_)
  extract_lets a s1 bad
  have h1 : s1.memWf := svcBlk_memWf (modStack_memWf hs)
  have hbad : (bad s1).memWf := by
    unfold bad
    extract_lets u
    split
    · exact raise_memWf (askTest_memWf (markBad_memWf h1))
    · exact askTest_memWf (markBad_memWf h1)
  obtain ⟨w, hw⟩ : ∃ w, w = bad s1 := ⟨_, rfl⟩
  rw [← hw] at hbad ⊢
  split
  · exact hbad
  · exact hbad
  · exact countCe_memWf h1
  · exact modDev_memWf (memSoft_memWf h1)

theorem execKatSegment_nextWf {t : Nat} {pass : Bool} (hs : s.memWf) : NextWf (execKatSegment t pass s) := by
  unfold execKatSegment
  dsimp only
  exact nextWf (ite_memWf hs (ite_memWf (devCount_memWf (modTile_memWf hs))
    (askTest_memWf (tileFault_memWf (devCount_memWf (modTile_memWf hs))))))

/-! #### Access -/

theorem regViol_memWf (hs : s.memWf) : (s.regViol).memWf := modCmd_memWf rfl hs

theorem devWrite_memWf {a : Accessor} {f : State → State} (hs : s.memWf) (hf : ∀ u, u.memWf → (f u).memWf) : (s.devWrite a f).memWf :=
  ite_memWf hs (ite_memWf (hf _ hs) (regViol_memWf hs))

theorem partWrite_memWf {a : Accessor} {p : Nat} {f : State → State} (hs : s.memWf) (hf : ∀ u, u.memWf → (f u).memWf) :
    (s.partWrite a p f).memWf :=
  ite_memWf hs (ite_memWf (hf _ hs) (regViol_memWf hs))

theorem readReply_memWf {bs : List Byte} (hs : s.memWf) : (s.readReply bs).memWf := modCmd_memWf rfl hs

/-! #### Clocks -/

theorem stretch_memWf {r add e8 : Nat} (hs : s.memWf) : (s.stretch r add e8).memWf :=
  foldl_memWf (fun _ _ => charge_memWf) (modRoom_memWf hs)

theorem announce_memWf {r add : Nat} (hs : s.memWf) : (s.announce r add).memWf := by
  unfold State.announce
  dsimp only
  exact foldl_memWf (fun _ _ hu => ite_memWf hu (modRoom_memWf hu)) hs

theorem execDroopDetect_nextWf {r level : Nat} (hs : s.memWf) : NextWf (execDroopDetect r level s) := by
  unfold execDroopDetect
  dsimp only
  refine nextWf ?_
  refine ite_memWf hs ?_
  split
  · exact ite_memWf (foldl_memWf (fun _ _ hu => ite_memWf hu (modRoom_memWf hu)) (stretch_memWf (modRoom_memWf hs))) hs
  · exact ite_memWf (foldl_memWf (fun _ _ hu => ite_memWf hu (modRoom_memWf hu)) (stretch_memWf (modRoom_memWf hs)))
      (announce_memWf (stretch_memWf (modRoom_memWf hs)))

theorem execStretchEcho_nextWf {r : Nat} (hs : s.memWf) : NextWf (execStretchEcho r s) := by
  unfold execStretchEcho
  dsimp only
  refine nextWf ?_
  split
  · exact hs
  · exact stretch_memWf (modRoom_memWf hs)

theorem execStepdownEnd_nextWf {r : Nat} (hs : s.memWf) : NextWf (execStepdownEnd r s) := by
  unfold execStepdownEnd
  dsimp only
  exact nextWf (ite_memWf (modRoom_memWf hs) hs)

theorem execSbnRestart_nextWf {r : Nat} (hs : s.memWf) : NextWf (execSbnRestart r s) := by
  unfold execSbnRestart
  dsimp only
  exact nextWf (ite_memWf hs (modRoom_memWf hs))

theorem timeFault_memWf {cause : Nat} {fields : List Word} (hs : s.memWf) : (s.timeFault cause fields).memWf :=
  foldl_memWf (fun _ _ => raise_memWf) hs

theorem tdSettle_memWf (hs : s.memWf) : (s.tdSettle).memWf := ite_memWf (modMnt_memWf hs) hs

theorem refGood_memWf {b : Bool} (hs : s.memWf) : (s.refGood b).memWf := modMnt_memWf hs

theorem refBad_memWf {b : Bool} (hs : s.memWf) : (s.refBad b).memWf := by
  unfold State.refBad
  dsimp only
  exact ite_memWf (modMnt_memWf hs) (ite_memWf (mntCount_memWf (modMnt_memWf (modMnt_memWf hs)))
    (timeFault_memWf (modMnt_memWf (modMnt_memWf hs))))

theorem execRefclkWindowEnd_nextWf {ref : Nat} {w : RefWindow} (hs : s.memWf) : NextWf (execRefclkWindowEnd ref w s) := by
  unfold execRefclkWindowEnd
  extract_lets b soft freq hard s1 s2
  have h1 : s1.memWf := ite_memWf (mntCount_memWf hs) hs
  have h2 : s2.memWf := modMnt_memWf h1
  exact nextWf (ite_memWf hs (ite_memWf (refBad_memWf h1) (ite_memWf (modMnt_memWf h1) (ite_memWf (refGood_memWf h2) h2))))

theorem execRefRevertTimeout_nextWf (hs : s.memWf) : NextWf (execRefRevertTimeout s) := by
  unfold execRefRevertTimeout
  dsimp only
  exact nextWf (ite_memWf (modMnt_memWf hs) hs)

theorem execTimeExchangeTimer_nextWf {port : Nat} (hs : s.memWf) : NextWf (execTimeExchangeTimer port s) := by
  unfold execTimeExchangeTimer
  dsimp only
  exact nextWf (ite_memWf hs (modPort_memWf hs))

theorem execTimeRequestReceive_nextWf {port t2 : Nat} (hs : s.memWf) : NextWf (execTimeRequestReceive port t2 s) := by
  unfold execTimeRequestReceive
  dsimp only
  refine nextWf ?_
  split
  · exact hs
  · exact setPort_memWf hs

theorem steer_memWf {port : Nat} {theta : Int} {ptrk : Bool} (hs : s.memWf) : (s.steer port theta ptrk).memWf := by
  unfold State.steer
  extract_lets s1 load s2 small s3 s4
  have h2 : s2.memWf := ite_memWf (modMnt_memWf (modMnt_memWf hs)) (modMnt_memWf hs)
  have h4 : s4.memWf := modMnt_memWf (ite_memWf h2 (mntCount_memWf h2))
  exact ite_memWf h4 (timeFault_memWf (modMnt_memWf h4))

theorem checkDelay_memWf {port delay : Nat} (hs : s.memWf) : (s.checkDelay port delay).memWf := by
  unfold State.checkDelay
  dsimp only
  refine foldl_memWf (fun _ _ hu => ?_) hs
  split
  · exact hu
  · split
    · exact ite_memWf (raise_memWf hu) hu
    · exact hu

theorem execTimeReplyReceive_nextWf {port t1 t4 : Nat} (hs : s.memWf) : NextWf (execTimeReplyReceive port t1 t4 s) := by
  unfold execTimeReplyReceive
  refine nextWf ?_
  split
  · exact hs
  · extract_lets b d1 d2 theta delay s0 s1 x
    have h1 : s1.memWf := checkDelay_memWf (setPort_memWf (ite_memWf (modMnt_memWf hs) hs))
    exact ite_memWf (setPort_memWf hs) (ite_memWf (steer_memWf h1) h1)

theorem execParentSilenceTimeout_nextWf (hs : s.memWf) : NextWf (execParentSilenceTimeout s) := by
  unfold execParentSilenceTimeout
  dsimp only
  exact nextWf (ite_memWf hs (ite_memWf (modMnt_memWf hs) (ite_memWf (modMnt_memWf hs) hs)))

theorem execHoldoverLimit_nextWf (hs : s.memWf) : NextWf (execHoldoverLimit s) := by
  unfold execHoldoverLimit
  dsimp only
  exact nextWf (ite_memWf (timeFault_memWf (modMnt_memWf hs)) hs)

theorem execMntTdCtlWrite_nextWf {acc : Accessor} {v : BitVec 32} (hs : s.memWf) : NextWf (execMntTdCtlWrite acc v s) :=
  nextWf (devWrite_memWf hs (fun _ hu => tdSettle_memWf (modMnt_memWf (modMnt_memWf hu))))

theorem execMntWcCommit_nextWf {acc : Accessor} {v : BitVec 32} (hs : s.memWf) : NextWf (execMntWcCommit acc v s) :=
  nextWf (devWrite_memWf hs (fun _ hu => ite_memWf (modMnt_memWf hu) hu))

/-! #### Ports -/

theorem layService_memWf {n fuel : Nat} : ∀ {s : State} {x : Nat} {l : List Slot}, s.memWf → (s.layService n fuel x l).memWf := by
  induction fuel with
  | zero => exact fun hs => hs
  | succ fuel ih =>
    intro s x l hs
    cases l with
    | nil => exact hs
    | cons k r => exact ite_memWf (ih hs) (ih (modPort_memWf hs))

theorem relay_memWf {n x : Nat} (hs : s.memWf) : (s.relay n x).memWf := layService_memWf (modPort_memWf hs)

theorem putLink_memWf {n x : Nat} {k : Slot} (hs : s.memWf) : (s.putLink n x k).memWf := by
  unfold State.putLink
  dsimp only
  split
  · exact modPort_memWf hs
  · exact relay_memWf (modPort_memWf (modPort_memWf hs))

theorem refit_memWf {n b : Nat} (hs : s.memWf) : (s.refit n b).memWf :=
  layService_memWf (foldl_memWf (fun _ _ => putLink_memWf) (modPort_memWf hs))

theorem collide_memWf {n x : Nat} {lose win : Slot} (hs : s.memWf) : (s.collide n x lose win).memWf := raise_memWf (portCount_memWf hs)

theorem claim_memWf {n : Nat} {ks : List (Nat × Slot)} (hs : s.memWf) : (s.claim n ks).memWf := by
  unfold State.claim
  dsimp only
  split
  · exact hs
  · exact layService_memWf (foldl_memWf (fun _ _ => putLink_memWf) (modPort_memWf hs))

theorem reserve_memWf {n : Nat} {times : List (Nat × Flit)} {k : Slot} (hs : s.memWf) : (s.reserve n times k).memWf := by
  unfold State.reserve
  dsimp only
  exact ite_memWf hs (claim_memWf hs)

theorem placePlan_memWf {n fuel : Nat} {times : List (Nat × Flit)} {k : Slot} :
    ∀ {s : State}, s.memWf → (s.placePlan n times k fuel).memWf := by
  induction fuel with
  | zero => exact fun hs => hs
  | succ fuel ih =>
    intro s hs
    unfold State.placePlan
    dsimp only
    split
    · exact claim_memWf hs
    · exact ite_memWf (collide_memWf hs) (ih (ite_memWf (collide_memWf (modPort_memWf hs)) (modPort_memWf hs)))

theorem wantRetrain_memWf {n : Nat} (hs : s.memWf) : (s.wantRetrain n).memWf := ite_memWf hs (modPort_memWf hs)

theorem queueReplay_memWf {n : Nat} {f : TxFlit} (hs : s.memWf) : (s.queueReplay n f).memWf := by
  unfold State.queueReplay
  dsimp only
  exact ite_memWf hs (ite_memWf (wantRetrain_memWf (modPort_memWf hs)) (modPort_memWf hs))

theorem hush_memWf {n : Nat} (hs : s.memWf) : (s.hush n).memWf := modPort_memWf hs

theorem speak_memWf {n : Nat} (hs : s.memWf) : (s.speak n).memWf := by
  unfold State.speak
  dsimp only
  exact ite_memWf hs (layService_memWf hs)

theorem settle_memWf {n : Nat} {was : Bool} (hs : s.memWf) : (s.settle n was).memWf :=
  ite_memWf hs (ite_memWf (speak_memWf hs) (hush_memWf hs))

theorem linkFault_memWf {n newSt cause : Nat} (hs : s.memWf) : (s.linkFault n newSt cause).memWf := by
  unfold State.linkFault
  dsimp only
  exact foldl_memWf (fun _ _ hu => ite_memWf (raise_memWf (modPort_memWf hu)) hu) hs

theorem enterRetrain_memWf {n cause : Nat} (hs : s.memWf) : (s.enterRetrain n cause).memWf := by
  unfold State.enterRetrain
  dsimp only
  exact ite_memWf hs (linkFault_memWf (modPort_memWf hs))

theorem returnCredit_memWf {ing : Option Nat} {vc k : Nat} (hs : s.memWf) : (s.returnCredit ing vc k).memWf := by
  unfold State.returnCredit
  dsimp only
  split
  · exact hs
  · exact modPort_memWf hs

theorem enterDown_memWf {n cause : Nat} (hs : s.memWf) : (s.enterDown n cause).memWf := by
  unfold State.enterDown
  dsimp only
  exact ite_memWf hs (linkFault_memWf (ite_memWf (foldl_memWf (fun _ _ => answerDrop_memWf)
    (foldl_memWf (fun _ _ => returnCredit_memWf) (modPort_memWf hs)))
      (askTest_memWf (foldl_memWf (fun _ _ => answerDrop_memWf) (foldl_memWf (fun _ _ => returnCredit_memWf) (modPort_memWf hs))))))

theorem enterTrain_memWf {n : Nat} (hs : s.memWf) : (s.enterTrain n).memWf := by
  unfold State.enterTrain
  dsimp only
  exact ite_memWf (modPort_memWf hs) hs

/-! #### Link -/

theorem controlFlit_memWf {n : Nat} (hs : s.memWf) : (s.controlFlit n).2.memWf := setPort_memWf hs

theorem execReplayPositionSend_nextWf {port : Nat} (hs : s.memWf) : NextWf (execReplayPositionSend port s) := by
  unfold execReplayPositionSend
  dsimp only
  refine nextWf ?_
  refine ite_memWf hs ?_
  split
  · exact putLink_memWf (modPort_memWf (modPort_memWf hs))
  · exact putLink_memWf (controlFlit_memWf (modPort_memWf hs))

theorem closeGroup_memWf {n e : Nat} (hs : s.memWf) : (s.closeGroup n e).memWf :=
  foldl_memWf (fun _ _ => returnCredit_memWf) (setPort_memWf hs)

theorem execControlPositionSend_nextWf {port : Nat} (hs : s.memWf) : NextWf (execControlPositionSend port s) := by
  unfold execControlPositionSend
  dsimp only
  refine nextWf ?_
  refine ite_memWf hs ?_
  split
  · exact ite_memWf hs (closeGroup_memWf (refit_memWf hs))
  · exact ite_memWf hs (ite_memWf (enterRetrain_memWf (closeGroup_memWf (putLink_memWf (controlFlit_memWf hs))))
      (closeGroup_memWf (putLink_memWf (controlFlit_memWf hs))))

theorem servicePacket_memWf {n : Nat} {fl : List Flit} {t : Nat} (hs : s.memWf) : (s.servicePacket n fl t).memWf := by
  unfold State.servicePacket
  dsimp only
  split
  · exact hs
  · exact ite_memWf (returnCredit_memWf (portCount_memWf hs)) (ite_memWf (returnCredit_memWf (fabCount_memWf hs)) (modPort_memWf hs))

theorem takeService_memWf {n ssn t : Nat} {f : Flit} (hs : s.memWf) : (s.takeService n ssn t f).memWf := by
  unfold State.takeService
  dsimp only
  exact ite_memWf (ite_memWf (servicePacket_memWf (modPort_memWf hs)) (modPort_memWf hs)) (portCount_memWf hs)

theorem takeFlits_memWf {n st k : Nat} {g : Group} : ∀ {s : State} {pos ssn psn li ra rb : Nat}, s.memWf →
    (s.takeFlits n g st k pos ssn psn li ra rb).memWf := by
  induction k with
  | zero => exact fun hs => hs
  | succ k ih =>
    intro s pos ssn psn li ra rb hs
    unfold State.takeFlits
    dsimp only
    split
    · exact ih hs
    · exact ih (takeService_memWf hs)
    · exact ih (modPort_memWf hs)
    · split
      · exact ih (modPort_memWf hs)
      · exact ih (modPort_memWf hs)
      · exact ih (modPort_memWf hs)
      · exact ih (modPort_memWf hs)

theorem planComplete_memWf {n : Nat} {kn : Nat × Nat × Bool} (hs : s.memWf) : (s.planComplete n kn).memWf := by
  unfold State.planComplete
  dsimp only
  split
  · exact modPort_memWf hs
  · exact ite_memWf (portCount_memWf (modPort_memWf hs)) (ite_memWf (fabCount_memWf (modPort_memWf hs)) (modPort_memWf (modPort_memWf hs)))

theorem keepPlace_memWf {n : Nat} {k : Nat × Nat × Bool} (hs : s.memWf) : (s.keepPlace n k).memWf := by
  unfold State.keepPlace
  dsimp only
  refine ite_memWf hs ?_
  split
  · exact hs
  · exact ite_memWf hs (reserve_memWf (modPort_memWf hs))

theorem assemble_memWf {n : Nat} (hs : s.memWf) : (s.assemble n).memWf :=
  modPort_memWf (foldl_memWf (fun _ _ => keepPlace_memWf) (foldl_memWf (fun _ _ => planComplete_memWf) hs))

theorem execLinkGroupReceive_nextWf {port : Nat} {g : Group} {fecOk : Bool} (hs : s.memWf) :
    NextWf (execLinkGroupReceive port g fecOk s) := by
  unfold execLinkGroupReceive
  dsimp only
  exact nextWf (ite_memWf hs (ite_memWf (portCount_memWf (modPort_memWf hs))
    (assemble_memWf (takeFlits_memWf (modPort_memWf (modPort_memWf hs))))))

theorem execControlFlitReceive_nextWf {port : Nat} (hs : s.memWf) : NextWf (execControlFlitReceive port s) := by
  unfold execControlFlitReceive
  refine nextWf ?_
  split
  · exact hs
  · extract_lets w nl inRange up s1 c2 due s2 mt mq body hear
    have h2 : s2.memWf := foldl_memWf (fun _ _ => queueReplay_memWf) (modPort_memWf hs)
    exact ite_memWf (modPort_memWf h2) (ite_memWf (ite_memWf h2 (modPort_memWf (modPort_memWf h2))) h2)

theorem resendService_memWf {n x : Nat} (hs : s.memWf) : (s.resendService n x).memWf := by
  unfold State.resendService
  dsimp only
  exact ite_memWf (modPort_memWf hs) (layService_memWf (modPort_memWf hs))

theorem execServiceReplayTimeout_nextWf {port : Nat} (hs : s.memWf) : NextWf (execServiceReplayTimeout port s) := by
  unfold execServiceReplayTimeout
  dsimp only
  refine nextWf ?_
  split
  · exact hs
  · exact ite_memWf hs (ite_memWf (wantRetrain_memWf (modPort_memWf (portCount_memWf hs)))
      (resendService_memWf (modPort_memWf (portCount_memWf hs))))

theorem execPlanReplayTimeout_nextWf {port : Nat} (hs : s.memWf) : NextWf (execPlanReplayTimeout port s) := by
  unfold execPlanReplayTimeout
  dsimp only
  refine nextWf ?_
  split
  · exact hs
  · exact ite_memWf hs (queueReplay_memWf (portCount_memWf hs))

theorem execCreditTimeout_nextWf {port vc : Nat} (hs : s.memWf) : NextWf (execCreditTimeout port vc s) := by
  unfold execCreditTimeout
  dsimp only
  exact nextWf (ite_memWf (enterDown_memWf (portCount_memWf hs)) hs)

theorem execRetrainRequestReceive_nextWf {port : Nat} (hs : s.memWf) : NextWf (execRetrainRequestReceive port s) := by
  refine nextWf ?_
  split
  · exact hs
  · exact enterRetrain_memWf (setPort_memWf hs)

theorem execTrainingComplete_nextWf {port delay peer : Nat} (hs : s.memWf) : NextWf (execTrainingComplete port delay peer s) := by
  unfold execTrainingComplete
  dsimp only
  exact nextWf (ite_memWf hs (ite_memWf (enterDown_memWf hs) (setPort_memWf (idWrite_memWf hs))))

theorem execTrainingTimeout_nextWf {port : Nat} (hs : s.memWf) : NextWf (execTrainingTimeout port s) := by
  unfold execTrainingTimeout
  dsimp only
  exact nextWf (ite_memWf (enterDown_memWf hs) hs)

theorem execRetrainComplete_nextWf {port delay : Nat} (hs : s.memWf) : NextWf (execRetrainComplete port delay s) := by
  unfold execRetrainComplete
  dsimp only
  exact nextWf (ite_memWf hs (checkDelay_memWf (resendService_memWf (setPort_memWf (idWrite_memWf hs)))))

theorem execRetrainAttemptTimeout_nextWf {port : Nat} (hs : s.memWf) : NextWf (execRetrainAttemptTimeout port s) := by
  unfold execRetrainAttemptTimeout
  dsimp only
  exact nextWf (ite_memWf hs (ite_memWf (modPort_memWf (portCount_memWf hs)) (enterDown_memWf (portCount_memWf hs))))

theorem execAutoTrainTick_nextWf {port : Nat} (hs : s.memWf) : NextWf (execAutoTrainTick port s) := by
  unfold execAutoTrainTick
  dsimp only
  exact nextWf (ite_memWf (enterTrain_memWf (modPort_memWf hs)) hs)

theorem portWrite_memWf {a : Accessor} {n : Nat} {f : State → State} (hs : s.memWf) (hf : ∀ u, u.memWf → (f u).memWf) :
    (s.portWrite a n f).memWf := by
  refine ite_memWf hs ?_
  split
  · exact partWrite_memWf hs hf
  · exact devWrite_memWf hs hf

theorem lnkCtl_memWf {n : Nat} {v : Word} (hs : s.memWf) : (s.lnkCtl n v).memWf := by
  unfold State.lnkCtl
  extract_lets s1 s2 s3
  have h2 : s2.memWf := ite_memWf (enterDown_memWf (modPort_memWf hs)) (modPort_memWf hs)
  have h3 : s3.memWf := ite_memWf (enterRetrain_memWf h2) h2
  exact ite_memWf (enterTrain_memWf h3) h3

theorem fence_memWf {n : Nat} {v : Word} (hs : s.memWf) : (s.fence n v).memWf := by
  unfold State.fence
  dsimp only
  exact ite_memWf (enterDown_memWf (settle_memWf (modPort_memWf hs))) (settle_memWf (modPort_memWf hs))

end Sys2Proof
end

section
namespace Sys2Proof

open Machine

/-! ### Canonical memory: packets that arrive, the fabric, courses, sweeps and launch -/

variable {s : State}

/-! #### Deliver -/

theorem svcMiss_memWf {x : SvcAt} (hs : s.memWf) : (s.svcMiss x).memWf := by
  unfold State.svcMiss
  split
  · exact devCount_memWf hs
  · exact devCount_memWf hs
  · exact devCount_memWf hs
  · exact hs

theorem svcPut_memWf {a : Nat} {bs : List Byte} (hs : s.memWf) : (s.svcPut a bs).2.memWf := by
  refine ite_snd_memWf hs (foldl_snd_memWf (fun _ _ hu => ?_) hs)
  dsimp only
  exact ite_memWf (wr_memWf _ _ (svcCross_memWf hu)) (svcCross_memWf hu)

theorem svcWritePiece_memWf {p a : Nat} {bs : List Byte} {hdr : Option Flit} (hs : s.memWf) : (s.svcWritePiece p a bs hdr).2.memWf := by
  unfold State.svcWritePiece
  split
  · exact svcPut_memWf hs
  · exact modTile_memWf hs
  · exact svcMiss_memWf hs

theorem svcWrite_memWf {p a : Nat} {bs : List Byte} {hdr : Option Flit} (hs : s.memWf) : (s.svcWrite p a bs hdr).2.memWf := by
  refine foldl_snd_memWf (fun _ _ hu => ?_) hs
  exact svcWritePiece_memWf hu

theorem svcBad_memWf {a : Nat} (hs : s.memWf) : (s.svcBad a).memWf := by
  unfold State.svcBad
  dsimp only
  split
  · exact raise_memWf (askTest_memWf hs)
  · exact askTest_memWf hs

theorem svcGet_memWf {a n : Nat} (hs : s.memWf) : (s.svcGet a n).2.memWf := by
  unfold State.svcGet
  extract_lets s0 r u
  have h0 : s0.memWf := by
    unfold s0
    split
    · exact landView_memWf hs
    · exact hs
  have hr : r.2.memWf := svcPass_memWf h0
  have hu : u.memWf := by
    unfold u
    split
    · exact loftSoft_memWf hr
    · exact memSoft_memWf hr
  refine ite_snd_memWf hr ?_
  split
  · exact svcBad_memWf hr
  · exact hu

theorem blockRead_memWf {a n : Nat} (hs : s.memWf) : (s.blockRead a n).2.memWf := by
  have h := svcGet_memWf (a := a) (n := n) hs
  unfold State.blockRead
  split
  · exact snd_memWf h ‹_›
  · rename_i u e
    have hu : u.memWf := snd_memWf h e
    exact hu

theorem svcRead_memWf {p a n : Nat} (hs : s.memWf) : (s.svcRead p a n).2.memWf := by
  unfold State.svcRead
  dsimp only
  refine foldl_snd_memWf (fun _ _ hu => ?_) hs
  split
  · exact hu
  · split
    · exact svcGet_memWf hu
    · exact svcGet_memWf hu
    · exact svcMiss_memWf hu

theorem setArrw_memWf {p ring x : Nat} (hs : s.memWf) : (s.setArrw p ring x).memWf := by
  unfold State.setArrw
  dsimp only
  split
  · exact ite_memWf hs (modPart_memWf hs)
  · exact modPart_memWf hs

theorem setAckw_memWf {p ring x : Nat} (hs : s.memWf) : (s.setAckw p ring x).memWf := modPart_memWf hs

theorem syncGate_memWf {a : Nat} {sset : Bool} (hs : s.memWf) : (s.syncGate a sset).2.memWf := by
  unfold State.syncGate
  dsimp only
  split
  · exact ite_snd_memWf hs (svcGet_memWf hs)
  · exact svcGet_memWf hs

theorem svcSync_memWf {h : Hdr} (hs : s.memWf) : (s.svcSync h).2.memWf := by
  unfold State.svcSync
  extract_lets p u g' g s0 s1
  have hg : g.2.memWf := syncGate_memWf hs
  have h1 : s1.memWf := syncDo_memWf hg
  split
  · exact ite_snd_memWf (tileCount_memWf hs) (ite_snd_memWf (syncDo_memWf (syncGate_memWf hs)) (syncGate_memWf hs))
  · refine ite_snd_memWf hg ?_
    split
    · dsimp only
      split
      · exact raise_memWf hg
      · exact rafterArrive_memWf hg
    · dsimp only
      exact ite_memWf (setArrw_memWf h1) (ite_memWf (setAckw_memWf h1) h1)
  · exact svcMiss_memWf hs
  · exact devCount_memWf hs

theorem pagTake_memWf {h : Hdr} (hs : s.memWf) : (s.pagTake h).memWf := by
  unfold State.pagTake
  dsimp only
  exact ite_memWf (modPart_memWf hs) hs

theorem modSh_memWf {p : Nat} {f : Shadow → Shadow} (hs : s.memWf) : (s.modSh p f).memWf := modPart_memWf hs

theorem shadowSend_memWf {p dst : Nat} {ord : Bool} {ws : List Word} (hs : s.memWf) : (s.shadowSend p dst ord ws).memWf := sendAny_memWf hs

theorem shadowLayers_memWf {p dst : Nat} (hs : s.memWf) : (s.shadowLayers p dst).memWf := foldl_memWf (fun _ _ => shadowSend_memWf) hs

theorem shadowAsked_memWf {p src : Nat} (hs : s.memWf) : (s.shadowAsked p src).memWf := by
  unfold State.shadowAsked
  dsimp only
  exact ite_memWf (shadowSend_memWf (shadowLayers_memWf (modSh_memWf hs))) (shadowSend_memWf hs)

theorem shadowAnswer_memWf {p st : Nat} (hs : s.memWf) : (s.shadowAnswer p st).memWf := by
  unfold State.shadowAnswer
  dsimp only
  split
  · exact hs
  · exact reply_memWf _ _ _ (modSh_memWf hs)

theorem shadowMsg_memWf {p src : Nat} {ws : List Word} (hs : s.memWf) : (s.shadowMsg p src ws).memWf := by
  unfold State.shadowMsg
  dsimp only
  split
  · exact modSh_memWf hs
  · exact modSh_memWf hs
  · exact modSh_memWf hs
  · exact shadowAsked_memWf hs
  · exact shadowAnswer_memWf hs
  · exact modSh_memWf hs
  · exact modSh_memWf hs
  · exact hs

theorem msgTaken_memWf {h : Hdr} {ws : List Word} (hs : s.memWf) : (s.msgTaken h ws).memWf := by
  unfold State.msgTaken
  extract_lets p a v in_ s1 s2
  have h1 : s1.memWf := by
    unfold s1
    split
    · exact hs
    · refine ite_memWf (modPart_memWf hs) (ite_memWf (modPart_memWf hs) ?_)
      split
      · refine ite_memWf ?_ ?_
        · split
          · exact modPart_memWf hs
          · exact modPart_memWf hs
        · split
          · exact ite_memWf (modPart_memWf hs) (ite_memWf (modPart_memWf hs) hs)
          · exact hs
      · exact hs
  have h2 : s2.memWf := ite_memWf (modPart_memWf h1) h1
  exact ite_memWf (modPart_memWf h2) h2

theorem setDist_memWf {p : Nat} {d : Machine.Dist} (hs : s.memWf) : (s.setDist p d).memWf := modPart_memWf hs

theorem distReport_memWf {p : Nat} {d : Machine.Dist} {status dev : Nat} (hs : s.memWf) : (s.distReport p d status dev).memWf := by
  unfold State.distReport
  dsimp only
  exact ite_memWf hs (sendMsg_memWf (setDist_memWf hs))

theorem distLost_memWf {h : Hdr} (hs : s.memWf) : (s.distLost h).memWf := by
  unfold State.distLost
  dsimp only
  refine ite_memWf ?_ hs
  split
  · exact hs
  · exact distReport_memWf (setDist_memWf hs)

theorem errCplTaken_memWf {h : Hdr} (hs : s.memWf) : (s.errCplTaken h).memWf := by
  unfold State.errCplTaken
  dsimp only
  exact ite_memWf (raise_memWf (devCount_memWf hs)) (ite_memWf (raise_memWf (devCount_memWf hs)) (pagTake_memWf (distLost_memWf hs)))

theorem badCpl_memWf {h : Hdr} (hs : s.memWf) : (s.badCpl h).memWf := send_memWf hs

theorem writeCpl_memWf {h : Hdr} (hs : s.memWf) : (s.writeCpl h).memWf := by
  unfold State.writeCpl
  dsimp only
  exact ite_memWf (send_memWf hs) hs

theorem doPacket_memWf {h : Hdr} {k : Packet} (hs : s.memWf) : (s.doPacket h k).memWf := by
  unfold State.doPacket
  dsimp only
  refine ite_memWf (answerDrop_memWf (fabCount_memWf hs)) ?_
  split
  · exact ite_memWf (svcWrite_memWf hs) (ite_memWf (writeCpl_memWf (svcWrite_memWf hs)) (badCpl_memWf (svcWrite_memWf hs)))
  · split
    · exact send_memWf (snd_memWf (svcRead_memWf hs) ‹_›)
    · exact badCpl_memWf (snd_memWf (svcRead_memWf hs) ‹_›)
  · exact pagTake_memWf (svcWrite_memWf hs)
  · exact pagTake_memWf (modFab_memWf hs)
  · exact errCplTaken_memWf (modFab_memWf hs)
  · exact ite_memWf (svcSync_memWf hs) (badCpl_memWf (svcSync_memWf hs))
  · exact ite_memWf (svcSync_memWf hs) (badCpl_memWf (svcSync_memWf hs))
  · exact ite_memWf (svcSync_memWf hs) (badCpl_memWf (svcSync_memWf hs))
  · exact ite_memWf (shadowMsg_memWf hs) (ite_memWf (badCpl_memWf (svcWrite_memWf hs))
      (ite_memWf (svcWrite_memWf hs) (msgTaken_memWf (svcWrite_memWf hs))))
  · exact hs

theorem setOrd_memWf {src : Nat} {o : OrdSrc} (hs : s.memWf) : (s.setOrd src o).memWf := modFab_memWf hs

theorem closeInterval_memWf {src fuel : Nat} : ∀ {s : State}, s.memWf → (s.closeInterval src fuel).memWf := by
  induction fuel with
  | zero => exact fun hs => hs
  | succ fuel ih =>
    intro s hs
    unfold State.closeInterval
    dsimp only
    split
    · exact ite_memWf (doPacket_memWf (setOrd_memWf hs)) (ih (doPacket_memWf (setOrd_memWf hs)))
    · exact setOrd_memWf hs

theorem ordDrop_memWf {h : Hdr} (hs : s.memWf) : (s.ordDrop h).memWf := answerDrop_memWf hs

theorem ordCovered_memWf {src : Nat} (hs : s.memWf) : (s.ordCovered src).memWf := by
  unfold State.ordCovered
  dsimp only
  split
  · exact ite_memWf (doPacket_memWf (setOrd_memWf hs)) (closeInterval_memWf (doPacket_memWf (setOrd_memWf hs)))
  · exact hs

theorem ordDone_memWf {h : Hdr} (hs : s.memWf) : (s.ordDone h).memWf := by
  unfold State.ordDone
  dsimp only
  exact ite_memWf (ite_memWf (closeInterval_memWf hs) hs) (ite_memWf (ordCovered_memWf (setOrd_memWf hs))
    (ite_memWf (setOrd_memWf hs) (fabCount_memWf hs)))

theorem ordForget_memWf {src : Nat} (hs : s.memWf) : (s.ordForget src).memWf :=
  foldl_memWf (fun _ _ hu => ite_memWf (modTile_memWf hu) hu) hs

theorem ordSync_memWf {h : Hdr} (hs : s.memWf) : (s.ordSync h).memWf :=
  foldl_memWf (fun _ _ => ordDrop_memWf) (ordForget_memWf (setOrd_memWf hs))

theorem vestPeak_memWf (hs : s.memWf) : (s.vestPeak).memWf := modFab_memWf hs

theorem arrive_memWf {s0 : State} {h : Hdr} {k : Packet} (hs : s0.memWf) : (s0.arrive h k).memWf := by
  unfold State.arrive
  extract_lets s o d act
  have h0 : s.memWf := ite_memWf (ordSync_memWf hs) hs
  have hact : ∀ {u : State}, u.memWf → (act u).memWf := fun hu => ite_memWf (doPacket_memWf hu) (ordDone_memWf (doPacket_memWf hu))
  refine ite_memWf (hact (ite_memWf (setOrd_memWf h0) h0)) ?_
  refine ite_memWf (ordDrop_memWf (fabCount_memWf h0)) ?_
  refine ite_memWf (ordDrop_memWf (fabCount_memWf h0)) ?_
  exact ite_memWf (hact h0) (vestPeak_memWf (setOrd_memWf h0))

theorem svcNext_memWf {t : Nat} (hs : s.memWf) : (s.svcNext t).memWf := by
  unfold State.svcNext
  split
  · exact hs
  · extract_lets s1 s2
    have h2 : s2.memWf := foldl_memWf (fun _ _ => effect_memWf) (countLanding_memWf (modTile_memWf hs))
    split
    · exact h2
    · exact ite_memWf h2 (ite_memWf (ordDone_memWf (writeCpl_memWf h2)) (writeCpl_memWf h2))

theorem svcJoin_memWf {t off fuel : Nat} {bs : List Byte} : ∀ {s : State}, s.memWf → (s.svcJoin t off bs fuel).memWf := by
  induction fuel with
  | zero => exact fun hs => modTile_memWf hs
  | succ fuel ih => exact fun hs => ite_memWf (modTile_memWf hs) (ih (svcNext_memWf hs))

theorem execLoftServiceWrite_nextWf {t : Nat} (hs : s.memWf) : NextWf (execLoftServiceWrite t s) := by
  unfold execLoftServiceWrite
  dsimp only
  exact nextWf (ite_memWf hs (svcNext_memWf hs))

theorem execVestibuleTimeout_nextWf {src : Nat} (hs : s.memWf) : NextWf (execVestibuleTimeout src s) := by
  unfold execVestibuleTimeout
  dsimp only
  refine nextWf ?_
  split
  · exact hs
  · exact closeInterval_memWf (foldl_memWf (fun _ _ => ordDrop_memWf) (fabCount_memWf (setOrd_memWf hs)))

theorem popQueue_memWf {ing vc : Nat} (hs : s.memWf) : (s.popQueue ing vc).memWf := by
  unfold State.popQueue
  dsimp only
  exact ite_memWf (modPort_memWf hs) (modFab_memWf hs)

theorem mirror_memWf {ing : Nat} {h : Hdr} {k : Packet} (hs : s.memWf) : (s.mirror ing h k).memWf := by
  unfold State.mirror
  dsimp only
  refine ite_memWf hs ?_
  split
  · exact pushEgress_memWf (snd_memWf (way_memWf hs) ‹_›)
  · exact answerDrop_memWf (snd_memWf (way_memWf hs) ‹_›)
  · exact snd_memWf (way_memWf hs) ‹_›

theorem takePacket_memWf {ing vc opc : Nat} (hs : s.memWf) : (s.takePacket ing vc opc).memWf := by
  unfold State.takePacket
  dsimp only
  split
  · exact hs
  · exact ite_memWf (arrive_memWf (mirror_memWf (returnCredit_memWf (popQueue_memWf hs)))) hs

/-! #### Fabric -/

theorem depart_memWf {n : Nat} {d : Staged} {e : Dep} (hs : s.memWf) : (s.depart n d e).memWf := by
  unfold State.depart
  dsimp only
  exact ite_memWf hs (ite_memWf (portCount_memWf hs) (ite_memWf (portCount_memWf hs) (ite_memWf (placePlan_memWf hs) (placePlan_memWf hs))))

theorem execDepartureSend_nextWf {port : Nat} (hs : s.memWf) : NextWf (execDepartureSend port s) := by
  unfold execDepartureSend
  dsimp only
  refine nextWf ?_
  split
  · exact hs
  · split
    · exact modPort_memWf hs
    · exact ite_memWf (modPort_memWf hs) (ite_memWf (raise_memWf (modPort_memWf hs)) (depart_memWf (modPort_memWf hs)))

theorem landSlots_memWf {p t epoch : Nat} {l : List (List Byte)} : ∀ {s : State} {slot : Nat}, s.memWf →
    (s.landSlots p t slot epoch l).memWf := by
  induction l with
  | nil => exact fun hs => hs
  | cons b r ih => exact fun hs => ih (landSlot_memWf hs)

theorem landPacket_memWf {h : Hdr} {k : Packet} {t slot : Nat} (hs : s.memWf) : (s.landPacket h k t slot).memWf := landSlots_memWf hs

theorem landing_memWf {h : Hdr} {f : Flit} {k : Packet} {go : State → Nat → Nat → State} (hs : s.memWf)
  (hgo : ∀ u a b, u.memWf → (go u a b).memWf) :
    (s.landing h f k go).memWf := by
  unfold State.landing
  dsimp only
  refine ite_memWf (fabCount_memWf hs) ?_
  refine ite_memWf (fabCount_memWf hs) ?_
  split
  · exact fabCount_memWf hs
  · exact ite_memWf (devCount_memWf hs) (ite_memWf (modPart_memWf hs) (hgo _ _ _ hs))

theorem execLandingPacket_nextWf {port : Nat} (hs : s.memWf) : NextWf (execLandingPacket port s) := by
  unfold execLandingPacket
  dsimp only
  refine nextWf ?_
  split
  · exact hs
  · exact landing_memWf (modPort_memWf hs) (fun _ _ _ hu => ite_memWf (modPort_memWf hu) (landPacket_memWf hu))

theorem execHazardLandingRelease_nextWf {port : Nat} (hs : s.memWf) : NextWf (execHazardLandingRelease port s) := by
  unfold execHazardLandingRelease
  dsimp only
  refine nextWf ?_
  split
  · exact hs
  · exact landing_memWf (modPort_memWf hs) (fun _ _ _ => landPacket_memWf)

theorem joinLate_memWf {port n : Nat} {k : PlanIn} {part : Nat} {hdr : Flit} (hs : s.memWf) : (s.joinLate port n k part hdr).memWf :=
  modPort_memWf (modPort_memWf hs)

theorem execPlanPacketForward_nextWf {port : Nat} (hs : s.memWf) : NextWf (execPlanPacketForward port s) := by
  unfold execPlanPacketForward
  dsimp only
  refine nextWf ?_
  split
  · exact hs
  · split
    · exact fabCount_memWf (modPort_memWf hs)
    · exact ite_memWf (fabCount_memWf (modPort_memWf hs)) (ite_memWf (modPort_memWf hs)
        (ite_memWf (portCount_memWf (modPort_memWf hs)) (ite_memWf (portCount_memWf (modPort_memWf hs))
          (ite_memWf (joinLate_memWf hs) (ite_memWf (placePlan_memWf (modPort_memWf hs))
            (placePlan_memWf (modPort_memWf (modPort_memWf hs))))))))

theorem execServicePacketEgress_nextWf {port : Nat} (hs : s.memWf) : NextWf (execServicePacketEgress port s) := by
  unfold execServicePacketEgress
  dsimp only
  refine nextWf ?_
  refine ite_memWf hs ?_
  split
  · exact layService_memWf (setPort_memWf hs)
  · exact hs

theorem execServicePacketForward_nextWf {port vc : Nat} (hs : s.memWf) : NextWf (execServicePacketForward port vc s) := by
  unfold execServicePacketForward
  dsimp only
  refine nextWf ?_
  split
  · exact hs
  · refine ite_memWf hs ?_
    split
    · have h2 := snd_memWf (way_memWf (popQueue_memWf hs)) ‹_›
      exact ite_memWf (answerDrop_memWf (returnCredit_memWf (fabCount_memWf h2))) (pushEgress_memWf h2)
    · exact answerDrop_memWf (returnCredit_memWf (snd_memWf (way_memWf (popQueue_memWf hs)) ‹_›))
    · exact hs

theorem execRouteActivate_nextWf (hs : s.memWf) : NextWf (execRouteActivate s) := by
  unfold execRouteActivate
  dsimp only
  exact nextWf (ite_memWf (modFab_memWf hs) hs)

theorem execFabGenArm_nextWf {acc : Accessor} {v : BitVec 32} (hs : s.memWf) : NextWf (execFabGenArm acc v s) := by
  unfold execFabGenArm
  dsimp only
  exact nextWf (devWrite_memWf hs (fun _ hu => ite_memWf hu hu))

theorem execFabDevidWrite_nextWf {acc : Accessor} {v : BitVec 32} (hs : s.memWf) : NextWf (execFabDevidWrite acc v s) :=
  nextWf (devWrite_memWf hs (fun _ hu => ite_memWf hu (foldl_memWf (fun _ _ => settle_memWf) (modFab_memWf hu))))

/-! #### Courses -/

theorem stepAdvance_memWf {p : Nat} (hs : s.memWf) : (s.stepAdvance p).memWf := by
  unfold State.stepAdvance
  dsimp only
  split
  · exact ite_memWf (foldl_memWf (fun _ _ => modStack_memWf) (foldl_memWf (fun _ _ => modTile_memWf) (setPart_memWf hs))) hs
  · exact hs

theorem powerClose_memWf {p k : Nat} (hs : s.memWf) : (s.powerClose p k).memWf := by
  unfold State.powerClose
  dsimp only
  split
  · exact modPart_memWf hs
  · exact ite_memWf (raisePower_memWf (modPart_memWf hs)) (modPart_memWf hs)

theorem shadowPair_memWf {p : Nat} {a b : BitVec 128} (hs : s.memWf) : (s.shadowPair p a b).memWf := by
  unfold State.shadowPair
  dsimp only
  exact ite_memWf hs (ite_memWf (modSh_memWf hs) (writeEvent_memWf (modSh_memWf hs)))

theorem shadowCompare_memWf {p : Nat} (hs : s.memWf) : (s.shadowCompare p).memWf :=
  foldl_memWf (fun _ _ => shadowPair_memWf) (modSh_memWf hs)

theorem shadowClose_memWf {p k : Nat} (hs : s.memWf) : (s.shadowClose p k).memWf := by
  unfold State.shadowClose
  dsimp only
  exact ite_memWf (foldl_memWf (fun _ _ => modTile_memWf) hs)
    (shadowCompare_memWf (shadowSend_memWf (modSh_memWf (foldl_memWf (fun _ _ => modTile_memWf) hs))))

theorem weightCheck_memWf {p k : Nat} (hs : s.memWf) : (s.weightCheck p k).memWf := by
  unfold State.weightCheck
  dsimp only
  split
  · exact hs
  · refine ite_memWf hs ?_
    split
    · exact hs
    · exact raise_memWf (modPart_memWf hs)

theorem startCourse_memWf {p k : Nat} (hs : s.memWf) : (s.startCourse p k).memWf := by
  unfold State.startCourse
  dsimp only
  exact weightCheck_memWf (modPart_memWf (ite_memWf hs (shadowClose_memWf (powerClose_memWf hs))))

theorem pinnedStart_memWf {s0 : State} {p : Nat} (hs : s0.memWf) : (s0.pinnedStart p).memWf := by
  unfold State.pinnedStart
  dsimp only
  split
  · exact stepAdvance_memWf hs
  · refine ite_memWf (stepAdvance_memWf hs) ?_
    split
    · exact ite_memWf (reply_memWf _ _ _ (modPart_memWf (stepAdvance_memWf hs))) (startCourse_memWf (stepAdvance_memWf hs))
    · exact startCourse_memWf (stepAdvance_memWf hs)

theorem waitBoundary_memWf {t p : Nat} (hs : s.memWf) : (s.waitBoundary t p).memWf := by
  unfold State.waitBoundary
  dsimp only
  split
  · exact hs
  · exact ite_memWf (opFault_memWf hs) (modTile_memWf hs)

theorem beginCourse_memWf {t p k b : Nat} (hs : s.memWf) : (s.beginCourse t p k b).memWf := by
  unfold State.beginCourse
  extract_lets s1 s2 s3 e8
  have h2 : s2.memWf := modRoom_memWf (modTile_memWf hs)
  have h3 : s3.memWf := ite_memWf (charge_memWf h2) h2
  exact ite_memWf h3 (charge_memWf h3)

theorem execCourseStart_nextWf {t : Nat} {s0 : State} (hs : s0.memWf) : NextWf (execCourseStart t s0) := by
  unfold execCourseStart
  refine nextWf ?_
  split
  · exact hs
  · extract_lets s k m s1
    have h0 : s.memWf := ite_memWf (pinnedStart_memWf hs) hs
    have h1 : s1.memWf := waitBoundary_memWf h0
    exact ite_memWf h0 (ite_memWf (tileFault_memWf h0) (ite_memWf (beginCourse_memWf h1) h1))

theorem finishPlan_memWf {p : Nat} (hs : s.memWf) : (s.finishPlan p).memWf := by
  unfold State.finishPlan
  dsimp only
  exact ite_memWf (shadowClose_memWf (powerClose_memWf hs)) (foldl_memWf (fun _ _ => modTile_memWf)
    (modPart_memWf (shadowClose_memWf (powerClose_memWf hs))))

theorem execPlanCompletion_nextWf {p : Nat} (hs : s.memWf) : NextWf (execPlanCompletion p s) := by
  unfold execPlanCompletion
  dsimp only
  refine nextWf ?_
  split
  · exact hs
  · exact ite_memWf (finishPlan_memWf hs) hs

/-! #### Sweep -/

theorem putSweep_memWf {stk : Nat} {w : Sweep} {c : Nat} (hs : s.memWf) : (s.putSweep stk w c).memWf := modStack_memWf hs

theorem execSweepStart_nextWf {stk : Nat} (hs : s.memWf) : NextWf (execSweepStart stk s) := by
  unfold execSweepStart
  refine nextWf ?_
  extract_lets busy
  split
  · exact hs
  · extract_lets r held early off sw s1 s2
    have h1 : s1.memWf := putSweep_memWf hs
    have h2 : s2.memWf := foldl_memWf (fun _ _ => countCe_memWf) (ite_memWf h1 (devCount_memWf h1))
    refine ite_memWf hs ?_
    clear_value early
    split
    · exact raise_memWf h2
    · split
      · exact raise_memWf (askTest_memWf h2)
      · exact h2

theorem finishSweep_memWf {stk : Nat} {w : Sweep} (hs : s.memWf) : (s.finishSweep stk w).memWf :=
  modStack_memWf (foldl_memWf (fun _ _ hu => wr_memWf _ _ hu) hs)

theorem execSweepComplete_nextWf {stk : Nat} (hs : s.memWf) : NextWf (execSweepComplete stk s) := by
  refine nextWf ?_
  split
  · exact hs
  · exact ite_memWf hs (finishSweep_memWf hs)

theorem execSweepDeadline_nextWf {stk : Nat} (hs : s.memWf) : NextWf (execSweepDeadline stk s) := by
  unfold execSweepDeadline
  dsimp only
  refine nextWf ?_
  split
  · exact hs
  · exact ite_memWf hs (ite_memWf (modStack_memWf hs) (ite_memWf (modStack_memWf (finishSweep_memWf hs)) (raise_memWf (modStack_memWf hs))))

/-! #### Launch -/

theorem sendLaunch_memWf {n : Nat} {m : LMsg} (hs : s.memWf) : (s.sendLaunch n m).memWf := ite_memWf (modPort_memWf hs) hs

theorem hearLaunch_memWf {n typ : Nat} (hs : s.memWf) : (s.hearLaunch n typ).2.memWf := by
  unfold State.hearLaunch
  dsimp only
  split
  · exact hs
  · exact ite_snd_memWf (setPort_memWf hs) (ite_snd_memWf (setPort_memWf hs) hs)

theorem ackUp_memWf {p status orig : Nat} (hs : s.memWf) : (s.ackUp p status orig).memWf := by
  unfold State.ackUp
  dsimp only
  refine ite_memWf hs ?_
  split
  · exact sendLaunch_memWf (modPart_memWf hs)
  · exact modPart_memWf hs

theorem flood_memWf {p : Nat} {except? : Option Nat} {m : LMsg} (hs : s.memWf) : (s.flood p except? m).memWf := by
  unfold State.flood
  split
  · exact hs
  · exact foldl_memWf (fun _ _ => sendLaunch_memWf) hs

theorem allReady_memWf {p : Nat} (hs : s.memWf) : (s.allReady p).memWf := by
  unfold State.allReady
  dsimp only
  exact ite_memWf hs (ite_memWf (ackUp_memWf hs) (ite_memWf hs (flood_memWf (modPart_memWf hs))))

theorem ackFail_memWf {p status orig : Nat} (hs : s.memWf) : (s.ackFail p status orig).memWf := by
  unfold State.ackFail
  dsimp only
  exact ite_memWf (ackUp_memWf hs) (ite_memWf hs (modPart_memWf hs))

theorem takeArm_memWf {p : Nat} {m : LMsg} {parent : Option Nat} {reply : Option CmdRef} (hs : s.memWf) :
    (s.takeArm p m parent reply).memWf := by
  unfold State.takeArm
  extract_lets v st holds m1 s1 s2
  have h2 : s2.memWf := foldl_memWf (fun _ _ => sendLaunch_memWf) (ite_memWf (modPart_memWf hs) (modPart_memWf hs))
  refine ite_memWf (ite_memWf (allReady_memWf h2) (ackFail_memWf h2)) ?_
  split
  · exact sendLaunch_memWf h2
  · exact h2

theorem execLaunchArmReceive_nextWf {port : Nat} (hs : s.memWf) : NextWf (execLaunchArmReceive port s) := by
  unfold execLaunchArmReceive
  dsimp only
  refine nextWf ?_
  split
  · exact snd_memWf (hearLaunch_memWf hs) ‹_›
  · exact ite_memWf (snd_memWf (hearLaunch_memWf hs) ‹_›) (takeArm_memWf (snd_memWf (hearLaunch_memWf hs) ‹_›))

theorem execLaunchAckReceive_nextWf {port : Nat} (hs : s.memWf) : NextWf (execLaunchAckReceive port s) := by
  unfold execLaunchAckReceive
  dsimp only
  refine nextWf ?_
  split
  · exact snd_memWf (hearLaunch_memWf hs) ‹_›
  · have h1 := snd_memWf (hearLaunch_memWf hs) ‹_›
    exact ite_memWf h1 (ite_memWf (allReady_memWf (modPart_memWf h1)) (ackFail_memWf (modPart_memWf h1)))

theorem execLaunchConfirmReceive_nextWf {port : Nat} (hs : s.memWf) : NextWf (execLaunchConfirmReceive port s) := by
  unfold execLaunchConfirmReceive
  dsimp only
  refine nextWf ?_
  split
  · exact snd_memWf (hearLaunch_memWf hs) ‹_›
  · exact ite_memWf (snd_memWf (hearLaunch_memWf hs) ‹_›) (flood_memWf (modPart_memWf (snd_memWf (hearLaunch_memWf hs) ‹_›)))

theorem execLaunchConfirmDeadline_nextWf {p : Nat} (hs : s.memWf) : NextWf (execLaunchConfirmDeadline p s) := by
  unfold execLaunchConfirmDeadline
  dsimp only
  exact nextWf (ite_memWf (modPart_memWf hs) hs)

theorem unarmedCut_memWf {p : Nat} (hs : s.memWf) : (s.unarmedCut p).memWf := by
  unfold State.unarmedCut
  dsimp only
  split
  · exact ite_memWf (reply_memWf _ _ _ (modPart_memWf hs)) hs
  · exact hs

theorem execLaunchCutoff_nextWf {p : Nat} {s0 : State} (hs : s0.memWf) : NextWf (execLaunchCutoff p s0) := by
  unfold execLaunchCutoff
  dsimp only
  refine nextWf ?_
  refine ite_memWf ?_ (unarmedCut_memWf hs)
  split
  · exact reply_memWf _ _ _ (modPart_memWf (unarmedCut_memWf hs))
  · exact modPart_memWf (unarmedCut_memWf hs)

theorem placeEmpty_memWf {p : Nat} (hs : s.memWf) : (s.placeEmpty p).memWf := by
  unfold State.placeEmpty
  split
  · exact hs
  · split
    · exact hs
    · exact ite_memWf (wr_memWf _ _ hs) hs

theorem execLaunchFire_nextWf {p : Nat} (hs : s.memWf) : NextWf (execLaunchFire p s) := by
  unfold execLaunchFire
  dsimp only
  refine nextWf ?_
  refine ite_memWf hs ?_
  split
  · exact reply_memWf _ _ _ (placeEmpty_memWf (foldl_memWf (fun _ _ hu => ite_memWf (modStack_memWf hu) hu)
      (foldl_memWf (fun _ _ => modRoom_memWf) (foldl_memWf (fun _ _ => modPort_memWf)
        (foldl_memWf (fun _ _ => modTile_memWf) (setPart_memWf hs))))))
  · exact placeEmpty_memWf (foldl_memWf (fun _ _ hu => ite_memWf (modStack_memWf hu) hu)
      (foldl_memWf (fun _ _ => modRoom_memWf) (foldl_memWf (fun _ _ => modPort_memWf)
        (foldl_memWf (fun _ _ => modTile_memWf) (setPart_memWf hs)))))

theorem execMntLtCfgWrite_nextWf {acc : Accessor} {p : Nat} {v : BitVec 32} (hs : s.memWf) : NextWf (execMntLtCfgWrite acc p v s) := by
  unfold execMntLtCfgWrite
  dsimp only
  exact nextWf (partWrite_memWf hs (fun _ hu => ite_memWf hu (modPart_memWf hu)))

end Sys2Proof
end

section
namespace Sys2Proof

open Machine

/-! ### Canonical memory: the serving engine -/

variable {s : State}

/-! #### Pantry -/

theorem modServ_memWf {p : Nat} {f : Serv → Serv} (hs : s.memWf) : (s.modServ p f).memWf := modPart_memWf hs

theorem servCount_memWf {p : Nat} {c : ServCtr} {n : Nat} (hs : s.memWf) : (s.servCount p c n).memWf := modServ_memWf hs

theorem claimUnits_memWf {p rcd u n : Nat} (hs : s.memWf) : (s.claimUnits p rcd u n).memWf := modServ_memWf hs

theorem freeUnits_memWf {p u n : Nat} (hs : s.memWf) : (s.freeUnits p u n).memWf := modServ_memWf hs

theorem takeUnit_memWf {p rcd stk e : Nat} {k : ServStack} {x : Nat × State} (hs : s.memWf) (hx : s.takeUnit p rcd stk k e = some x) :
    x.2.memWf := by
  obtain ⟨u, -, rfl⟩ := Option.map_eq_some_iff.1 hx
  exact claimUnits_memWf hs

theorem growList_memWf {p rcd q0 q : Nat} {d : ServDesc} {g : Nat × Nat × Nat} {u : State} (hs : s.memWf)
    (hu : s.growList p rcd d g q0 q = some u) : u.memWf := by
  unfold State.growList at hu
  dsimp only at hu
  generalize (if q0 = 0 then (0, 0) else s.listAt (d.dirAt (d.stk g.1) rcd g.2.1 g.2.2)) = lst at hu
  split at hu
  · rw [← Option.some.inj hu]; exact hs
  · obtain ⟨v, -, e⟩ := Option.map_eq_some_iff.1 hu
    rw [← e]
    exact wrW_memWf _ _ (ite_memWf (claimUnits_memWf hs) (freeUnits_memWf (wr_memWf _ _ (claimUnits_memWf hs))))

theorem allocPair_memWf {p rcd : Nat} {d : ServDesc} {e0 : DWord} {x : Nat × Nat × Nat × Nat} {u : State} (hs : s.memWf)
    (hu : s.allocPair p rcd d e0 x = some u) : u.memWf := by
  obtain ⟨a, ha, h⟩ := Option.bind_eq_some_iff.1 hu
  obtain ⟨b, hb, rfl⟩ := Option.map_eq_some_iff.1 h
  exact wr_memWf _ _ (takeUnit_memWf (takeUnit_memWf hs ha) hb)

theorem foldl_bind_memWf {α : Type} {f : State → α → Option State} {l : List α} (hf : ∀ u a w, u.memWf → f u a = some w → w.memWf)
    {o : Option State} {w : State} (ho : ∀ u, o = some u → u.memWf) (h : l.foldl (fun o a => o.bind fun u => f u a) o = some w) :
    w.memWf := by
  induction l generalizing o with
  | nil => exact ho w h
  | cons a r ih =>
    refine ih (fun u hu => ?_) h
    obtain ⟨v, hv, hw⟩ := Option.bind_eq_some_iff.1 hu
    exact hf v a u (ho v hv) hw

theorem allocTo_memWf {p rcd q : Nat} {d : ServDesc} {e0 : DWord} {u : State} (hs : s.memWf) (hu : s.allocTo p rcd d e0 q = some u) :
    u.memWf := by
  unfold State.allocTo at hu
  dsimp only at hu
  split at hu
  · cases hu; exact hs
  · obtain ⟨v, hv, rfl⟩ := Option.map_eq_some_iff.1 hu
    refine modServ_memWf (foldl_bind_memWf (fun _ _ _ => allocPair_memWf) (fun _ hw => ?_) hv)
    exact foldl_bind_memWf (fun _ _ _ => growList_memWf) (fun _ e => by cases e; exact hs) hw

theorem confirmOrder_memWf {p : Nat} {d : ServDesc} {o : Order} {stat : Nat} (hs : s.memWf) : (s.confirmOrder p d o stat).memWf :=
  sendMsg_memWf hs

theorem sendOrder_memWf {p op rcd arg : Nat} {e0 : DWord} (hs : s.memWf) : (s.sendOrder p op rcd arg e0).memWf := by
  unfold State.sendOrder
  dsimp only
  split
  · exact hs
  · exact foldl_memWf (fun _ _ => sendMsg_memWf) (modServ_memWf hs)

theorem freeRequest_memWf {p rcd : Nat} {d : ServDesc} (hs : s.memWf) : (s.freeRequest p rcd d).memWf := by
  unfold State.freeRequest
  dsimp only
  exact modServ_memWf (foldl_memWf (fun _ _ hu => ite_memWf hu (wrW_memWf _ _ hu)) hs)

theorem takeBlks_memWf {p fuel : Nat} : ∀ {s : State} {j : PagJob}, s.memWf → (s.takeBlks p j fuel).1.memWf := by
  induction fuel with
  | zero => exact fun hs => hs
  | succ fuel ih =>
    intro s j hs
    unfold State.takeBlks
    dsimp only
    exact ite_fst_memWf hs (ih (modServ_memWf hs))

theorem takeClr_memWf {p : Nat} {j : PagJob} (hs : s.memWf) : (s.takeClr p j).memWf := modServ_memWf hs

theorem pagTick_memWf {p : Nat} (hs : s.memWf) : (s.pagTick p).memWf := by
  unfold State.pagTick
  split
  · exact hs
  · split
    · exact servCount_memWf hs
    · exact servCount_memWf hs
    · exact servCount_memWf hs
    · exact hs

theorem useCellar_memWf {p rcd a b : Nat} (hs : s.memWf) : (s.useCellar p rcd a b).memWf := modServ_memWf hs

theorem dropCellar_memWf {p a b : Nat} (hs : s.memWf) : (s.dropCellar p a b).memWf := modServ_memWf hs

theorem usePeer_memWf {p rcd i a b : Nat} (hs : s.memWf) : (s.usePeer p rcd i a b).memWf := modServ_memWf hs

theorem dropPeer_memWf {p i a b : Nat} (hs : s.memWf) : (s.dropPeer p i a b).memWf := modServ_memWf hs

theorem dropMarl_memWf {p a b : Nat} (hs : s.memWf) : (s.dropMarl p a b).memWf := freeUnits_memWf (freeUnits_memWf hs)

theorem spill_memWf {p : Nat} {d : ServDesc} {j : PagJob} {x : Nat × Nat × Nat × Nat} {ku vu n : Nat} (hs : s.memWf) :
    (s.spill p d j x ku vu n).1.memWf := by
  unfold State.spill
  dsimp only
  split
  · exact wr_memWf _ _ hs
  · exact wr_memWf _ _ (usePeer_memWf hs)

theorem demotePair_memWf {p : Nat} {d : ServDesc} {j : PagJob} {x : Nat × Nat × Nat × Nat} (hs : s.memWf) :
    (s.demotePair p d j x).1.memWf := by
  unfold State.demotePair
  dsimp only
  split
  · split
    · exact wr_memWf _ _ (useCellar_memWf hs)
    · exact spill_memWf hs
  · exact hs

theorem promotePair_memWf {p : Nat} {d : ServDesc} {j : PagJob} {x : Nat × Nat × Nat × Nat} (hs : s.memWf) :
    (s.promotePair p d j x).1.memWf := by
  unfold State.promotePair
  dsimp only
  refine ite_fst_memWf ?_ hs
  split
  · exact hs
  · rename_i h
    obtain ⟨a, ha, h1⟩ := Option.bind_eq_some_iff.1 h
    obtain ⟨b, hb, e⟩ := Option.map_eq_some_iff.1 h1
    cases e
    exact wr_memWf _ _ (takeUnit_memWf (takeUnit_memWf hs ha) hb)

theorem clrFail_memWf {p : Nat} {d : ServDesc} {j : PagJob} {x : Nat × Nat × Nat × Nat} (hs : s.memWf) : (s.clrFail p d j x).1.memWf := by
  unfold State.clrFail
  dsimp only
  exact ite_fst_memWf (dropCellar_memWf (wr_memWf _ _ hs)) (dropMarl_memWf (wr_memWf _ _ hs))

theorem clrEnd_memWf {p : Nat} {d : ServDesc} {j : PagJob} {x : Nat × Nat × Nat × Nat} (hs : s.memWf) : (s.clrEnd p d j x).1.memWf := by
  unfold State.clrEnd
  dsimp only
  exact ite_fst_memWf (servCount_memWf (dropMarl_memWf (wr_memWf _ _ hs))) (servCount_memWf (dropCellar_memWf (wr_memWf _ _ hs)))

theorem clrStep_memWf {p fuel : Nat} {d : ServDesc} {x : Nat × Nat × Nat × Nat} : ∀ {s : State} {j : PagJob}, s.memWf →
    (s.clrStep p d j x fuel).1.memWf := by
  induction fuel with
  | zero => exact fun hs => hs
  | succ fuel ih =>
    intro s j hs
    unfold State.clrStep
    dsimp only
    have h1 := takeBlks_memWf (p := p) (j := j) (fuel := 4) hs
    refine ite_fst_memWf (clrEnd_memWf hs) (ite_fst_memWf h1 ?_)
    split
    · exact clrFail_memWf (snd_memWf (svcGet_memWf (takeClr_memWf h1)) ‹_›)
    · rename_i u e
      have h2 : u.memWf := snd_memWf (svcGet_memWf (takeClr_memWf h1)) e
      split
      · exact clrFail_memWf (snd_memWf (svcPut_memWf h2) ‹_›)
      · exact ih (snd_memWf (svcPut_memWf h2) ‹_›)

theorem pagSend_memWf {p fuel : Nat} : ∀ {s : State} {j : PagJob}, s.memWf → (s.pagSend p j fuel).1.memWf := by
  induction fuel with
  | zero => exact fun hs => hs
  | succ fuel ih =>
    intro s j hs
    unfold State.pagSend
    dsimp only
    have h1 := takeBlks_memWf (p := p) (j := j) (fuel := 4) hs
    refine ite_fst_memWf hs (ite_fst_memWf h1 ?_)
    split
    · exact snd_memWf (svcGet_memWf h1) ‹_›
    · exact ih (sendWrites_memWf (snd_memWf (svcGet_memWf h1) ‹_›))

theorem spillEnd_memWf {p : Nat} {d : ServDesc} {j : PagJob} {x : Nat × Nat × Nat × Nat} (hs : s.memWf) : (s.spillEnd p d j x).1.memWf := by
  unfold State.spillEnd
  dsimp only
  exact ite_fst_memWf (spill_memWf (dropPeer_memWf hs)) (dropMarl_memWf (servCount_memWf (servCount_memWf (wr_memWf _ _ hs))))

theorem pagAsk_memWf {p : Nat} {j : PagJob} (hs : s.memWf) : (s.pagAsk p j).memWf := send_memWf hs

theorem recallStep_memWf {p : Nat} {d : ServDesc} {j : PagJob} {x : Nat × Nat × Nat × Nat} (hs : s.memWf) :
    (s.recallStep p d j x).1.memWf := by
  unfold State.recallStep
  dsimp only
  exact ite_fst_memWf hs (ite_fst_memWf (servCount_memWf (dropPeer_memWf (wr_memWf _ _ hs)))
    (ite_fst_memWf (takeBlks_memWf hs) (pagAsk_memWf (takeBlks_memWf hs))))

theorem pagStep_memWf {p : Nat} {d : ServDesc} {j : PagJob} {x : Nat × Nat × Nat × Nat} (hs : s.memWf) : (s.pagStep p d j x).1.memWf := by
  unfold State.pagStep
  dsimp only
  exact ite_fst_memWf (ite_fst_memWf (demotePair_memWf hs) (promotePair_memWf hs))
    (ite_fst_memWf (clrStep_memWf hs) (ite_fst_memWf (ite_fst_memWf (spillEnd_memWf (pagSend_memWf hs)) (pagSend_memWf hs))
      (recallStep_memWf hs)))

theorem setJob_memWf {p : Nat} {j : Option PagJob} (hs : s.memWf) : (s.setJob p j).memWf := modServ_memWf hs

theorem pagRun_memWf {p fuel : Nat} {d : ServDesc} : ∀ {s : State} {j : PagJob}, s.memWf → (s.pagRun p d j fuel).memWf := by
  induction fuel with
  | zero => exact fun hs => setJob_memWf hs
  | succ fuel ih =>
    intro s j hs
    unfold State.pagRun
    split
    · exact confirmOrder_memWf (setJob_memWf hs)
    · dsimp only
      exact ite_memWf (setJob_memWf (pagStep_memWf hs)) (ih (pagStep_memWf hs))

theorem pageLost_memWf {p : Nat} {j : PagJob} (hs : s.memWf) : (s.pageLost p j).1.memWf := servCount_memWf (dropMarl_memWf hs)

theorem pagAnswer_memWf {p : Nat} {j : PagJob} {opc status : Nat} (hs : s.memWf) : (s.pagAnswer p j opc status).1.memWf :=
  ite_fst_memWf hs (ite_fst_memWf hs (ite_fst_memWf hs (ite_fst_memWf (pageLost_memWf hs) hs)))

theorem doOrder_memWf {p : Nat} {d : ServDesc} {o : Order} (hs : s.memWf) : (s.doOrder p d o).memWf := by
  unfold State.doOrder
  dsimp only
  split
  · split
    · exact confirmOrder_memWf (allocTo_memWf hs ‹_›)
    · exact confirmOrder_memWf hs
  · exact confirmOrder_memWf (freeRequest_memWf hs)
  · exact pagRun_memWf hs

theorem takeOrder_memWf {p : Nat} (hs : s.memWf) : (s.takeOrder p).memWf := modServ_memWf hs

theorem pantryGo_memWf {p : Nat} {d : ServDesc} (hs : s.memWf) : (s.pantryGo p d).memWf := by
  unfold State.pantryGo
  dsimp only
  split
  · refine pagRun_memWf ?_
    split
    · exact pagAnswer_memWf (modServ_memWf hs)
    · exact hs
  · split
    · exact hs
    · exact ite_memWf hs (doOrder_memWf (modServ_memWf hs))

theorem execPantryOrderReceive_nextWf {p : Nat} (hs : s.memWf) : NextWf (execPantryOrderReceive p s) := by
  refine nextWf ?_
  split
  · exact hs
  · exact ite_memWf hs (pantryGo_memWf (takeOrder_memWf hs))

theorem execPantryAllocExtend_nextWf {p : Nat} (hs : s.memWf) : NextWf (execPantryAllocExtend p s) := by
  unfold execPantryAllocExtend
  dsimp only
  refine nextWf ?_
  split
  · refine ite_memWf hs ?_
    split
    · exact modServ_memWf hs
    · exact hs
    · exact ite_memWf hs (modServ_memWf hs)
    · exact sendOrder_memWf (modServ_memWf (modRecord_memWf hs))
  · exact hs

theorem execPantryPromote_nextWf {p : Nat} (hs : s.memWf) : NextWf (execPantryPromote p s) := by
  unfold execPantryPromote
  dsimp only
  refine nextWf ?_
  split
  · exact hs
  · refine ite_memWf hs ?_
    split
    · exact hs
    · exact ite_memWf (sendOrder_memWf (modRecord_memWf hs)) hs

theorem resultOf_memWf {s0 : State} {p rcd : Nat} (hs : s0.memWf) : (s0.resultOf p rcd).2.memWf := blockRead_memWf hs

theorem tryDone_memWf {p rcd : Nat} (hs : s.memWf) : (s.tryDone p rcd).memWf := by
  unfold State.tryDone
  dsimp only
  exact ite_memWf (modRecord_memWf (setResDig_memWf (resultOf_memWf hs))) hs

theorem execPantryConfirmReceive_nextWf {p : Nat} (hs : s.memWf) : NextWf (execPantryConfirmReceive p s) := by
  unfold execPantryConfirmReceive
  dsimp only
  refine nextWf ?_
  split
  · exact hs
  · refine ite_memWf hs ?_
    split
    · exact modServ_memWf hs
    · exact tryDone_memWf (modRecord_memWf (modServ_memWf (modServ_memWf hs)))

/-! #### Weights -/

theorem modWts_memWf {p : Nat} {f : Weights → Weights} (hs : s.memWf) : (s.modWts p f).memWf := modPart_memWf hs

theorem setLayer_memWf {p l : Nat} {x : WState} (hs : s.memWf) : (s.setLayer p l x).memWf := modWts_memWf hs

theorem addDist_memWf {p : Nat} {d : Machine.Dist} (hs : s.memWf) : (s.addDist p d).memWf := modWts_memWf hs

theorem takeDist_memWf {p : Nat} {d0 : Machine.Dist} (hs : s.memWf) : (s.takeDist p d0).memWf := by
  unfold State.takeDist
  dsimp only
  exact ite_memWf (distReport_memWf (addDist_memWf hs)) (addDist_memWf hs)

theorem ringRead_memWf {ring n : Nat} : ∀ {s : State} {o : Nat}, s.memWf → (s.ringRead ring o n).2.memWf := by
  induction n with
  | zero => exact fun hs => hs
  | succ n ih =>
    intro s o hs
    unfold State.ringRead
    exact ih (blockRead_memWf hs)

theorem headDist_memWf {p daddr : Nat} {r : CmdRef} (hs : s.memWf) : (s.headDist p daddr r).memWf := by
  unfold State.headDist
  extract_lets n
  split
  rename_i desc u e
  have hu : u.memWf := snd_memWf (blockRead_memWf hs) e
  extract_lets d0 d1 bad s1
  have h1 : s1.memWf := takeDist_memWf hu
  refine ite_memWf ?_ h1
  split
  · exact distReport_memWf (setDist_memWf h1)
  · exact h1

theorem execWdDescriptorArrival_nextWf {p : Nat} (hs : s.memWf) : NextWf (execWdDescriptorArrival p s) := by
  obtain ⟨read, hread⟩ : ∃ f, f = State.blockRead := ⟨_, rfl⟩
  have h : ∀ {u a n}, u.memWf → (read u a n).2.memWf := by rw [hread]; exact blockRead_memWf
  unfold execWdDescriptorArrival
  rw [← hread]
  dsimp only
  refine nextWf ?_
  split
  · exact hs
  · split
    · exact h (modWts_memWf hs)
    · exact takeDist_memWf (servCount_memWf (h (modWts_memWf hs)))

theorem headKib_memWf {p : Nat} {d : Machine.Dist} {o : Nat} (hs : s.memWf) : (s.headKib p d o).2.memWf := by
  unfold State.headKib
  refine ite_snd_memWf hs ?_
  dsimp only
  split
  · exact hs
  · split
    · exact snd_memWf (svcRead_memWf hs) ‹_›
    · rename_i u e
      have hu : u.memWf := snd_memWf (svcRead_memWf hs) e
      exact hu

theorem distAck_memWf {p : Nat} {d : Machine.Dist} (hs : s.memWf) : (s.distAck p d).memWf := by
  unfold State.distAck
  dsimp only
  exact ite_memWf (setDist_memWf hs) (send_memWf (setDist_memWf hs))

theorem sweepDists_memWf {p : Nat} (hs : s.memWf) : (s.sweepDists p).memWf := modWts_memWf hs

theorem forwardKib_memWf {p : Nat} {d : Machine.Dist} (hs : s.memWf) : (s.forwardKib p d).memWf := by
  unfold State.forwardKib
  split
  rename_i bs s1 e
  have h1 : s1.memWf := snd_memWf (ite_snd_memWf (headKib_memWf hs) (ringRead_memWf hs)) e
  extract_lets f ends d1 s2 s3
  have h2 : s2.memWf := servCount_memWf (sendWrites_memWf h1)
  exact sweepDists_memWf (distAck_memWf (ite_memWf (send_memWf h2) h2))

theorem execWdStreamForward_nextWf {p : Nat} (hs : s.memWf) : NextWf (execWdStreamForward p s) := by
  refine nextWf ?_
  split
  · exact hs
  · exact forwardKib_memWf hs

theorem wrAreas_memWf {l : List (Nat × Nat)} : ∀ {s : State} {o : Nat} {bs : List Byte} {u : State}, s.memWf →
    s.wrAreas l o bs = some u → u.memWf := by
  induction l with
  | nil =>
    intro s o bs u hs hu
    unfold State.wrAreas at hu
    split at hu
    · cases hu; exact hs
    · cases hu
  | cons x r ih =>
    intro s o bs u hs hu
    unfold State.wrAreas at hu
    split at hu
    · exact ih hs hu
    · exact ih (svcPut_memWf hs) hu

theorem firstPiece_memWf {p : Nat} {d : Machine.Dist} {x : Piece} (hs : s.memWf) : (s.firstPiece p d x).1.memWf := by
  unfold State.firstPiece
  dsimp only
  refine ite_fst_memWf hs ?_
  refine ite_fst_memWf (servCount_memWf hs) ?_
  split
  · exact setLayer_memWf hs
  · exact setLayer_memWf hs
  · exact hs

theorem lastPiece_memWf {p : Nat} {d : Machine.Dist} {x : Piece} (hs : s.memWf) : (s.lastPiece p d x).1.memWf := by
  unfold State.lastPiece
  dsimp only
  exact ite_fst_memWf (ite_memWf hs (setLayer_memWf hs)) (servCount_memWf (ite_memWf hs (setLayer_memWf hs)))

theorem pieceDone_memWf {p : Nat} {d : Machine.Dist} {x : Piece} (hs : s.memWf) : (s.pieceDone p d x).1.memWf := by
  unfold State.pieceDone
  extract_lets src d1 out
  have hout : ∀ u, out = some u → u.memWf := by
    intro u hu
    unfold out at hu
    split at hu
    · cases hu
    · obtain ⟨bs, -, hb⟩ := Option.bind_eq_some_iff.1 hu
      exact wrAreas_memWf hs hb
  clear_value out
  cases out with
  | none => exact ite_fst_memWf (lastPiece_memWf hs) hs
  | some u => exact ite_fst_memWf (lastPiece_memWf (hout u rfl)) (hout u rfl)

theorem intakeDone_memWf {p : Nat} {d : Machine.Dist} (hs : s.memWf) : (s.intakeDone p d).memWf := by
  unfold State.intakeDone
  dsimp only
  refine ite_memWf (setDist_memWf hs) ?_
  refine ite_memWf (distReport_memWf (setDist_memWf hs)) ?_
  split
  · exact modWts_memWf (distReport_memWf (setDist_memWf hs))
  · exact modWts_memWf (distReport_memWf (setDist_memWf hs))
  · exact distReport_memWf (setDist_memWf hs)

theorem intakePiece_memWf {p : Nat} {d : Machine.Dist} (hs : s.memWf) : (s.intakePiece p d).memWf := by
  unfold State.intakePiece
  extract_lets x n mine
  split
  rename_i s1 d1 e1
  have h1 : s1.memWf := fst_memWf (ite_fst_memWf (firstPiece_memWf hs) hs) e1
  extract_lets take
  split
  rename_i bs s2 e2
  have h2 : s2.memWf := by
    refine snd_memWf (ite_snd_memWf h1 (ite_snd_memWf (foldl_snd_memWf (fun _ _ hu => ?_) h1) (ringRead_memWf h1))) e2
    exact headKib_memWf hu
  extract_lets d2
  refine ite_memWf (distAck_memWf h2) ?_
  split
  rename_i s3 d3 e3
  have h3 : s3.memWf := fst_memWf (ite_fst_memWf (pieceDone_memWf h2) h2) e3
  extract_lets d4 s4
  have h4 : s4.memWf := ite_memWf (intakeDone_memWf h3) (setDist_memWf h3)
  split
  · exact sweepDists_memWf (distAck_memWf h4)
  · exact h4

theorem intakeDesc_memWf {p : Nat} {d : Machine.Dist} (hs : s.memWf) : (s.intakeDesc p d).memWf := by
  unfold State.intakeDesc
  dsimp only
  exact ite_memWf (distAck_memWf (ringRead_memWf hs)) (ite_memWf (distAck_memWf (ringRead_memWf hs))
    (distAck_memWf (distReport_memWf (setDist_memWf (ringRead_memWf hs)))))

theorem execWdPieceConvert_nextWf {p : Nat} (hs : s.memWf) : NextWf (execWdPieceConvert p s) := by
  refine nextWf ?_
  split
  · exact hs
  · exact ite_memWf (intakePiece_memWf hs) (intakeDesc_memWf hs)

theorem dropIntake_memWf {p : Nat} {d : Machine.Dist} (hs : s.memWf) : (s.dropIntake p d).memWf := by
  unfold State.dropIntake
  dsimp only
  exact ite_memWf hs (foldl_memWf (fun _ _ hu => ite_memWf hu (ite_memWf (setLayer_memWf hu) hu)) hs)

theorem execWdDtmoTimeout_nextWf {p : Nat} (hs : s.memWf) : NextWf (execWdDtmoTimeout p s) := by
  unfold execWdDtmoTimeout
  dsimp only
  refine nextWf ?_
  split
  · exact hs
  · exact ite_memWf (modWts_memWf (distReport_memWf (dropIntake_memWf hs))) (distReport_memWf (setDist_memWf hs))

theorem distReply_memWf {p : Nat} {d : Machine.Dist} (hs : s.memWf) : (s.distReply p d).memWf := by
  unfold State.distReply
  extract_lets got none_ bad ok s1 s2 x s3
  have h2 : s2.memWf := modWts_memWf (svcPut_memWf hs)
  have h3 : s3.memWf := ite_memWf (setLslot_memWf h2) h2
  split
  · exact reply_memWf _ _ _ h3
  · exact h3

theorem execWdReportReceive_nextWf {p : Nat} (hs : s.memWf) : NextWf (execWdReportReceive p s) := by
  unfold execWdReportReceive
  dsimp only
  refine nextWf ?_
  split
  · exact hs
  · split
    · exact modWts_memWf hs
    · exact ite_memWf (distReply_memWf (setDist_memWf (modWts_memWf hs))) (setDist_memWf (modWts_memWf hs))

theorem execWdHeadTimeout_nextWf {p : Nat} (hs : s.memWf) : NextWf (execWdHeadTimeout p s) := by
  refine nextWf ?_
  split
  · exact hs
  · exact distReply_memWf hs

theorem swapOrder_memWf {p op gen step : Nat} (hs : s.memWf) : (s.swapOrder p op gen step).memWf := by
  unfold State.swapOrder
  split
  · exact hs
  · exact foldl_memWf (fun _ _ => sendMsg_memWf) hs

theorem swapConfirm_memWf {p gen step status : Nat} (hs : s.memWf) : (s.swapConfirm p gen step status).memWf := by
  unfold State.swapConfirm
  split
  · exact sendMsg_memWf hs
  · exact hs

theorem beginCopy_memWf {p : Nat} {m : WMap} {l : Nat} (hs : s.memWf) : (s.beginCopy p m l).memWf := modWts_memWf hs

theorem swapEnd_memWf {p : Nat} (hs : s.memWf) : (s.swapEnd p).memWf := by
  unfold State.swapEnd
  dsimp only
  split
  · exact hs
  · exact ite_memWf hs (ite_memWf (modWts_memWf hs) (swapConfirm_memWf (modWts_memWf hs)))

theorem swapNow_memWf {p gen : Nat} {m : WMap} (hs : s.memWf) : (s.swapNow p gen m).memWf :=
  swapEnd_memWf (foldl_memWf (fun _ _ => beginCopy_memWf) (modWts_memWf hs))

theorem execWswapOrderReceive_nextWf {p : Nat} (hs : s.memWf) : NextWf (execWswapOrderReceive p s) := by
  unfold execWswapOrderReceive
  dsimp only
  refine nextWf ?_
  split
  · exact ite_memWf (modWts_memWf hs) (ite_memWf (swapConfirm_memWf (modWts_memWf hs))
      (ite_memWf (ite_memWf (swapConfirm_memWf (modWts_memWf (modWts_memWf hs))) (swapNow_memWf (modWts_memWf hs))) (modWts_memWf hs)))
  · exact hs

theorem swapFail_memWf {p status midx : Nat} (hs : s.memWf) : (s.swapFail p status midx).memWf := by
  unfold State.swapFail
  dsimp only
  split
  · exact reply_memWf _ _ _ (modWts_memWf hs)
  · exact modWts_memWf hs

theorem execWswapConfirmReceive_nextWf {p : Nat} (hs : s.memWf) : NextWf (execWswapConfirmReceive p s) := by
  unfold execWswapConfirmReceive
  dsimp only
  refine nextWf ?_
  split
  · exact hs
  · refine ite_memWf (modWts_memWf hs) ?_
    refine ite_memWf (ite_memWf (swapFail_memWf (modWts_memWf hs)) (modWts_memWf (modWts_memWf hs))) ?_
    refine ite_memWf ?_ (modWts_memWf hs)
    refine ite_memWf ?_ (modWts_memWf (modWts_memWf hs))
    split
    · exact reply_memWf _ _ _ (modWts_memWf (modWts_memWf (modWts_memWf hs)))
    · exact modWts_memWf (modWts_memWf (modWts_memWf hs))

theorem swapCommit_memWf {p k : Nat} (hs : s.memWf) : (s.swapCommit p k).memWf := by
  unfold State.swapCommit
  dsimp only
  refine ite_memWf (swapOrder_memWf (modWts_memWf hs)) ?_
  refine ite_memWf ?_ hs
  refine ite_memWf ?_ (raise_memWf (swapFail_memWf hs))
  split
  · exact reply_memWf _ _ _ (modWts_memWf hs)
  · exact modWts_memWf hs

theorem execWeightRewriteStart_nextWf {p layer : Nat} {s0 : State} (hs : s0.memWf) : NextWf (execWeightRewriteStart p layer s0) := by
  unfold execWeightRewriteStart
  dsimp only
  refine nextWf ?_
  split
  · exact stepAdvance_memWf hs
  · exact ite_memWf (beginCopy_memWf (stepAdvance_memWf hs)) (stepAdvance_memWf hs)

theorem layerCopied_memWf {p : Nat} {c : RowCopy} (hs : s.memWf) : (s.layerCopied p c).memWf := by
  unfold State.layerCopied
  dsimp only
  exact ite_memWf (setLayer_memWf hs) (modServ_memWf (setLayer_memWf hs))

theorem tearAreas_memWf {m : WMap} {c : RowCopy} (hs : s.memWf) : (s.tearAreas m c).memWf := by
  unfold State.tearAreas
  dsimp only
  refine foldl_memWf (fun _ _ hu => ?_) hs
  split
  · exact hu
  · exact memWf_congr rfl rfl rfl (wr_memWf _ _ hu)

theorem stackCopied_memWf {p : Nat} {c : RowCopy} {stk : Nat} {bad : Bool} (hs : s.memWf) : (s.stackCopied p c stk bad).memWf := by
  unfold State.stackCopied
  dsimp only
  exact ite_memWf (swapEnd_memWf (layerCopied_memWf (modWts_memWf hs))) (modWts_memWf hs)

theorem execRowCopyDone_nextWf {p layer stk : Nat} {ecc : EccEvent} (hs : s.memWf) : NextWf (execRowCopyDone p layer stk ecc s) := by
  unfold execRowCopyDone
  dsimp only
  refine nextWf ?_
  split
  · split
    · exact hs
    · refine ite_memWf hs ?_
      split
      · exact stackCopied_memWf (tearAreas_memWf (raise_memWf (askTest_memWf (markBad_memWf hs))))
      · exact stackCopied_memWf (tearAreas_memWf (raise_memWf (askTest_memWf (markBad_memWf hs))))
      · exact stackCopied_memWf (wr_memWf _ _ (memSoft_memWf (countCe_memWf hs)))
      · exact stackCopied_memWf (wr_memWf _ _ (memSoft_memWf hs))
  · exact hs

theorem execSrvWswapStatClear_nextWf {acc : Accessor} {p : Nat} {v : BitVec 32} (hs : s.memWf) : NextWf (execSrvWswapStatClear acc p v s) :=
  nextWf (partWrite_memWf hs (fun _ hu => ite_memWf (modWts_memWf hu) hu))

/-! #### Serving -/

theorem stepWr_memWf {p a : Nat} {bs : List Byte} (hs : s.memWf) : (s.stepWr p a bs).memWf := ite_memWf (wr_memWf _ _ hs) hs

theorem writeMirror_memWf {p rcd : Nat} (hs : s.memWf) : (s.writeMirror p rcd).memWf := stepWr_memWf hs

theorem renewMirror_memWf {p rcd : Nat} (hs : s.memWf) : (s.renewMirror p rcd).memWf := stepWr_memWf hs

theorem renewMirrors_memWf {s old : State} {p : Nat} (hs : s.memWf) : (s.renewMirrors old p).memWf :=
  foldl_memWf (fun _ _ hu => ite_memWf (renewMirror_memWf hu) hu) hs

theorem dropAdapter_memWf {rcd : Nat} (hs : s.memWf) : (s.dropAdapter rcd).memWf := by
  unfold State.dropAdapter
  dsimp only
  exact ite_memWf (setLslot_memWf (modRecord_memWf hs)) hs

theorem resultOfEntry_memWf {base m : Nat} {e : ManEnt} (hs : s.memWf) : (s.resultOfEntry base m e).2.memWf := by
  unfold State.resultOfEntry
  dsimp only
  exact ite_snd_memWf (blockRead_memWf hs) (blockRead_memWf (blockRead_memWf hs))

theorem resultsOf_memWf {base : Nat} {es : List ManEnt} (hs : s.memWf) : (s.resultsOf base es).2.memWf := by
  refine foldl_snd_memWf (fun _ _ hu => ?_) hs
  exact resultOfEntry_memWf hu

theorem applyResult_memWf {p : Nat} {x : Result} (hs : s.memWf) : (s.applyResult p x).1.memWf := by
  unfold State.applyResult
  dsimp only
  exact modServ_memWf (ite_memWf (setRecord_memWf hs) (dropAdapter_memWf (setRecord_memWf hs)))

theorem setOut_memWf {p hp : Nat} {o : OutPort} (hs : s.memWf) : (s.setOut p hp o).memWf := modServ_memWf hs

theorem oqWrite_memWf {p base fuel : Nat} : ∀ {s : State} {pos : Nat} {bs : List Byte}, s.memWf → (s.oqWrite p base pos fuel bs).memWf := by
  induction fuel with
  | zero => exact fun hs => hs
  | succ fuel ih =>
    intro s pos bs hs
    unfold State.oqWrite
    dsimp only
    exact ite_memWf hs (ih (svcWrite_memWf hs))

theorem writeOutput_memWf {p hp step tick shape : Nat} {miss : Bool} {es : List OutEnt} (hs : s.memWf) :
    (s.writeOutput p hp step tick shape miss es).memWf := by
  unfold State.writeOutput
  dsimp only
  exact ite_memWf (servCount_memWf hs) (setOut_memWf (oqWrite_memWf hs))

theorem execServingConfigWrite_nextWf {acc : Accessor} {p : Nat} {r : ServReg} {v : BitVec 64} (hs : s.memWf) :
    NextWf (execServingConfigWrite acc p r v s) := by
  refine nextWf ?_
  refine partWrite_memWf hs (fun _ hu => ?_)
  refine ite_memWf (modServ_memWf hu) ?_
  split
  · exact modServ_memWf hu
  · exact modServ_memWf hu

theorem execSrvStepBaseWrite_nextWf {acc : Accessor} {p : Nat} {v : BitVec 64} (hs : s.memWf) : NextWf (execSrvStepBaseWrite acc p v s) :=
  nextWf (partWrite_memWf hs (fun _ hu => ite_memWf (modServ_memWf hu) (modServ_memWf hu)))

theorem takeCancels_memWf {p : Nat} (hs : s.memWf) : (s.takeCancels p).memWf := modServ_memWf (foldl_memWf (fun _ _ => modRecord_memWf) hs)

theorem silentEnds_memWf {p : Nat} (hs : s.memWf) : (s.silentEnds p).1.memWf :=
  foldl_fst_memWf (fun _ _ hu => dropAdapter_memWf (setRecord_memWf hu)) hs

theorem commitOrders_memWf {p tick : Nat} (hs : s.memWf) : (s.commitOrders p tick).memWf := by
  unfold State.commitOrders
  dsimp only
  exact ite_memWf (foldl_memWf (fun _ _ hu => ite_memWf (sendOrder_memWf hu) hu) hs)
    (foldl_memWf (fun _ _ hu => ite_memWf (sendOrder_memWf (modRecord_memWf hu)) hu)
      (foldl_memWf (fun _ _ hu => ite_memWf (sendOrder_memWf hu) hu) hs))

theorem commitStep_memWf {s0 : State} {p k tick : Nat} (hs : s0.memWf) : (s0.commitStep p k tick).memWf := by
  unfold State.commitStep
  extract_lets v man es base
  split
  rename_i rs s e
  have hs : s.memWf := snd_memWf (resultsOf_memWf hs) e
  split
  · exact raise_memWf hs
  · split
    rename_i s1 out1 e1
    have h1 : s1.memWf := by
      refine fst_memWf (foldl_fst_memWf (fun _ _ hu => ?_) hs) e1
      exact applyResult_memWf hu
    split
    rename_i s2 out2 e2
    have h2 : s2.memWf := fst_memWf (silentEnds_memWf (takeCancels_memWf h1)) e2
    exact swapCommit_memWf (commitOrders_memWf (renewMirrors_memWf (modServ_memWf (foldl_memWf (fun _ _ => writeOutput_memWf) h2))))

theorem execStepCommit_nextWf {p : Nat} (hs : s.memWf) : NextWf (execStepCommit p s) := by
  unfold execStepCommit
  dsimp only
  refine nextWf ?_
  split
  · exact hs
  · exact ite_memWf hs (ite_memWf (commitStep_memWf (modServ_memWf hs)) (modServ_memWf hs))

theorem pauses_memWf {p tick tm : Nat} {m m2 : List ManEnt} (hs : s.memWf) : (s.pauses p tick tm m m2).memWf :=
  foldl_memWf (fun _ _ hu => servCount_memWf (modRecord_memWf hu)) hs

theorem placeAll_memWf {p : Nat} {es : List ManEnt} (hs : s.memWf) : (s.placeAll p es).memWf := by
  unfold State.placeAll
  dsimp only
  exact foldl_memWf (fun _ _ hu => ite_memWf (servCount_memWf (modRecord_memWf hu)) (modRecord_memWf hu)) hs

theorem composeStep_memWf {p tick : Nat} {pl : Plan} {d : ServDesc} (hs : s.memWf) : (s.composeStep p tick pl d).memWf := by
  unfold State.composeStep
  dsimp only
  split
  · refine modServ_memWf ?_
    refine wr_memWf _ _ ?_
    refine renewMirrors_memWf ?_
    refine placeAll_memWf ?_
    split
    · exact ite_memWf (modServ_memWf hs) (pauses_memWf (modServ_memWf hs))
    · exact modServ_memWf hs
  · exact hs

theorem execStepCompose_nextWf {p : Nat} (hs : s.memWf) : NextWf (execStepCompose p s) := by
  unfold execStepCompose
  dsimp only
  refine nextWf ?_
  split
  · exact ite_memWf (composeStep_memWf hs) hs
  · exact hs

theorem serveAll_memWf {p : Nat} (hs : s.memWf) : (s.serveAll p).memWf := foldl_memWf (fun _ _ => modRecord_memWf) hs

theorem openStep_memWf {p : Nat} {pl : Plan} {i : Nat} {man : List Byte} (hs : s.memWf) : (s.openStep p pl i man).memWf := by
  unfold State.openStep
  dsimp only
  split
  · exact hs
  · exact ite_memWf (serveAll_memWf (setPart_memWf hs)) (setPart_memWf hs)

theorem execManifestRead_nextWf {p : Nat} {s0 : State} (hs : s0.memWf) : NextWf (execManifestRead p s0) := by
  unfold execManifestRead
  dsimp only
  refine nextWf ?_
  split
  · exact ite_memWf hs (ite_memWf (raise_memWf (landView_memWf hs))
      (ite_memWf (raise_memWf (landView_memWf hs)) (openStep_memWf (landView_memWf hs))))
  · exact hs

theorem ringWr_memWf {base size off : Nat} {bs : List Byte} (hs : s.memWf) : (s.ringWr base size off bs).memWf :=
  hostWr_memWf _ _ (hostWr_memWf _ _ hs)

theorem execOutputRingCopy_nextWf {p hp : Nat} (hs : s.memWf) : NextWf (execOutputRingCopy p hp s) := by
  unfold execOutputRingCopy
  dsimp only
  exact nextWf (ite_memWf hs (irq_memWf (setOut_memWf (hostWr_memWf _ _
    (ringWr_memWf (ite_snd_memWf (blockRead_memWf (blockRead_memWf hs)) (blockRead_memWf hs)))))))

end Sys2Proof
end

section
namespace Sys2Proof

open Machine

/-! ### Canonical memory: audit, recovery and registers -/

variable {s : State}

/-! #### Audit -/

theorem modAud_memWf {p : Nat} {f : Audit → Audit} (hs : s.memWf) : (s.modAud p f).memWf := modPart_memWf hs

theorem ownRecord_memWf {p n : Nat} {r : DigRec} (hs : s.memWf) : (s.ownRecord p n r).memWf :=
  ite_memWf (modAud_memWf (servCount_memWf hs)) (modAud_memWf hs)

theorem logRecord_memWf {p : Nat} {r : DigRec} (hs : s.memWf) : (s.logRecord p r).memWf := by
  unfold State.logRecord
  dsimp only
  exact ite_memWf (modAud_memWf (svcWrite_memWf hs)) (sendMsg_memWf
    (modAud_memWf (modAud_memWf (ownRecord_memWf (modAud_memWf (svcWrite_memWf hs))))))

theorem diverge_memWf {p step layer : Nat} {a b : Option DigRec} (hs : s.memWf) : (s.diverge p step layer a b).memWf := by
  unfold State.diverge
  dsimp only
  exact ite_memWf (raise_memWf (servCount_memWf hs)) (writeRecord_memWf (servCount_memWf hs))

theorem compareLayer_memWf {p step : Nat} {own peer : List DigRec} {l : Nat} (hs : s.memWf) : (s.compareLayer p step own peer l).memWf := by
  unfold State.compareLayer
  dsimp only
  split
  · exact ite_memWf (servCount_memWf hs) (diverge_memWf hs)
  · exact hs
  · exact diverge_memWf hs

theorem compareStep_memWf {p step : Nat} (hs : s.memWf) : (s.compareStep p step).memWf := by
  unfold State.compareStep
  dsimp only
  split
  · exact ite_memWf (servCount_memWf (modAud_memWf hs)) (foldl_memWf (fun _ _ => compareLayer_memWf) (modAud_memWf hs))
  · exact hs

theorem compareAll_memWf {p : Nat} (hs : s.memWf) : (s.compareAll p).memWf := foldl_memWf (fun _ _ => compareStep_memWf) hs

theorem execTwinRecordReceive_nextWf {p : Nat} (hs : s.memWf) : NextWf (execTwinRecordReceive p s) := by
  unfold execTwinRecordReceive
  dsimp only
  refine nextWf ?_
  split
  · exact hs
  · exact compareAll_memWf (modAud_memWf (servCount_memWf hs))

theorem closeStep_memWf {p k : Nat} (hs : s.memWf) : (s.closeStep p k).memWf := by
  unfold State.closeStep
  dsimp only
  exact compareAll_memWf (modAud_memWf (ite_memWf (servCount_memWf
    (foldl_memWf (fun _ _ => modTile_memWf) (ite_memWf (foldl_memWf (fun _ _ => logRecord_memWf) hs) hs)))
      (foldl_memWf (fun _ _ => modTile_memWf) (ite_memWf (foldl_memWf (fun _ _ => logRecord_memWf) hs) hs))))

theorem execLayerDigestClose_nextWf {p : Nat} {s0 : State} (hs : s0.memWf) : NextWf (execLayerDigestClose p s0) := by
  unfold execLayerDigestClose
  dsimp only
  exact nextWf (ite_memWf (closeStep_memWf (stepAdvance_memWf hs)) (stepAdvance_memWf hs))

theorem execSrvTwinWrite_nextWf {acc : Accessor} {p : Nat} {base : Bool} {v : BitVec 64} (hs : s.memWf) :
    NextWf (execSrvTwinWrite acc p base v s) :=
  nextWf (partWrite_memWf hs (fun _ hu => ite_memWf hu (ite_memWf (ite_memWf (modAud_memWf hu) hu) (modAud_memWf hu))))

/-! #### Recovery -/

theorem modFlt_memWf {p : Nat} {f : Faults → Faults} (hs : s.memWf) : (s.modFlt p f).memWf := modPart_memWf hs

theorem execFaultNoticeReceive_nextWf {p : Nat} (hs : s.memWf) : NextWf (execFaultNoticeReceive p s) := by
  refine nextWf ?_
  split
  · exact hs
  · exact takeNotice_memWf (modFlt_memWf hs)

theorem countReport_memWf {p : Nat} {ws : List Word} (hs : s.memWf) : (s.countReport p ws).memWf := modFlt_memWf hs

theorem execHaltReportSend_nextWf {p : Nat} (hs : s.memWf) : NextWf (execHaltReportSend p s) := by
  unfold execHaltReportSend
  dsimp only
  refine nextWf ?_
  split
  · exact ite_memWf hs (ite_memWf (countReport_memWf (modFlt_memWf hs)) (ite_memWf (modFlt_memWf hs) (sendMsg_memWf (modFlt_memWf hs))))
  · exact hs

theorem execHaltReportReceive_nextWf {p : Nat} (hs : s.memWf) : NextWf (execHaltReportReceive p s) := by
  refine nextWf ?_
  split
  · exact hs
  · exact countReport_memWf (modFlt_memWf hs)

theorem collectHang_memWf {p : Nat} (hs : s.memWf) : (s.collectHang p).memWf := by
  unfold State.collectHang
  dsimp only
  exact ite_memWf (modFlt_memWf hs) hs

theorem retire_memWf {kind idx : Nat} (hs : s.memWf) : (s.retire kind idx).memWf := modHrt_memWf hs

theorem retireFor_memWf {kind idx : Nat} (hs : s.memWf) : (s.retireFor kind idx).memWf := by
  unfold State.retireFor
  split
  · exact retire_memWf hs
  · exact retire_memWf hs
  · exact retire_memWf hs
  · exact retire_memWf hs
  · exact retire_memWf hs
  · exact retire_memWf hs
  · exact retire_memWf hs
  · exact retire_memWf hs

theorem repair_memWf {kind idx : Nat} (hs : s.memWf) : (s.repair kind idx).memWf := by
  unfold State.repair
  dsimp only
  split
  · exact ite_memWf (modDev_memWf hs) (retireFor_memWf hs)
  · exact retireFor_memWf hs

theorem execSelfTestRun_nextWf {kind idx : Nat} {pass : Bool} (hs : s.memWf) : NextWf (execSelfTestRun kind idx pass s) := by
  unfold execSelfTestRun
  dsimp only
  exact nextWf (ite_memWf hs (ite_memWf (writeEvent_memWf (devCount_memWf (modDev_memWf hs)))
    (repair_memWf (writeEvent_memWf (devCount_memWf (modDev_memWf hs))))))

/-! #### Shadow -/

theorem execShadowDigestReceive_nextWf {p : Nat} (hs : s.memWf) : NextWf (execShadowDigestReceive p s) := by
  refine nextWf ?_
  split
  · exact hs
  · exact ite_memWf (modSh_memWf hs) (shadowCompare_memWf (modSh_memWf hs))

theorem execShadowPromoteRequestReceive_nextWf {p : Nat} (hs : s.memWf) : NextWf (execShadowPromoteRequestReceive p s) := by
  unfold execShadowPromoteRequestReceive
  dsimp only
  refine nextWf ?_
  split
  · exact hs
  · exact ite_memWf (shadowSend_memWf (modSh_memWf (modSh_memWf hs))) (modSh_memWf hs)

theorem execShadowAckReceive_nextWf {p : Nat} (hs : s.memWf) : NextWf (execShadowAckReceive p s) := by
  unfold execShadowAckReceive
  dsimp only
  refine nextWf ?_
  split
  · exact hs
  · exact modSh_memWf hs

theorem writeRole_memWf {p : Nat} {active : Bool} (hs : s.memWf) : (s.writeRole p active).memWf :=
  foldl_memWf (fun _ _ hu => wrW_memWf _ _ hu) hs

theorem execShadowRoleSwitch_nextWf {p : Nat} (hs : s.memWf) : NextWf (execShadowRoleSwitch p s) := by
  unfold execShadowRoleSwitch
  refine nextWf ?_
  extract_lets v s1 ok s3 s2
  have h2 : s2.memWf := ite_memWf (modSh_memWf hs)
    (ite_memWf (writeRole_memWf (modSh_memWf (modSh_memWf hs))) (modFab_memWf (writeRole_memWf (modSh_memWf (modSh_memWf hs)))))
  split
  · exact hs
  · refine ite_memWf hs ?_
    split
    · exact reply_memWf _ _ _ h2
    · exact h2

/-! #### Budget -/

theorem setBudget_memWf {avgW peakW : Nat} (hs : s.memWf) : (s.setBudget avgW peakW).memWf := modPwr_memWf hs

theorem execPwrBudgetWrite_nextWf {acc : Accessor} {v : BitVec 32} (hs : s.memWf) : NextWf (execPwrBudgetWrite acc v s) :=
  nextWf (devWrite_memWf hs (fun _ => setBudget_memWf))

theorem execTilHzdCtlWrite_nextWf {acc : Accessor} {v : BitVec 32} (hs : s.memWf) : NextWf (execTilHzdCtlWrite acc v s) :=
  nextWf (devWrite_memWf hs (fun _ => modDev_memWf))

/-! #### RegAccess -/

theorem after_memWf {o : Host.Outcome State Fault Refusal} (ho : NextWf o) : (s.after o).memWf := by
  obtain ⟨u, rfl, hu⟩ := ho
  exact hu

theorem gateMiss_memWf {x : RegGate} (hs : s.memWf) : (s.gateMiss x).memWf := by
  unfold State.gateMiss
  split
  · exact regViol_memWf hs
  · exact devCount_memWf hs
  · exact hs

theorem tableWr_memWf {a : Accessor} {o : Nat} {bs : List Byte} (hs : s.memWf) : (s.tableWr a o bs).memWf := by
  unfold State.tableWr
  dsimp only
  refine ite_memWf (devWrite_memWf hs (fun _ => modHrt_memWf)) ?_
  refine ite_memWf (devWrite_memWf hs (fun _ hu => ite_memWf hu (modFab_memWf hu))) ?_
  split
  · exact gateMiss_memWf hs
  · exact hs

theorem clearBy_memWf {a : Accessor} {v : Nat} {f : State → State} (hs : s.memWf) (hf : ∀ u, u.memWf → (f u).memWf) :
    (s.clearBy a v f).memWf :=
  ite_memWf (hf _ hs) hs

theorem fullReq_memWf (hs : s.memWf) : (s.fullReq).memWf := ite_memWf (modPwr_memWf hs) hs

theorem putDev_memWf {a : Accessor} {r : Reg} {v : Nat} (hs : s.memWf) : (s.putDev a r v).memWf := by
  unfold State.putDev
  dsimp only
  split
  · exact devWrite_memWf hs (fun _ => modMnt_memWf)
  · exact after_memWf (execMntTdCtlWrite_nextWf hs)
  · exact clearBy_memWf hs (fun _ => modMnt_memWf)
  · exact devWrite_memWf hs (fun _ => modMnt_memWf)
  · exact devWrite_memWf hs (fun _ => modMnt_memWf)
  · exact after_memWf (execMntWcCommit_nextWf hs)
  · exact after_memWf (execPwrBudgetWrite_nextWf hs)
  · exact devWrite_memWf hs (fun _ hu => ite_memWf (fullReq_memWf (modHrt_memWf hu)) (modHrt_memWf hu))
  · exact devWrite_memWf hs (fun _ => modPwr_memWf)
  · exact devWrite_memWf hs (fun _ => modHrt_memWf)
  · exact devWrite_memWf hs (fun _ => modPwr_memWf)
  · exact clearBy_memWf hs (fun _ => modPwr_memWf)
  · exact after_memWf (execFabDevidWrite_nextWf hs)
  · exact after_memWf (execFabGenArm_nextWf hs)
  · exact devWrite_memWf hs (fun _ => modFab_memWf)
  · exact clearBy_memWf hs (fun _ hu10 => modFab_memWf hu10)
  · exact ite_memWf (clearBy_memWf hs (fun _ hu11 => modDev_memWf hu11)) hs
  · exact after_memWf (execTilHzdCtlWrite_nextWf hs)
  · exact hs

theorem ldigCtl_memWf {p : Nat} {w : Word} (hs : s.memWf) : (s.ldigCtl p w).memWf :=
  ite_memWf hs (ite_memWf (modAud_memWf hs) (modAud_memWf hs))

theorem ldigBase_memWf {p v : Nat} (hs : s.memWf) : (s.ldigBase p v).memWf := by
  unfold State.ldigBase
  dsimp only
  exact ite_memWf hs (ite_memWf (modAud_memWf hs) (modAud_memWf hs))

theorem putPart_memWf {a : Accessor} {p : Nat} {r : Reg} {v : Nat} (hs : s.memWf) : (s.putPart a p r v).memWf := by
  unfold State.putPart
  dsimp only
  split
  · exact after_memWf (execMntLtCfgWrite_nextWf hs)
  · exact partWrite_memWf hs (fun _ => modPart_memWf)
  · exact after_memWf (execServingConfigWrite_nextWf hs)
  · exact after_memWf (execServingConfigWrite_nextWf hs)
  · exact after_memWf (execServingConfigWrite_nextWf hs)
  · exact after_memWf (execServingConfigWrite_nextWf hs)
  · exact ite_memWf (clearBy_memWf hs (fun _ => modServ_memWf)) hs
  · exact after_memWf (execSrvWswapStatClear_nextWf hs)
  · exact partWrite_memWf hs (fun _ => ldigCtl_memWf)
  · exact partWrite_memWf hs (fun _ => ldigBase_memWf)
  · exact partWrite_memWf hs (fun _ => modFlt_memWf)
  · exact clearBy_memWf hs (fun _ => modFlt_memWf)
  · exact clearBy_memWf hs (fun _ => modFlt_memWf)
  · exact clearBy_memWf hs (fun _ => modFlt_memWf)
  · exact clearBy_memWf hs (fun _ => modFlt_memWf)
  · exact after_memWf (execSrvTwinWrite_nextWf hs)
  · exact after_memWf (execSrvTwinWrite_nextWf hs)
  · exact after_memWf (execServingConfigWrite_nextWf hs)
  · exact after_memWf (execServingConfigWrite_nextWf hs)
  · exact after_memWf (execServingConfigWrite_nextWf hs)
  · exact after_memWf (execServingConfigWrite_nextWf hs)
  · exact partWrite_memWf hs (fun _ => modServ_memWf)
  · exact after_memWf (execSrvStepBaseWrite_nextWf hs)
  · exact hs

theorem regPut_memWf {a : Accessor} {u : RegUnit} {r : Reg} {v : Nat} (hs : s.memWf) : (s.regPut a u r v).memWf := by
  unfold State.regPut
  split
  · exact putDev_memWf hs
  · exact devWrite_memWf hs (fun _ => fence_memWf)
  · exact portWrite_memWf hs (fun _ => lnkCtl_memWf)
  · exact clearBy_memWf hs (fun _ => modPort_memWf)
  · exact devWrite_memWf hs (fun _ => modStack_memWf)
  · exact clearBy_memWf hs (fun _ => modStack_memWf)
  · exact clearBy_memWf hs (fun _ => modDev_memWf)
  · exact clearBy_memWf hs (fun _ => modRoom_memWf)
  · exact putPart_memWf hs
  · exact hs

theorem regWordRd_memWf {a : Accessor} {o : Nat} {whole : Bool} (hs : s.memWf) : (s.regWordRd a o whole).2.memWf := by
  unfold State.regWordRd
  split
  · exact hs
  · split
    · exact ite_snd_memWf (ite_snd_memWf (modMnt_memWf hs) hs) hs
    · exact gateMiss_memWf hs

theorem regionRd_memWf {a : Accessor} {o n : Nat} (hs : s.memWf) : (s.regionRd a o n).2.memWf := by
  unfold State.regionRd
  dsimp only
  refine ite_snd_memWf hs ?_
  split
  · exact hs
  · exact gateMiss_memWf hs
  · exact ite_snd_memWf (regWordRd_memWf hs) (regWordRd_memWf (regWordRd_memWf hs))

theorem regWords_memWf {a : Accessor} {u : RegUnit} {r : Reg} {k : Nat} {ws : List Word} (hs : s.memWf) :
    (s.regWords a u r k ws).memWf := by
  unfold State.regWords
  dsimp only
  split
  · exact regPut_memWf hs
  · exact gateMiss_memWf hs

theorem regionWr_memWf {a : Accessor} {o : Nat} {bs : List Byte} (hs : s.memWf) : (s.regionWr a o bs).memWf := by
  unfold State.regionWr
  dsimp only
  refine ite_memWf hs ?_
  refine ite_memWf (tableWr_memWf hs) ?_
  split
  · refine ite_memWf ?_ hs
    split
    · exact regWords_memWf hs
    · exact hs
  · refine ite_memWf (regWords_memWf hs) ?_
    split
    · exact ite_memWf (regWords_memWf hs) (regWords_memWf (regWords_memWf hs))
    · exact regWords_memWf hs

end Sys2Proof
end

section
namespace Sys2Proof

open Machine

/-! ### Canonical memory: plan images, the host interface and commands -/

variable {s : State}

/-! #### HostIf -/

theorem submit_memWf {hp fn : Nat} {ws : List Word} {badLen : Bool} (hs : s.memWf) : (s.submit hp fn ws badLen).memWf := by
  unfold State.submit
  dsimp only
  exact ite_memWf (modFn_memWf (fnCount_memWf (fnCount_memWf hs)))
    (modHport_memWf (ite_memWf (modCmd_memWf rfl (fnCount_memWf hs)) (fnCount_memWf hs)))

theorem slotWrite_memWf {hp fn slot off : Nat} {bs : List Byte} (hs : s.memWf) : (s.slotWrite hp fn slot off bs).memWf := by
  unfold State.slotWrite
  extract_lets base s1 ws len done
  have h1 : s1.memWf := modFn_memWf hs
  have hdone : done.memWf := modFn_memWf h1
  exact ite_memWf hs (ite_memWf (ite_memWf (submit_memWf hdone) h1) (ite_memWf (submit_memWf hdone) h1))

theorem execCommandSlotWrite_nextWf {hp fn off : Nat} {bytes : List (BitVec 8)} (hs : s.memWf) :
    NextWf (execCommandSlotWrite hp fn off bytes s) := by
  unfold execCommandSlotWrite
  dsimp only
  exact nextWf (ite_memWf hs (foldl_memWf (fun _ _ hu => ite_memWf (slotWrite_memWf hu) hu) hs))

theorem front_memWf {k : Pkt} {u : State} (hs : s.memWf) (hu : s.front = some (k, u)) : u.memWf := by
  obtain ⟨n, p, rfl⟩ := front_frame hu
  exact memWf_congr rfl rfl rfl hs

theorem takeOpc_memWf {opc : Nat} {f : State → Pkt → State} (hs : s.memWf) (hf : ∀ u k, u.memWf → (f u k).memWf) :
    (s.takeOpc opc f).memWf := by
  unfold State.takeOpc
  split
  · exact ite_memWf (hf _ _ (front_memWf hs ‹_›)) hs
  · exact hs

theorem decideOn_memWf {k : Pkt} {checks : List Refuse} {act : State} (hs : s.memWf) (hs1 : act.memWf) :
    (s.decideOn k checks act).memWf := by
  unfold State.decideOn
  split
  · exact reply_memWf _ _ _ hs
  · exact hs1

theorem done_memWf {k : Pkt} {res : List Word} (hs : s.memWf) : (s.done k res).memWf := reply_memWf _ _ _ hs

theorem execUndefinedCommand_nextWf (hs : s.memWf) : NextWf (execUndefinedCommand s) := by
  refine nextWf ?_
  split
  · exact hs
  · exact ite_memWf hs (decideOn_memWf (front_memWf hs ‹_›) (reply_memWf _ _ _ (front_memWf hs ‹_›)))

theorem execReplyRingWrite_nextWf {hp fn : Nat} (hs : s.memWf) : NextWf (execReplyRingWrite hp fn s) := by
  unfold execReplyRingWrite
  refine nextWf ?_
  extract_lets f
  split
  · exact hs
  · extract_lets s1 s2 s3
    have h2 : s2.memWf := modHport_memWf (modFn_memWf (hostWr_memWf _ _ hs))
    have h3 : s3.memWf := ite_memWf (irq_memWf h2) h2
    exact ite_memWf hs (ite_memWf (modCmd_memWf rfl h3) h3)

theorem cmdWrite_memWf {hp fn : Nat} {f : Fn → Fn} (hs : s.memWf) : (s.cmdWrite hp fn f).memWf := ite_memWf (modFn_memWf hs) hs

theorem cmdReg_memWf {hp fn o : Nat} {v : DWord} (hs : s.memWf) : (s.cmdReg hp fn o v).memWf := by
  unfold State.cmdReg
  dsimp only
  split
  · exact ite_memWf (modFn_memWf hs) hs
  · exact modFn_memWf hs
  · exact modFn_memWf hs
  · exact modFn_memWf hs
  · exact modFn_memWf hs
  · exact modFn_memWf hs
  · exact ite_memWf (modFn_memWf hs) (regViol_memWf hs)
  · exact modFn_memWf hs
  · exact modFn_memWf hs
  · exact ite_memWf (modFn_memWf hs) hs
  · exact ite_memWf (modFn_memWf hs) hs
  · exact ite_memWf (modFn_memWf hs) hs
  · exact ite_memWf (regViol_memWf hs) (ite_memWf (modCmd_memWf rfl hs) hs)
  · exact ite_memWf (regViol_memWf hs) (ite_memWf (modCmd_memWf rfl hs) hs)
  · exact hs

theorem execRegisterWrite_nextWf {acc : Accessor} {addr : Nat} {v : BitVec 64} (hs : s.memWf) :
    NextWf (execRegisterWrite acc addr v s) := by
  refine nextWf ?_
  refine ite_memWf hs ?_
  refine ite_memWf (ite_memWf (regionWr_memWf hs) hs) ?_
  split
  · refine ite_memWf hs ?_
    split
    · exact cmdReg_memWf hs
    · exact regionWr_memWf hs
  · exact hs

theorem hostMiss_memWf {x : HostAt} (hs : s.memWf) : (s.hostMiss x).memWf := by
  unfold State.hostMiss
  split
  · exact devCount_memWf hs
  · exact modCmd_memWf rfl hs
  · exact hs

theorem apWr_memWf {hp fn a : Nat} {bs : List Byte} (hs : s.memWf) : (s.apWr hp fn a bs).memWf := by
  unfold State.apWr
  split
  · exact svcPut_memWf hs
  · exact svcJoin_memWf hs
  · exact regionWr_memWf hs
  · exact hostMiss_memWf hs

theorem apRd_memWf {hp fn a n : Nat} (hs : s.memWf) : (s.apRd hp fn a n).2.memWf := by
  unfold State.apRd
  split
  · exact blockRead_memWf hs
  · exact blockRead_memWf hs
  · exact regionRd_memWf hs
  · exact hostMiss_memWf hs

theorem execHostApertureAccess_nextWf {hp fn off size : Nat} {wr : Option (List (BitVec 8))} (hs : s.memWf) :
    NextWf (execHostApertureAccess hp fn off size wr s) := by
  unfold execHostApertureAccess
  refine nextWf (ite_memWf hs ?_)
  dsimp only
  split
  · exact ite_memWf hs (foldl_memWf (fun _ _ => apWr_memWf) hs)
  · refine ite_memWf (readReply_memWf hs) (readReply_memWf (foldl_snd_memWf (fun _ _ hu => ?_) hs))
    exact apRd_memWf hu

/-! #### PlanCmds -/

theorem startDma_memWf {d : Dma} (hs : s.memWf) : (s.startDma d).memWf := modCmd_memWf rfl hs

theorem dmaIn_memWf {p : Nat} {d : Dma} {i : Nat} (hs : s.memWf) : (s.dmaIn p d i).memWf := by
  unfold State.dmaIn
  dsimp only
  split
  · exact svcPut_memWf hs
  · exact svcJoin_memWf hs
  · exact svcMiss_memWf hs

theorem dmaOut_memWf {p : Nat} {d : Dma} {i : Nat} (hs : s.memWf) : (s.dmaOut p d i).1.memWf := by
  unfold State.dmaOut
  dsimp only
  split
  · exact hostWr_memWf _ _ (snd_memWf (svcRead_memWf hs) ‹_›)
  · exact snd_memWf (svcRead_memWf hs) ‹_›

theorem dmaOutAll_memWf {p : Nat} {d : Dma} (hs : s.memWf) : (s.dmaOutAll p d).1.memWf := by
  refine foldl_fst_memWf (fun _ _ hu => ?_) hs
  split
  · exact hu
  · exact dmaOut_memWf hu

theorem dmaCorrected_memWf {d : Dma} {n : Nat} (hs : s.memWf) : (s.dmaCorrected d n).memWf := foldl_memWf (fun _ _ => countCe_memWf) hs

theorem execDmaCopyDone_nextWf {hp : Nat} {ecc : EccEvent} (hs : s.memWf) : NextWf (execDmaCopyDone hp ecc s) := by
  unfold execDmaCopyDone
  refine nextWf ?_
  split
  · exact hs
  · extract_lets s1 out
    have h1 : s1.memWf := modCmd_memWf rfl hs
    have hout : ∀ {u : State}, u.memWf → (out u).memWf := by
      intro u hu
      unfold out
      split
      · exact reply_memWf _ _ _ (fst_memWf (dmaOutAll_memWf hu) ‹_›)
      · exact reply_memWf _ _ _ (fst_memWf (dmaOutAll_memWf hu) ‹_›)
    refine ite_memWf (reply_memWf _ _ _ (foldl_memWf (fun _ _ => dmaIn_memWf) h1)) ?_
    split
    · exact reply_memWf _ _ _ (svcBad_memWf (markBad_memWf h1))
    · exact hout (dmaCorrected_memWf h1)
    · exact hout h1

theorem tilesOff_memWf {p : Nat} (hs : s.memWf) : (s.tilesOff p).memWf := foldl_memWf (fun _ _ => modTile_memWf) hs

theorem discardPlan_memWf {p : Nat} (hs : s.memWf) : (s.discardPlan p).memWf := tdSettle_memWf (tilesOff_memWf (modPart_memWf hs))

theorem beginLoad_memWf {k : Pkt} (hs : s.memWf) : (s.beginLoad k).memWf := by
  unfold State.beginLoad
  split
  · exact reply_memWf _ _ _ hs
  · exact modCmd_memWf rfl (discardPlan_memWf hs)

theorem preload_memWf {e : TileEnt} (hs : s.memWf) : (s.preload e).memWf := modTile_memWf hs

theorem finishLoad_memWf {x : Loading} (hs : s.memWf) : (s.finishLoad x).memWf :=
  modPart_memWf (foldl_memWf (fun _ _ => preload_memWf) (tagsGood_memWf
    (foldl_memWf (fun _ _ => modTile_memWf) (foldl_memWf (fun _ _ hu => wrW_memWf _ _ hu)
      (foldl_memWf (fun _ _ hu => wrW_memWf _ _ hu) (foldl_memWf (fun _ _ hu => wr_memWf _ _ hu) hs))))))

theorem execPlanLoadDone_nextWf {p : Nat} (hs : s.memWf) : NextWf (execPlanLoadDone p s) := by
  refine nextWf ?_
  split
  · exact hs
  · exact reply_memWf _ _ _ (finishLoad_memWf (modCmd_memWf rfl hs))

theorem execLaunchCancel_nextWf (hs : s.memWf) : NextWf (execLaunchCancel s) := by
  refine nextWf ?_
  refine takeOpc_memWf hs (fun _ _ hu => ?_)
  refine decideOn_memWf hu ?_
  split
  · exact done_memWf (modPart_memWf hu)
  · exact reply_memWf _ _ _ hu

theorem execResumeRestart_nextWf {p : Nat} (hs : s.memWf) : NextWf (execResumeRestart p s) := by
  unfold execResumeRestart
  dsimp only
  refine nextWf ?_
  split
  · exact hs
  · exact ite_memWf hs (reply_memWf _ _ _ (foldl_memWf (fun _ _ => modPort_memWf) (setPart_memWf hs)))

theorem beginReset_memWf {k : Pkt} (hs : s.memWf) : (s.beginReset k).memWf := by
  unfold State.beginReset
  dsimp only
  exact modCmd_memWf rfl (ite_memWf hs (modFlt_memWf (ite_memWf (raise_memWf hs) hs)))

theorem recordsReset_memWf {p : Nat} (hs : s.memWf) : (s.recordsReset p).memWf := hs

theorem endCommands_memWf {p : Nat} (hs : s.memWf) : (s.endCommands p).memWf :=
  foldl_memWf (fun _ _ hu => reply_memWf _ _ _ hu) (modCmd_memWf rfl hs)

theorem removeWork_memWf {p : Nat} (hs : s.memWf) : (s.removeWork p).memWf := by
  unfold State.removeWork
  dsimp only
  refine tdSettle_memWf ?_
  refine modPart_memWf ?_
  refine modFab_memWf ?_
  refine foldl_memWf (fun _ _ => modStack_memWf) ?_
  refine foldl_memWf (fun _ _ => modPort_memWf) ?_
  refine tagsGood_memWf ?_
  refine foldl_memWf (fun _ _ => modTile_memWf) ?_
  refine recordsReset_memWf ?_
  refine endCommands_memWf ?_
  refine foldl_memWf (fun _ _ hu => ite_memWf hu (dropIntake_memWf hu)) ?_
  refine failSwap_memWf ?_
  split
  · exact foldl_memWf (fun _ _ => freeRequest_memWf) hs
  · exact hs

theorem execContextResetDone_nextWf {p : Nat} (hs : s.memWf) : NextWf (execContextResetDone p s) := by
  unfold execContextResetDone
  dsimp only
  exact nextWf (ite_memWf hs (foldl_memWf (fun _ _ hu => reply_memWf _ _ _ hu)
    (modCmd_memWf rfl (removeWork_memWf (ite_memWf (collectHang_memWf hs) hs)))))

theorem startWait_memWf {h : HostWait} (hs : s.memWf) : (s.startWait h).memWf := by
  unfold State.startWait
  dsimp only
  exact ite_memWf (reply_memWf _ _ _ hs) (modCmd_memWf rfl hs)

theorem execHostSyncWaitTimeout_nextWf {i : Nat} (hs : s.memWf) : NextWf (execHostSyncWaitTimeout i s) := by
  refine nextWf ?_
  split
  · exact hs
  · exact ite_memWf (reply_memWf _ _ _ (modCmd_memWf rfl hs)) hs

theorem doSyncOp_memWf {k : Pkt} (hs : s.memWf) : (s.doSyncOp k).memWf := by
  unfold State.doSyncOp
  dsimp only
  exact ite_memWf (reply_memWf _ _ _ (syncGate_memWf hs)) (done_memWf (syncDo_memWf (syncGate_memWf hs)))

/-! #### ServCmds -/

theorem queueRecord_memWf {k : Pkt} (hs : s.memWf) : (s.queueRecord k).memWf := by
  unfold State.queueRecord
  dsimp only
  exact done_memWf (writeMirror_memWf (modServ_memWf (ite_memWf (setLslot_memWf (setResDig_memWf (setRecord_memWf hs)))
    (setResDig_memWf (setRecord_memWf hs)))))

theorem startSwap_memWf {k : Pkt} (hs : s.memWf) : (s.startSwap k).memWf := swapOrder_memWf (modWts_memWf hs)

/-! #### Binding -/

theorem startClear_memWf {kind i : Nat} (hs : s.memWf) : (s.startClear kind i).memWf := setBind_memWf hs

theorem beginBind_memWf {k : Pkt} (hs : s.memWf) : (s.beginBind k).memWf := modCmd_memWf rfl (foldl_memWf (fun _ _ => startClear_memWf) hs)

theorem clearUnit_memWf {kind i : Nat} (hs : s.memWf) : (s.clearUnit kind i).memWf := by
  unfold State.clearUnit
  split
  · exact tagsGood_memWf (modTile_memWf (clearMem_memWf _ _ hs))
  · exact clearMem_memWf _ _ hs
  · obtain ⟨hm, hv, hh⟩ := (memWf_iff _).1 (clearMem_memWf (cellarAddr (i * 2 ^ 34)) (2 ^ 34) hs)
    exact (memWf_iff _).2 ⟨hm, SMap.wf_clear _ _ hv, hh⟩
  · exact modPort_memWf hs
  · exact memWf_congr rfl rfl rfl hs
  · exact memWf_congr rfl rfl rfl hs

theorem finishUnit_memWf {b : Binding} {x : Nat × Nat} (hs : s.memWf) : (s.finishUnit b x).memWf := setBind_memWf (clearUnit_memWf hs)

theorem execBindClearDone_nextWf (hs : s.memWf) : NextWf (execBindClearDone s) := by
  refine nextWf ?_
  split
  · exact hs
  · exact reply_memWf _ _ _ (foldl_memWf (fun _ _ => finishUnit_memWf) (modCmd_memWf rfl hs))

/-! #### Security -/

theorem setChal_memWf {level p : Nat} {c : Option (BitVec 256)} (hs : s.memWf) : (s.setChal level p c).memWf :=
  ite_memWf (modHrt_memWf hs) (modPart_memWf hs)

theorem setDebug_memWf {level p : Nat} {on : Bool} (hs : s.memWf) : (s.setDebug level p on).memWf :=
  ite_memWf (modHrt_memWf hs) (modPart_memWf hs)

theorem execDbgUnlock_nextWf (hs : s.memWf) : NextWf (execDbgUnlock s) := by
  unfold execDbgUnlock
  dsimp only
  exact nextWf (takeOpc_memWf hs (fun _ _ hu => decideOn_memWf hu
    (ite_memWf (reply_memWf _ _ _ (setChal_memWf hu)) (done_memWf (setDebug_memWf (setChal_memWf hu))))))

theorem endUnlocks_memWf (hs : s.memWf) : s.endUnlocks.memWf := memWf_congr rfl rfl rfl hs

theorem execFwUpdate_nextWf (hs : s.memWf) : NextWf (execFwUpdate s) := by
  unfold execFwUpdate
  dsimp only
  exact nextWf (takeOpc_memWf hs (fun _ _ hu => decideOn_memWf hu (ite_memWf (reply_memWf _ _ _ hu) (modHrt_memWf (modCmd_memWf rfl hu)))))

theorem execFwFlashWriteDone_nextWf {ok : Bool} (hs : s.memWf) : NextWf (execFwFlashWriteDone ok s) := by
  unfold execFwFlashWriteDone
  dsimp only
  refine nextWf ?_
  split
  · exact hs
  · exact ite_memWf (reply_memWf _ _ _ (modHrt_memWf (modCmd_memWf rfl hs))) (reply_memWf _ _ _ (modCmd_memWf rfl hs))

theorem execLcAdvance_nextWf (hs : s.memWf) : NextWf (execLcAdvance s) := by
  unfold execLcAdvance
  dsimp only
  exact nextWf (takeOpc_memWf hs (fun _ _ hu => decideOn_memWf hu
    (ite_memWf (reply_memWf _ _ _ (ite_memWf (setChal_memWf hu) hu))
      (ite_memWf (reply_memWf _ _ _ (ite_memWf (setChal_memWf hu) hu)) (done_memWf (modHrt_memWf (ite_memWf (setChal_memWf hu) hu)))))))

theorem enterP3_memWf (hs : s.memWf) : (s.enterP3).memWf :=
  endUnlocks_memWf (modMnt_memWf (foldl_memWf (fun _ _ => enterDown_memWf) (foldl_memWf (fun _ _ => modTile_memWf) hs)))

theorem leaveP3_memWf (hs : s.memWf) : (s.leaveP3).memWf := tdSettle_memWf (modMnt_memWf (foldl_memWf (fun _ _ => enterTrain_memWf) hs))

theorem enterP4_memWf (hs : s.memWf) : (s.enterP4).memWf := endUnlocks_memWf (modPwr_memWf hs)

theorem powerTo_memWf {st : Nat} (hs : s.memWf) : (s.powerTo st).memWf := by
  unfold State.powerTo
  dsimp only
  exact ite_memWf hs (ite_memWf (enterP3_memWf (modPwr_memWf hs))
    (ite_memWf (enterP4_memWf (modPwr_memWf hs)) (ite_memWf (leaveP3_memWf (modPwr_memWf hs)) (modPwr_memWf hs))))

/-! #### RecovCmds -/

theorem execHangGet_nextWf (hs : s.memWf) : NextWf (execHangGet s) := by
  refine nextWf ?_
  refine takeOpc_memWf hs (fun _ _ hu => ?_)
  refine decideOn_memWf hu ?_
  split
  · exact done_memWf (hostWr_memWf _ _ hu)
  · exact reply_memWf _ _ _ hu

theorem testOutcome_memWf {kind i : Nat} {pass : Bool} (hs : s.memWf) : (s.testOutcome kind i pass).memWf := by
  unfold State.testOutcome
  dsimp only
  split
  · exact ite_memWf (writeEvent_memWf hs) (repair_memWf (writeEvent_memWf hs))
  · exact writeEvent_memWf hs

theorem shadowAsk_memWf {p w : Nat} {r : CmdRef} (hs : s.memWf) : (s.shadowAsk p w r).memWf := shadowSend_memWf (modSh_memWf hs)

theorem promoteAsk_memWf {p k : Nat} {r : CmdRef} (hs : s.memWf) : (s.promoteAsk p k r).memWf := shadowSend_memWf (modSh_memWf hs)

theorem shadowEnd_memWf {p : Nat} (hs : s.memWf) : (s.shadowEnd p).memWf := by
  unfold State.shadowEnd
  dsimp only
  refine ite_memWf hs ?_
  refine modSh_memWf ?_
  refine shadowSend_memWf ?_
  split
  · exact reply_memWf _ _ _ hs
  · exact hs

end Sys2Proof
end

section
namespace Sys2Proof

open Machine

/-! ### Canonical memory: bring-up, the sideband and the tick -/

variable {s : State}

/-! #### Bringup -/

theorem hostPortReset_memWf {hp : Nat} {perst : Bool} (hs : s.memWf) : (s.hostPortReset hp perst).memWf :=
  modHport_memWf (memWf_congr rfl rfl rfl hs)

theorem afterReset_memWf {mem refs : Bool} {w : Pwr} (hs : s.memWf) : (s.afterReset mem refs w).memWf := by
  obtain ⟨hm, hv, hh⟩ := (memWf_iff s).1 hs
  refine (memWf_iff _).2 ⟨?_, ?_, hh⟩
  · show SMap.wf memDefault (if mem && decide (s.hrt.pend ≠ 3) then s.mem else []) = true
    split
    · exact hm
    · rfl
  · show SMap.wf false (if mem && decide (s.hrt.pend ≠ 3) then s.valid else []) = true
    split
    · exact hv
    · rfl

theorem execPwrOkDeassert_nextWf (hs : s.memWf) : NextWf (execPwrOkDeassert s) := by
  unfold execPwrOkDeassert
  dsimp only
  exact nextWf (ite_memWf hs (ite_memWf (modPwr_memWf hs) (afterReset_memWf hs)))

theorem execRailFault_nextWf {rail : Nat} (hs : s.memWf) : NextWf (execRailFault rail s) := by
  unfold execRailFault
  dsimp only
  exact nextWf (ite_memWf hs (afterReset_memWf hs))

theorem execThermalTrip_nextWf {src stk : Nat} (hs : s.memWf) : NextWf (execThermalTrip src stk s) := by
  unfold execThermalTrip
  dsimp only
  exact nextWf (ite_memWf hs (afterReset_memWf hs))

theorem warmReset_memWf {rst : Word} (hs : s.memWf) : (s.warmReset rst).memWf := afterReset_memWf hs

theorem execRecoveryRomReset_nextWf (hs : s.memWf) : NextWf (execRecoveryRomReset s) := by
  refine nextWf ?_
  split
  · exact ite_memWf (warmReset_memWf hs) hs
  · exact hs

theorem stageHearth_memWf {r : StageResult} (hs : s.memWf) : (s.stageHearth r).memWf :=
  ite_memWf (modPwr_memWf (modHrt_memWf hs)) (modPwr_memWf (modHrt_memWf hs))

theorem stageLinks_memWf {r : StageResult} (hs : s.memWf) : (s.stageLinks r).memWf := modPwr_memWf (modHport_memWf (modHport_memWf hs))

theorem stageMarl_memWf {r : StageResult} (hs : s.memWf) : (s.stageMarl r).memWf :=
  modPwr_memWf (foldl_memWf (fun _ _ => retire_memWf) (foldl_memWf (fun _ _ => retire_memWf) hs))

theorem stageDoors_memWf {r : StageResult} (hs : s.memWf) : (s.stageDoors r).memWf :=
  modPwr_memWf (idWrite_memWf (modHrt_memWf (foldl_memWf (fun _ _ => retire_memWf) hs)))

theorem stageMantel_memWf (hs : s.memWf) : (s.stageMantel).memWf := modPwr_memWf (modMnt_memWf (foldl_memWf (fun _ _ => modRoom_memWf) hs))

theorem fullEnd_memWf (hs : s.memWf) : (s.fullEnd).memWf := by
  unfold State.fullEnd
  dsimp only
  exact foldl_memWf (fun _ _ hu => ite_memWf (enterTrain_memWf (enterDown_memWf hu)) hu) (modPwr_memWf hs)

theorem toStage_memWf {n : Nat} (hs : s.memWf) : (s.toStage n).memWf := modPwr_memWf hs

theorem stageEnd_memWf {r : StageResult} (hs : s.memWf) : (s.stageEnd r).memWf := by
  unfold State.stageEnd
  split
  · exact toStage_memWf hs
  · exact toStage_memWf hs
  · exact stageHearth_memWf hs
  · exact toStage_memWf hs
  · exact stageLinks_memWf hs
  · exact toStage_memWf (stageMarl_memWf hs)
  · exact modPwr_memWf (stageDoors_memWf hs)
  · exact stageMantel_memWf hs
  · exact ite_memWf (toStage_memWf hs) hs
  · exact ite_memWf (toStage_memWf hs) hs
  · exact hs

theorem execBringupStageDone_nextWf {r : StageResult} (hs : s.memWf) : NextWf (execBringupStageDone r s) := by
  refine nextWf ?_
  refine ite_memWf hs ?_
  split
  · exact modPwr_memWf (stageMarl_memWf hs)
  · exact fullEnd_memWf (stageDoors_memWf hs)
  · exact stageEnd_memWf hs

theorem execTelemetryUpdate_nextWf {core porchA porchB : Nat} {stkTemps : List Nat} {avg1ms avg1s : Nat} (hs : s.memWf) :
    NextWf (execTelemetryUpdate core porchA porchB stkTemps avg1ms avg1s s) := by
  unfold execTelemetryUpdate
  dsimp only
  refine nextWf ?_
  refine ite_memWf hs ?_
  refine modPwr_memWf ?_
  refine foldl_memWf (fun _ _ hu => ?_) hs
  split
  · exact modStack_memWf hu
  · exact hu

/-! #### Sideband -/

theorem sbReply_memWf {ws : List DWord} (hs : s.memWf) : (s.sbReply ws).memWf := modCmd_memWf rfl hs

theorem execSbTelemetry_nextWf (hs : s.memWf) : NextWf (execSbTelemetry s) := by
  unfold execSbTelemetry
  dsimp only
  exact nextWf (ite_memWf hs (sbReply_memWf hs))

theorem sbRead_memWf {addr : Nat} (hs : s.memWf) : (s.sbRead addr).memWf := by
  unfold State.sbRead
  dsimp only
  split
  · exact sbReply_memWf (regionRd_memWf hs)
  · exact sbReply_memWf hs

theorem execSbRegisterWrite_nextWf {addr : Nat} {v : BitVec 64} (hs : s.memWf) : NextWf (execSbRegisterWrite addr v s) := by
  refine nextWf ?_
  refine ite_memWf hs ?_
  refine sbRead_memWf ?_
  split
  · exact regionWr_memWf hs
  · exact hs

theorem execSbBudget_nextWf {avg peak : Nat} (hs : s.memWf) : NextWf (execSbBudget avg peak s) := by
  unfold execSbBudget
  dsimp only
  exact nextWf (ite_memWf hs (sbReply_memWf (setBudget_memWf hs)))

theorem execSbFaultSummary_nextWf {p : Nat} (hs : s.memWf) : NextWf (execSbFaultSummary p s) := by
  unfold execSbFaultSummary
  dsimp only
  exact nextWf (ite_memWf hs (sbReply_memWf hs))

theorem execSbPowerState_nextWf {st : Nat} (hs : s.memWf) : NextWf (execSbPowerState st s) := by
  unfold execSbPowerState
  dsimp only
  exact nextWf (ite_memWf hs (sbReply_memWf (ite_memWf (powerTo_memWf hs) hs)))

theorem sbReset_memWf (hs : s.memWf) : (s.sbReset).memWf := warmReset_memWf hs

/-! #### Tick -/

theorem roomsTick_memWf (hs : s.memWf) : (s.roomsTick).memWf := ite_memWf hs (foldl_memWf (fun _ _ => modRoom_memWf) hs)

theorem backTick_memWf (hs : s.memWf) : (s.backTick).memWf := foldl_memWf (fun _ _ hu => ite_memWf hu (marlBack_memWf hu)) hs

theorem landTick_memWf (hs : s.memWf) : (s.landTick).memWf := foldl_memWf (fun _ _ hu => ite_memWf hu (landUpTo_memWf hu)) hs

theorem govern_memWf {p : Nat} (hs : s.memWf) : (s.govern p).memWf := by
  unfold State.govern
  dsimp only
  refine ite_memWf hs ?_
  split
  · exact modPart_memWf hs
  · exact ite_memWf (raisePower_memWf (modPart_memWf hs)) (modPart_memWf hs)

theorem meter_memWf (hs : s.memWf) : (s.meter).memWf := modPwr_memWf hs

theorem vestTick_memWf (hs : s.memWf) : (s.vestTick).memWf := ite_memWf (fabCount_memWf hs) hs

theorem holdTick_memWf (hs : s.memWf) : (s.holdTick).memWf := by
  unfold State.holdTick
  dsimp only
  exact ite_memWf (mntCount_memWf hs) hs

theorem servTick_memWf {p : Nat} (hs : s.memWf) : (s.servTick p).memWf := ite_memWf (pagTick_memWf (modServ_memWf hs)) hs

theorem refTick_memWf (hs : s.memWf) : (s.refTick).memWf := by
  unfold State.refTick
  dsimp only
  exact ite_memWf hs (modPwr_memWf hs)

theorem partTick_memWf {p : Nat} (hs : s.memWf) : (s.partTick p).memWf := rafterAct_memWf (servTick_memWf (pinnedStart_memWf hs))

theorem tickEnd_memWf (hs : s.memWf) : (s.tickEnd).memWf := meter_memWf (foldl_memWf (fun _ _ => govern_memWf) hs)

theorem tick_memWf (hs : s.memWf) : (s.tick).memWf := by
  unfold State.tick
  dsimp only
  exact ite_memWf (modMnt_memWf hs) (holdTick_memWf (vestTick_memWf
    (foldl_memWf (fun _ _ => partTick_memWf) (landTick_memWf
      (backTick_memWf (refTick_memWf (roomsTick_memWf (modMnt_memWf (tickEnd_memWf hs)))))))))

end Sys2Proof
end

section
namespace Sys2Proof

open Machine

/-! ### Canonical memory: every row, and a step -/

/-- Every row of the table keeps the canonical form. -/
theorem exec_nextWf {s : State} (c : Instr) (hs : s.memWf) : NextWf (exec c s) := by
  cases c with
  | shaleWordDecode _ => exact nextWf (ite_memWf (tileBeat_memWf hs) hs)
  | operationComplete _ _ => exact execOperationComplete_nextWf hs
  | snop _ => exact nextWf (issue_memWf hs (fun _ _ hu => pureAct_keeps hu))
  | li _ => exact nextWf (issue_memWf hs (fun _ _ hu => pureAct_keeps hu))
  | lih _ => exact nextWf (issue_memWf hs (fun _ _ hu => pureAct_keeps hu))
  | add _ => exact nextWf (scOp_memWf hs)
  | sub _ => exact nextWf (scOp_memWf hs)
  | and _ => exact nextWf (scOp_memWf hs)
  | or _ => exact nextWf (scOp_memWf hs)
  | xor _ => exact nextWf (scOp_memWf hs)
  | shl _ => exact nextWf (scOp_memWf hs)
  | shr _ => exact nextWf (scOp_memWf hs)
  | sar _ => exact nextWf (scOp_memWf hs)
  | mul _ => exact nextWf (scOp_memWf hs)
  | setp _ => exact nextWf (issue_memWf hs (fun _ _ hu => pureAct_keeps hu))
  | plog _ => exact nextWf (issue_memWf hs (fun _ _ hu => pureAct_keeps hu))
  | loop _ => exact nextWf (tcOp_memWf hs)
  | cnti _ => exact nextWf (tcOp_memWf hs)
  | cmpc _ => exact nextWf (tcOp_memWf hs)
  | vadd _ => exact nextWf (veBin_memWf hs)
  | vsub _ => exact nextWf (veBin_memWf hs)
  | vmul _ => exact nextWf (veBin_memWf hs)
  | vfma _ => exact nextWf (issue_memWf hs (fun _ _ hu => pureAct_keeps hu))
  | vmax _ => exact nextWf (veBin_memWf hs)
  | vmin _ => exact nextWf (veBin_memWf hs)
  | vscl _ => exact nextWf (issue_memWf hs (fun _ _ hu => pureAct_keeps hu))
  | vfn _ => exact nextWf (issue_memWf hs (fun _ _ hu => pureAct_keeps hu))
  | vred _ => exact nextWf (issue_memWf hs (fun _ _ hu => pureAct_keeps hu))
  | vcvt _ => exact nextWf (issue_memWf hs (fun _ _ hu => pureAct_keeps hu))
  | vslb _ => exact nextWf (issue_memWf hs (fun _ _ hu => pureAct_keeps hu))
  | vsld _ => exact execVsld_nextWf hs
  | vsclr _ => exact execVsclr_nextWf hs
  | mxr _ => exact execMxr_nextWf hs
  | warm _ => exact nextWf (issue_memWf hs (fun _ _ hu => tileCount_memWf (mxActive_memWf hu)))
  | mxcfg _ => exact execMxcfg_nextWf hs
  | ldl _ => exact nextWf (issue_memWf hs (fun _ _ hu => ite_keeps hu (Act.loftBusy_keeps (loftLoad_keeps hu))))
  | ldg _ => exact execLdg_nextWf hs
  | ldm _ => exact execLdm_nextWf hs
  | lds _ => exact nextWf (issue_memWf hs (fun _ _ hu => ite_keeps hu (Act.loftBusy_keeps (loftLoad_keeps hu))))
  | fetch _ => exact execFetch_nextWf hs
  | stl _ => exact execStl_nextWf hs
  | sta _ => exact execSta_nextWf hs
  | stn _ => exact execStn_nextWf hs
  | std _ => exact execStd_nextWf hs
  | stm _ => exact execStm_nextWf hs
  | sts _ => exact execSts_nextWf hs
  | sadd _ => exact nextWf (syUpdate_memWf hs)
  | sset _ => exact nextWf (syUpdate_memWf hs)
  | scas _ => exact nextWf (syUpdate_memWf hs)
  | swge _ => exact nextWf (syWait_memWf hs)
  | sweq _ => exact nextWf (syWait_memWf hs)
  | rbar _ => exact execRbar_nextWf hs
  | rwait _ => exact execRwait_nextWf hs
  | mbar _ => exact execMbar_nextWf hs
  | engineCold _ => exact execEngineCold_nextWf hs
  | insertedRampEnd _ => exact execInsertedRampEnd_nextWf hs
  | icacheMissFill _ => exact execIcacheMissFill_nextWf hs
  | monitorNotify _ => exact execMonitorNotify_nextWf hs
  | syncPollRead _ => exact execSyncPollRead_nextWf hs
  | rafterRelease _ => exact execRafterRelease_nextWf hs
  | maskBarrierRelease _ _ => exact execMaskBarrierRelease_nextWf hs
  | courseStart _ => exact execCourseStart_nextWf hs
  | katSegment _ _ => exact execKatSegment_nextWf hs
  | planCompletion _ => exact execPlanCompletion_nextWf hs
  | droopDetect _ _ => exact execDroopDetect_nextWf hs
  | stretchEcho _ => exact execStretchEcho_nextWf hs
  | alarmArrival _ => exact nextWf (ite_memWf (stretch_memWf (modRoom_memWf hs)) hs)
  | stepdownEnd _ => exact execStepdownEnd_nextWf hs
  | sbnRestart _ => exact execSbnRestart_nextWf hs
  | doorwayWordWrite _ _ => exact execDoorwayWordWrite_nextWf hs
  | onDieLandingWrite _ => exact execOnDieLandingWrite_nextWf hs
  | departureSend _ => exact execDepartureSend_nextWf hs
  | landingPacket _ => exact execLandingPacket_nextWf hs
  | hazardLandingRelease _ => exact execHazardLandingRelease_nextWf hs
  | planPacketForward _ => exact execPlanPacketForward_nextWf hs
  | servicePacketEgress _ => exact execServicePacketEgress_nextWf hs
  | servicePacketForward _ _ => exact execServicePacketForward_nextWf hs
  | writePacket _ _ => exact nextWf (takePacket_memWf hs)
  | readPacket _ _ => exact nextWf (takePacket_memWf hs)
  | readRspPacket _ _ => exact nextWf (takePacket_memWf hs)
  | writeCplPacket _ _ => exact nextWf (takePacket_memWf hs)
  | errCplPacket _ _ => exact nextWf (takePacket_memWf hs)
  | saddPacket _ _ => exact nextWf (takePacket_memWf hs)
  | ssetPacket _ _ => exact nextWf (takePacket_memWf hs)
  | scasPacket _ _ => exact nextWf (takePacket_memWf hs)
  | msgPacket _ _ => exact nextWf (takePacket_memWf hs)
  | nullPacket _ _ => exact nextWf (takePacket_memWf hs)
  | vestibuleTimeout _ => exact execVestibuleTimeout_nextWf hs
  | linkGroupReceive _ _ _ => exact execLinkGroupReceive_nextWf hs
  | controlFlitReceive _ => exact execControlFlitReceive_nextWf hs
  | timeRequestReceive _ _ => exact execTimeRequestReceive_nextWf hs
  | timeReplyReceive _ t1 _ => exact execTimeReplyReceive_nextWf (t1 := t1) hs
  | timeExchangeTimer _ => exact execTimeExchangeTimer_nextWf hs
  | launchArmReceive _ => exact execLaunchArmReceive_nextWf hs
  | launchAckReceive _ => exact execLaunchAckReceive_nextWf hs
  | launchConfirmReceive _ => exact execLaunchConfirmReceive_nextWf hs
  | launchConfirmDeadline _ => exact execLaunchConfirmDeadline_nextWf hs
  | launchCutoff _ => exact execLaunchCutoff_nextWf hs
  | launchFire _ => exact execLaunchFire_nextWf hs
  | retrainRequestReceive _ => exact execRetrainRequestReceive_nextWf hs
  | replayPositionSend _ => exact execReplayPositionSend_nextWf hs
  | serviceReplayTimeout _ => exact execServiceReplayTimeout_nextWf hs
  | planReplayTimeout _ => exact execPlanReplayTimeout_nextWf hs
  | creditTimeout _ _ => exact execCreditTimeout_nextWf hs
  | fecLockLost _ => exact nextWf (enterRetrain_memWf hs)
  | trainingComplete _ _ _ => exact execTrainingComplete_nextWf hs
  | trainingTimeout _ => exact execTrainingTimeout_nextWf hs
  | retrainComplete _ _ => exact execRetrainComplete_nextWf hs
  | retrainAttemptTimeout _ => exact execRetrainAttemptTimeout_nextWf hs
  | autoTrainTick _ => exact execAutoTrainTick_nextWf hs
  | peerTrainingDetect _ => exact nextWf (enterTrain_memWf hs)
  | marlPositionTransfer _ _ _ _ => exact execMarlPositionTransfer_nextWf hs
  | marlBlockResend _ _ _ _ => exact execMarlBlockResend_nextWf hs
  | marlRefreshWindow _ _ _ => exact execMarlRefreshWindow_nextWf hs
  | stackTempChange _ _ => exact nextWf (modStack_memWf hs)
  | patrolScrub _ _ _ => exact execPatrolScrub_nextWf hs
  | loftEccWriteback _ => exact execLoftEccWriteback_nextWf hs
  | loftServiceWrite _ => exact execLoftServiceWrite_nextWf hs
  | cellarRefresh _ => exact nextWf (ite_memWf hs hs)
  | sweepStart _ => exact execSweepStart_nextWf hs
  | sweepComplete _ => exact execSweepComplete_nextWf hs
  | sweepDeadline _ => exact execSweepDeadline_nextWf hs
  | stepCommit _ => exact execStepCommit_nextWf hs
  | stepCompose _ => exact execStepCompose_nextWf hs
  | manifestRead _ => exact execManifestRead_nextWf hs
  | pantryAllocExtend _ => exact execPantryAllocExtend_nextWf hs
  | pantryPromote _ => exact execPantryPromote_nextWf hs
  | pantryOrderReceive _ => exact execPantryOrderReceive_nextWf hs
  | pantryConfirmReceive _ => exact execPantryConfirmReceive_nextWf hs
  | outputRingCopy _ _ => exact execOutputRingCopy_nextWf hs
  | wdDescriptorArrival _ => exact execWdDescriptorArrival_nextWf hs
  | wdStreamForward _ => exact execWdStreamForward_nextWf hs
  | wdPieceConvert _ => exact execWdPieceConvert_nextWf hs
  | wdReportReceive _ => exact execWdReportReceive_nextWf hs
  | wdDtmoTimeout _ => exact execWdDtmoTimeout_nextWf hs
  | wdHeadTimeout _ => exact execWdHeadTimeout_nextWf hs
  | wswapOrderReceive _ => exact execWswapOrderReceive_nextWf hs
  | wswapConfirmReceive _ => exact execWswapConfirmReceive_nextWf hs
  | weightRewriteStart _ _ => exact execWeightRewriteStart_nextWf hs
  | rowCopyDone _ _ _ _ => exact execRowCopyDone_nextWf hs
  | layerDigestClose _ => exact execLayerDigestClose_nextWf hs
  | twinRecordReceive _ => exact execTwinRecordReceive_nextWf hs
  | faultNoticeReceive _ => exact execFaultNoticeReceive_nextWf hs
  | haltReportSend _ => exact execHaltReportSend_nextWf hs
  | haltReportReceive _ => exact execHaltReportReceive_nextWf hs
  | tileDrainEnd _ => exact execTileDrainEnd_nextWf hs
  | hangRecordCollect _ => exact nextWf (collectHang_memWf hs)
  | selfTestRun _ _ _ => exact execSelfTestRun_nextWf hs
  | shadowDigestReceive _ => exact execShadowDigestReceive_nextWf hs
  | shadowPromoteRequestReceive _ => exact execShadowPromoteRequestReceive_nextWf hs
  | shadowAckReceive _ => exact execShadowAckReceive_nextWf hs
  | shadowRoleSwitch _ => exact execShadowRoleSwitch_nextWf hs
  | routeActivate => exact execRouteActivate_nextWf hs
  | routeRetire => exact nextWf (ite_memWf (modFab_memWf hs) hs)
  | refclkWindowEnd _ _ => exact execRefclkWindowEnd_nextWf hs
  | refclkMissingEdges _ => exact nextWf (ite_memWf hs (refBad_memWf hs))
  | refRevertTimeout => exact execRefRevertTimeout_nextWf hs
  | parentSilenceTimeout => exact execParentSilenceTimeout_nextWf hs
  | holdoverLimit => exact execHoldoverLimit_nextWf hs
  | resumeRestart _ => exact execResumeRestart_nextWf hs
  | hostSyncWaitTimeout _ => exact execHostSyncWaitTimeout_nextWf hs
  | replyRingWrite _ _ => exact execReplyRingWrite_nextWf hs
  | dmaCopyDone _ _ => exact execDmaCopyDone_nextWf hs
  | bindClearDone => exact execBindClearDone_nextWf hs
  | fwFlashWriteDone _ => exact execFwFlashWriteDone_nextWf hs
  | recoveryRomReset => exact execRecoveryRomReset_nextWf hs
  | powerGood => exact nextWf (ite_memWf hs (modPwr_memWf hs))
  | bringupStageDone _ => exact execBringupStageDone_nextWf hs
  | perstDeassert _ _ => exact nextWf (ite_memWf hs (modHport_memWf hs))
  | pwrOkDeassert => exact execPwrOkDeassert_nextWf hs
  | railFault _ => exact execRailFault_nextWf hs
  | thermalTrip _ _ => exact execThermalTrip_nextWf hs
  | offRequestTimeout => exact nextWf (ite_memWf (modPwr_memWf hs) hs)
  | commandSlotWrite _ _ _ _ => exact execCommandSlotWrite_nextWf hs
  | undefinedCommand => exact execUndefinedCommand_nextWf hs
  | nop => exact nextWf (takeOpc_memWf hs (fun _ _ hu => decideOn_memWf hu (done_memWf hu)))
  | dmaCopy => exact nextWf (takeOpc_memWf hs (fun _ _ hu => decideOn_memWf hu (startDma_memWf hu)))
  | planLoad => exact nextWf (takeOpc_memWf hs (fun _ _ hu => decideOn_memWf hu (beginLoad_memWf hu)))
  | planUnload => exact nextWf (takeOpc_memWf hs (fun _ _ hu => decideOn_memWf hu (done_memWf (discardPlan_memWf hu))))
  | launch => exact nextWf (takeOpc_memWf hs (fun _ _ hu => decideOn_memWf hu (takeArm_memWf hu)))
  | launchCancel => exact execLaunchCancel_nextWf hs
  | pause => exact nextWf (takeOpc_memWf hs (fun _ _ hu => decideOn_memWf hu (modPart_memWf hu)))
  | resume => exact nextWf (takeOpc_memWf hs (fun _ _ hu => decideOn_memWf hu (modPart_memWf hu)))
  | ctxReset => exact nextWf (takeOpc_memWf hs (fun _ _ hu => decideOn_memWf hu (beginReset_memWf hu)))
  | syncWait => exact nextWf (takeOpc_memWf hs (fun _ _ hu => decideOn_memWf hu (startWait_memWf hu)))
  | syncOp => exact nextWf (takeOpc_memWf hs (fun _ _ hu => decideOn_memWf hu (ite_memWf hs (doSyncOp_memWf hu))))
  | srvSubmit => exact nextWf (takeOpc_memWf hs (fun _ _ hu => decideOn_memWf hu
    (ite_memWf (reply_memWf _ _ _ (servCount_memWf hu)) (queueRecord_memWf hu))))
  | srvCancel => exact nextWf (takeOpc_memWf hs (fun _ _ hu => decideOn_memWf hu (done_memWf (modServ_memWf hu))))
  | srvRelease => exact nextWf (takeOpc_memWf hs (fun _ _ hu => decideOn_memWf hu (done_memWf (setRecord_memWf hu))))
  | ldrLoad => exact nextWf (takeOpc_memWf hs (fun _ _ hu => decideOn_memWf hu (done_memWf (setLslot_memWf hu))))
  | ldrRetire => exact nextWf (takeOpc_memWf hs (fun _ _ hu => decideOn_memWf hu (done_memWf (setLslot_memWf hu))))
  | wdist => exact nextWf (takeOpc_memWf hs (fun _ _ hu => decideOn_memWf hu (headDist_memWf hu)))
  | wswap => exact nextWf (takeOpc_memWf hs (fun _ _ hu => decideOn_memWf hu (ite_memWf (reply_memWf _ _ _ hu) (startSwap_memWf hu))))
  | dbgPhys => exact nextWf (takeOpc_memWf hs (fun _ _ hu => decideOn_memWf hu (done_memWf hu)))
  | bind => exact nextWf (takeOpc_memWf hs (fun _ _ hu => decideOn_memWf hu (beginBind_memWf hu)))
  | pkeySet => exact nextWf (takeOpc_memWf hs (fun _ _ hu => decideOn_memWf hu (done_memWf (modPart_memWf hu))))
  | attest => exact nextWf (takeOpc_memWf hs (fun _ _ hu => decideOn_memWf hu (done_memWf (hostWr_memWf _ _ hu))))
  | certGet => exact nextWf (takeOpc_memWf hs (fun _ _ hu => decideOn_memWf hu (done_memWf (hostWr_memWf _ _ hu))))
  | dbgChal => exact nextWf (takeOpc_memWf hs (fun _ _ hu => decideOn_memWf hu (done_memWf (setChal_memWf hu))))
  | dbgUnlock => exact execDbgUnlock_nextWf hs
  | dbgLock => exact nextWf (takeOpc_memWf hs (fun _ _ hu => decideOn_memWf hu (done_memWf (setDebug_memWf hu))))
  | fwUpdate => exact execFwUpdate_nextWf hs
  | lcAdvance => exact execLcAdvance_nextWf hs
  | pwrSet => exact nextWf (takeOpc_memWf hs (fun _ _ hu => decideOn_memWf hu (done_memWf (powerTo_memWf hu))))
  | svnCommit => exact nextWf (takeOpc_memWf hs (fun _ _ hu => decideOn_memWf hu (done_memWf (modHrt_memWf hu))))
  | hangGet => exact execHangGet_nextWf hs
  | selftest _ => exact nextWf (takeOpc_memWf hs (fun _ _ hu => decideOn_memWf hu (done_memWf (testOutcome_memWf hu))))
  | retireGet => exact nextWf (takeOpc_memWf hs (fun _ _ hu => decideOn_memWf hu (done_memWf (hostWr_memWf _ _ hu))))
  | shadowStart => exact nextWf (takeOpc_memWf hs (fun _ _ hu => decideOn_memWf hu (shadowAsk_memWf hu)))
  | shadowPromote => exact nextWf (takeOpc_memWf hs (fun _ _ hu => decideOn_memWf hu (promoteAsk_memWf hu)))
  | shadowStop => exact nextWf (takeOpc_memWf hs (fun _ _ hu => decideOn_memWf hu (done_memWf (shadowEnd_memWf hu))))
  | sbStatus => exact nextWf (ite_memWf hs (sbReply_memWf hs))
  | sbTelemetry => exact execSbTelemetry_nextWf hs
  | sbRegisterRead _ => exact nextWf (ite_memWf hs (sbRead_memWf hs))
  | sbRegisterWrite _ _ => exact execSbRegisterWrite_nextWf hs
  | sbBudget _ _ => exact execSbBudget_nextWf hs
  | sbFaultSummary _ => exact execSbFaultSummary_nextWf hs
  | sbFaultRecord _ _ => exact nextWf (ite_memWf hs (sbReply_memWf hs))
  | sbPowerState _ => exact execSbPowerState_nextWf hs
  | sbDeviceReset => exact nextWf (ite_memWf hs (sbReset_memWf (sbReply_memWf hs)))
  | hostApertureAccess _ _ _ _ _ => exact execHostApertureAccess_nextWf hs
  | pwrBudgetWrite _ _ => exact execPwrBudgetWrite_nextWf hs
  | tilHzdCtlWrite _ _ => exact execTilHzdCtlWrite_nextWf hs
  | fabGenArm _ _ => exact execFabGenArm_nextWf hs
  | fabDevidWrite _ _ => exact execFabDevidWrite_nextWf hs
  | mntWcCommit _ _ => exact execMntWcCommit_nextWf hs
  | mntTdCtlWrite _ _ => exact execMntTdCtlWrite_nextWf hs
  | lnkCtlTrain _ _ _ => exact nextWf (ite_memWf (portWrite_memWf hs (fun _ => lnkCtl_memWf)) hs)
  | lnkCtlRetrain _ _ _ => exact nextWf (ite_memWf (portWrite_memWf hs (fun _ => lnkCtl_memWf)) hs)
  | lnkCtlForcedn _ _ _ => exact nextWf (ite_memWf (portWrite_memWf hs (fun _ => lnkCtl_memWf)) hs)
  | lnkCtlEnWrite _ _ _ => exact nextWf (portWrite_memWf hs (fun _ => lnkCtl_memWf))
  | fabFenceEfence _ _ _ => exact nextWf (ite_memWf hs (devWrite_memWf hs (fun _ hu => ite_memWf (fence_memWf hu) hu)))
  | fabFenceLfence _ _ _ => exact nextWf (ite_memWf hs (devWrite_memWf hs (fun _ hu => ite_memWf (fence_memWf hu) hu)))
  | mntLtCfgWrite _ _ _ => exact execMntLtCfgWrite_nextWf hs
  | srvTwinWrite _ _ _ _ => exact execSrvTwinWrite_nextWf hs
  | servingConfigWrite _ _ _ _ => exact execServingConfigWrite_nextWf hs
  | srvStepBaseWrite _ _ _ => exact execSrvStepBaseWrite_nextWf hs
  | srvWswapStatClear _ _ _ => exact execSrvWswapStatClear_nextWf hs
  | cmdRringCfgWrite _ _ _ => exact nextWf (cmdWrite_memWf hs)
  | cmdRringRpWrite _ _ _ => exact nextWf (cmdWrite_memWf hs)
  | cmdApBaseWrite _ _ _ => exact nextWf (cmdWrite_memWf hs)
  | pwrBrgCtlFullreq _ => exact nextWf (devWrite_memWf hs (fun _ => fullReq_memWf))
  | pwrPresentWrite _ _ => exact nextWf (devWrite_memWf hs (fun _ => modHrt_memWf))
  | registerWrite _ _ _ => exact execRegisterWrite_nextWf hs
  | controlPositionSend _ => exact execControlPositionSend_nextWf hs
  | planLoadDone _ => exact execPlanLoadDone_nextWf hs
  | contextResetDone _ => exact execContextResetDone_nextWf hs
  | perstAssert _ => exact nextWf (ite_memWf hs (hostPortReset_memWf hs))
  | vddAuxPowerOnReset => exact nextWf (afterReset_memWf hs)
  | mntCountLowRead _ => exact nextWf (ite_memWf hs (readReply_memWf (modMnt_memWf hs)))
  | telemetryUpdate _ _ _ _ _ _ => exact execTelemetryUpdate_nextWf hs

/-- Settles O60: every row and the tick keep the canonical form. -/
theorem memoryStaysCanonical : Obligations.MemoryStaysCanonical := by
  intro s t hs h
  cases hp : s.pending with
  | nil =>
    rw [step_nil hp] at h
    cases h
    exact tick_memWf hs
  | cons c r =>
    obtain ⟨u, hu, hw⟩ := exec_nextWf (s := { s with pending := r }) c hs
    rw [step_cons hp, hu] at h
    cases h
    exact hw

end Sys2Proof
end

section
namespace Sys2Proof

open Machine

/-! ### A stack's channels, and the blocks on their way from it (R171 to R180) -/

@[simp] theorem chan_modChan_self (s : State) (k ch : Nat) (f : Chan → Chan) :
    ((s.modChan k ch f).stack k).chan ch = f ((s.stack k).chan ch) := by
  simp [State.modChan, Stack.chan, Stack.setChan]

@[simp] theorem back_modChan_self (s : State) (k ch : Nat) (f : Chan → Chan) : ((s.modChan k ch f).stack k).back = (s.stack k).back := by
  simp [State.modChan, Stack.setChan]

theorem chan_congr {v w : Stack} (h : v.chans = w.chans) (ch : Nat) : v.chan ch = w.chan ch := by
  unfold Stack.chan
  rw [h]

/-- A state differs from another in its stacks alone, and stack `k` has the same channels and the same blocks on their way. -/
structure LinkKept (k : Nat) (s u : State) : Prop where
  stks : u = { s with stks := u.stks }
  chans : (u.stack k).chans = (s.stack k).chans
  back : (u.stack k).back = (s.stack k).back

theorem LinkKept.refl (k : Nat) (s : State) : LinkKept k s s := ⟨rfl, rfl, rfl⟩

theorem LinkKept.trans {k : Nat} {s u v : State} (h : LinkKept k s u) (h' : LinkKept k u v) : LinkKept k s v :=
  ⟨h'.stks.trans (by rw [h.stks]), h'.chans.trans h.chans, h'.back.trans h.back⟩

theorem modStack_linkKept {k : Nat} (s : State) (j : Nat) {f : Stack → Stack} (hc : ∀ v, (f v).chans = v.chans)
    (hb : ∀ v, (f v).back = v.back) : LinkKept k s (s.modStack j f) := by
  by_cases h : k = j
  · subst h
    exact ⟨rfl, by simp [hc], by simp [hb]⟩
  · exact ⟨rfl, by rw [State.stack_modStack_ne _ _ h], by rw [State.stack_modStack_ne _ _ h]⟩

theorem stackCount_linkKept {k : Nat} (s : State) (j : Nat) (c : StackCtr) (n : Nat) : LinkKept k s (s.stackCount j c n) :=
  modStack_linkKept s j (fun _ => rfl) (fun _ => rfl)

theorem lateBlk_linkKept {k : Nat} (s : State) (b : Blk) (f? : Option Flight) : LinkKept k s (s.lateBlk b f?) := by
  unfold State.lateBlk
  split
  · exact stackCount_linkKept ..
  · exact .refl k s

theorem blkMeter_linkKept {k : Nat} (s : State) (stk ch : Nat) (b : Blk) : LinkKept k s (s.blkMeter stk ch b) := by
  have hs : LinkKept k s (s.sweepBlk stk (dieOf (b.addr % stackSize)) ch b.op.isPlan) :=
    modStack_linkKept s stk (fun _ => rfl) (fun _ => rfl)
  unfold State.blkMeter
  dsimp only
  split
  · exact hs.trans (modStack_linkKept _ stk (fun _ => rfl) (fun _ => rfl))
  · exact hs

theorem askTest_dev (s : State) (kind idx : Nat) : ∃ d, s.askTest kind idx = { s with dev := d } := by
  unfold State.askTest
  split
  · exact ⟨_, rfl⟩
  · exact ⟨_, rfl⟩

theorem memSoft_nil {s : State} {a n : Nat} (h : s.softIn a n = []) : s.memSoft a n = s := by
  unfold State.memSoft
  rw [h]
  rfl

end Sys2Proof
end

section
namespace Sys2Proof

open Machine

/-! ### MarlChannels (O28): a read block reaches the operation that reads it (R172, R176, R178, R179) -/

/-- The 256 bytes of a read block are on their way to its tile, or have reached the operation in flight that reads them: what
`Obligations.MarlChannels` says of a block that has crossed. -/
def BlkSent (k : Nat) (s u : State) (b : Blk) (off : Nat) : Prop :=
  let r := Config.retTime s.reduced b.tile k
  u.mem = s.mem ∧ u.parts = s.parts ∧
  (r = 0 → (u.stack k).back = [] ∧ (u.tile b.tile).fly = (s.tile b.tile).fly.map fun f =>
    if f.id = b.fly then { f with need := f.need - 1, eff := f.eff ++ [.opnd off (s.rd b.addr 256)] } else f) ∧
  (0 < r → (u.stack k).back = [{ tick := s.now + r, blk := b, data := s.rd b.addr 256 }] ∧ u.tiles = s.tiles)

/-- What a block sends does not depend on the stacks' own state. -/
theorem BlkSent.of_stks {k off : Nat} {s s1 u : State} {b : Blk} (h1 : s1 = { s with stks := s1.stks }) (h : BlkSent k s1 u b off) :
    BlkSent k s u b off := by
  rw [h1] at h
  exact h

theorem marlBack_due {s : State} {k : Nat} {x : BackBlk} (hx : (s.stack k).back = [x]) (ht : x.tick ≤ s.now) :
    s.marlBack k = (s.modStack k fun v => { v with back := [] }).blkArrive x := by
  simp [State.marlBack, hx, ht]

theorem marlBack_later {s : State} {k : Nat} {x : BackBlk} (hx : (s.stack k).back = [x]) (ht : ¬ x.tick ≤ s.now) :
    s.marlBack k = s.modStack k fun v => { v with back := [x] } := by
  simp [State.marlBack, hx, ht]

/-- A read block on its way from the stack: it carries the 256 bytes of its address, and is due after the published return time. -/
def backOf (s : State) (b : Blk) : BackBlk :=
  { tick := s.now + Config.retTime s.reduced b.tile (b.addr / stackSize), blk := b, data := s.rd b.addr 256 }

theorem blkDone_rdOpnd {s : State} {b : Blk} {off : Nat} (hop : b.op = .rdOpnd off) :
    s.blkDone b = (s.modStack (b.addr / stackSize) fun v => { v with back := v.back ++ [backOf s b] }).marlBack (b.addr / stackSize) := by
  simp [State.blkDone, State.blkStack, State.blkData, BlkOp.isWrite, backOf, hop]

theorem blkArrive_rdOpnd {s : State} {x : BackBlk} {off : Nat} (hop : x.blk.op = .rdOpnd off) :
    s.blkArrive x = s.blkCrossed x.blk (some (.opnd off x.data)) := by
  simp [State.blkArrive, hop]

/-- A block that has crossed: the operation that it serves waits for one block less, and will have what it carries. -/
def Machine.Flight.crossed (b : Blk) (e : Option Effect) (f : Flight) : Flight :=
  if f.id = b.fly then { f with need := f.need - 1, eff := f.eff ++ e.toList } else f

theorem blkCrossed_eq (k : Nat) (s : State) (b : Blk) (e : Option Effect) :
    ∃ u, LinkKept k s u ∧ s.blkCrossed b e = u.modTile b.tile fun v => { v with fly := v.fly.map (Machine.Flight.crossed b e) } :=
  ⟨_, lateBlk_linkKept .., rfl⟩

/-- A block that passed its checks: its bytes set out, and arrive at once where the return time is 0. -/
theorem blkDone_sent {s : State} {b : Blk} {k off : Nat} (hop : b.op = .rdOpnd off) (hk : b.addr / stackSize = k)
    (hback : (s.stack k).back = []) : BlkSent k s (s.blkDone b) b off ∧ ((s.blkDone b).stack k).chans = (s.stack k).chans := by
  subst hk
  rw [blkDone_rdOpnd hop]
  generalize hs1 : (s.modStack (b.addr / stackSize) fun v => { v with back := v.back ++ [backOf s b] }) = s1
  have h1 : s1 = { s with stks := s1.stks } := by rw [← hs1]; rfl
  have hx : (s1.stack (b.addr / stackSize)).back = [backOf s b] := by simp [← hs1, hback]
  have hc : (s1.stack (b.addr / stackSize)).chans = (s.stack (b.addr / stackSize)).chans := by simp [← hs1]
  have hnow : s1.now = s.now := by rw [h1]; rfl
  by_cases hr : Config.retTime s.reduced b.tile (b.addr / stackSize) = 0
  · rw [marlBack_due hx (by simp [backOf, hr, hnow]), blkArrive_rdOpnd hop]
    obtain ⟨u, ⟨hu, huc, hub⟩, he⟩ := blkCrossed_eq (b.addr / stackSize)
      (s1.modStack (b.addr / stackSize) fun v => { v with back := [] }) b (some (.opnd off (s.rd b.addr 256)))
    have hs : u = { s with stks := u.stks } := by rw [hu, h1]; rfl
    change BlkSent _ s (State.blkCrossed _ b (some (.opnd off (s.rd b.addr 256)))) b off ∧
      ((State.blkCrossed _ b (some (.opnd off (s.rd b.addr 256)))).stack _).chans = _
    rw [he]
    refine ⟨⟨by rw [hs]; rfl, by rw [hs]; rfl, fun _ => ⟨?_, ?_⟩, fun h => absurd hr (by omega)⟩, ?_⟩
    · simpa using hub
    · rw [State.tile_modTile_self, show u.tile b.tile = s.tile b.tile by rw [hs]; rfl]
      rfl
    · simpa [hc] using huc
  · rw [marlBack_later hx (by simp only [backOf, hnow]; omega)]
    refine ⟨⟨by rw [h1]; rfl, by rw [h1]; rfl, fun h => absurd h hr, fun _ => ⟨?_, by rw [h1]; rfl⟩⟩, ?_⟩
    · simp [backOf]
    · simp [hc]

/-- A read block of a stack, in memory that no mark of an error touches, where nothing else is on its way from the stack. -/
def BlkClean (k : Nat) (s : State) (b : Blk) : Prop :=
  b.addr / stackSize = k ∧ s.badIn b.addr 256 = none ∧ s.softIn b.addr 256 = [] ∧ (s.stack k).back = []

theorem blkChecked_clean {s : State} {b : Blk} {off : Nat} (hop : b.op = .rdOpnd off) (hbad : s.badIn b.addr 256 = none)
    (hsoft : s.softIn b.addr 256 = []) : s.blkChecked b .clean = s.blkDone b := by
  simp [State.blkChecked, Blk.eccRange, hop, hbad, memSoft_nil hsoft]

/-- A crossing that passes its checks, from a state that a position has changed in its stacks alone. -/
theorem blkMeter_blkChecked_sent {s s1 : State} {b : Blk} {k off ch : Nat} (h1 : s1 = { s with stks := s1.stks }) (hop : b.op = .rdOpnd off)
    (hb : BlkClean k s b) (hback : (s1.stack k).back = (s.stack k).back) :
    BlkSent k s ((s1.blkMeter k ch b).blkChecked b .clean) b off ∧
      (((s1.blkMeter k ch b).blkChecked b .clean).stack k).chans = (s1.stack k).chans := by
  obtain ⟨hk, hbad, hsoft, hempty⟩ := hb
  have hm : LinkKept k s1 (s1.blkMeter k ch b) := blkMeter_linkKept ..
  generalize s1.blkMeter k ch b = s2 at hm ⊢
  have h2 : s2 = { s with stks := s2.stks } := by rw [hm.stks, h1]
  have hbad2 : s2.badIn b.addr 256 = none := by rw [h2]; exact hbad
  have hsoft2 : s2.softIn b.addr 256 = [] := by rw [h2]; exact hsoft
  obtain ⟨hsent, hchans⟩ := blkDone_sent hop hk (hm.back.trans (hback.trans hempty))
  rw [blkChecked_clean hop hbad2 hsoft2]
  exact ⟨hsent.of_stks h2, hchans.trans hm.chans⟩

section
variable {s : State} {stk ch : Nat} {b : Blk} {r : List Blk}

/-- A channel whose position in progress takes a plan block: the blocks that stay, and one displaced block less in the spare position. -/
def Machine.Chan.takePlan (x : Chan) (pos : Nat) (r : List Blk) : Chan :=
  { x with plan := r, pos := pos + 1, disp := if r.isEmpty then 0 else if pos % 47 = 46 then x.disp - 1 else x.disp }

/-- MARL_POSITION_TRANSFER in an ordinary position that is free takes the oldest plan block, once its request has reached the channel. -/
theorem marlPositionTransfer_plan {crcOk : Bool} {ecc : EccEvent} (hplan : ((s.stack stk).chan ch).plan = b :: r)
    (hagain : ((s.stack stk).chan ch).again = []) (hpos : ((s.stack stk).chan ch).pos ≤ s.posNow) (hwin : inWindow s.frameNow ch = false)
    (hord : s.posNow % 47 < 45) (hrdy : b.rdy ≤ s.now) :
    exec (.marlPositionTransfer stk ch crcOk ecc) s =
      .next ((s.modChan stk ch fun x => x.takePlan s.posNow r).blkFirst stk ch b crcOk ecc) := by
  have hnext : s.planNext ((s.stack stk).chan ch) ch = some (b, r) := by
    simp [State.planNext, hwin, hplan, takeFirst, hrdy, show s.posNow % 47 ≠ 45 by omega, show s.posNow % 47 ≠ 46 by omega]
  simp [exec, execMarlPositionTransfer, hagain, Chan.refreshes, hwin, hnext, Nat.not_lt.mpr hpos, Machine.Chan.takePlan]

/-- A plan block that passes its checks is sent. -/
theorem blkFirst_sent {off : Nat} (hop : b.op = .rdOpnd off) (hb : BlkClean stk s b) (f : Chan → Chan) :
    BlkSent stk s ((s.modChan stk ch f).blkFirst stk ch b true .clean) b off ∧
      (((s.modChan stk ch f).blkFirst stk ch b true .clean).stack stk).chan ch = f ((s.stack stk).chan ch) := by
  obtain ⟨hsent, hchans⟩ := blkMeter_blkChecked_sent (s1 := s.modChan stk ch f) (ch := ch) rfl hop hb (by simp)
  exact ⟨hsent, (chan_congr hchans ch).trans (by simp)⟩

/-- A plan block that fails its CRC is discarded whole, and waits for its re-send (R178, R179). -/
theorem blkFirst_crcFail (f : Chan → Chan) (ecc : EccEvent) :
    let u := (s.modChan stk ch f).blkFirst stk ch b false ecc
    let c := f ((s.stack stk).chan ch)
    (u.stack stk).chan ch = { c with again := c.again ++ [(b, s.posNow)] } ∧
      u.tiles = s.tiles ∧ u.mem = s.mem ∧ u.parts = s.parts := by
  have hm : LinkKept stk (s.modChan stk ch f) ((s.modChan stk ch f).blkMeter stk ch b) := blkMeter_linkKept ..
  intro u c
  unfold u State.blkFirst State.crcFail
  dsimp only
  generalize (s.modChan stk ch f).blkMeter stk ch b = s2 at hm ⊢
  have h3 := hm.trans (stackCount_linkKept s2 stk (if b.op.isWrite then .crcWr else .crcRd) 1)
  generalize s2.stackCount stk (if b.op.isWrite then .crcWr else .crcRd) 1 = s3 at h3 ⊢
  obtain ⟨d, hd⟩ := askTest_dev s3 2 (16 * stk + ch)
  have hchan : (s3.stack stk).chan ch = c := (chan_congr h3.chans ch).trans (chan_modChan_self ..)
  simp only [Bool.false_eq_true, if_false, hd]
  refine ⟨(chan_modChan_self ..).trans ?_, ?_, ?_, ?_⟩
  · exact congrArg (fun x : Chan => { x with again := x.again ++ [(b, s.posNow)] }) hchan
  · rw [h3.stks]; rfl
  · rw [h3.stks]; rfl
  · rw [h3.stks]; rfl

/-- A channel whose position in progress takes the re-send of the block that failed first. -/
def Machine.Chan.takeAgain (x : Chan) (pos : Nat) (r : List (Blk × Nat)) : Chan :=
  { x with again := r, pos := pos + 1, disp := if x.plan.isEmpty ∨ 45 ≤ pos % 47 then x.disp else x.disp + 1 }

/-- MARL_BLOCK_RESEND from 6 t after the failed position on. -/
theorem marlBlockResend_due {fp : Nat} {r : List (Blk × Nat)} {ecc : EccEvent} (hagain : ((s.stack stk).chan ch).again = (b, fp) :: r)
    (hdue : s.frame * fp + s.frame + 282 ≤ s.frame * s.posNow) (hpos : ((s.stack stk).chan ch).pos ≤ s.posNow) :
    exec (.marlBlockResend stk ch true ecc) s =
      .next (((s.modChan stk ch fun x => x.takeAgain s.posNow r).blkMeter stk ch b).blkChecked b ecc) := by
  simp [exec, execMarlBlockResend, hagain, State.resendDue, hdue, Nat.not_lt.mpr hpos, Machine.Chan.takeAgain]

/-- MARL_REFRESH_WINDOW in a window that its channel has not begun, on a hot stack: the doubled rate is in force, and refreshes. -/
theorem marlRefreshWindow_hot {pass : Bool} (hwin : inWindow s.frameNow ch = true)
    (hnew : ((s.stack stk).chan ch).win ≠ windowOf s.frameNow ch + 1) (hhot : (s.stack stk).hot = true) :
    ∃ f : Option Sweep → Option Sweep, exec (.marlRefreshWindow stk ch pass) s =
      .next ((s.modChan stk ch fun x => { x with win := windowOf s.frameNow ch + 1, hot := true }).modStack stk fun v =>
        { v with sweep := f v.sweep }) := by
  refine ⟨Option.map fun x => { x with refr := bump 32 (2 * s.frame) x.refr ch }, ?_⟩
  simp [exec, execMarlRefreshWindow, hwin, hnew, hhot]
end

/-- Settles O28: what a position changes before its block crosses, and what the crossing counts, is in the stacks alone. -/
theorem marlChannels : Obligations.MarlChannels := by
  intro s stk ch c pos clean crossed
  refine ⟨?transfer, ?resend, ?refresh, ?temperature⟩
  case transfer =>
    intro b r off hplan hagain hpos hwin hord hop hrdy
    refine ⟨fun hclean => ?_, ?_⟩
    · obtain ⟨hsent, hchan⟩ := blkFirst_sent (ch := ch) hop hclean fun x => x.takePlan s.posNow r
      exact ⟨_, marlPositionTransfer_plan hplan hagain hpos hwin hord hrdy, by rw [hchan]; rfl, by rw [hchan]; rfl, hsent⟩
    · obtain ⟨hchan, hkept⟩ := blkFirst_crcFail (s := s) (stk := stk) (ch := ch) (b := b) (fun x => x.takePlan s.posNow r) .clean
      refine ⟨_, marlPositionTransfer_plan hplan hagain hpos hwin hord hrdy, by rw [hchan]; rfl, ?_, hkept⟩
      rw [hchan]
      exact congrArg (· ++ [(b, pos)]) hagain
  case resend =>
    intro b fp off r hagain hdue hpos hop hclean
    obtain ⟨hsent, hchans⟩ := blkMeter_blkChecked_sent (s1 := s.modChan stk ch fun x => x.takeAgain s.posNow r) (ch := ch)
      rfl hop hclean (by simp)
    have hchan := (chan_congr hchans ch).trans (chan_modChan_self ..)
    exact ⟨_, marlBlockResend_due hagain hdue hpos, by rw [hchan]; rfl, by rw [hchan]; rfl, hsent⟩
  case refresh =>
    intro hwin hnew hhot
    obtain ⟨f, he⟩ := marlRefreshWindow_hot (pass := true) hwin hnew hhot
    have hchan : ∀ g : Chan → Chan,
        (((s.modChan stk ch g).modStack stk fun v => { v with sweep := f v.sweep }).stack stk).chan ch = g c :=
      fun g => (chan_congr (by rw [State.stack_modStack_self]) ch).trans (chan_modChan_self ..)
    exact ⟨_, he, by rw [hchan], by rw [hchan], by rw [hchan], rfl, rfl⟩
  case temperature =>
    intro temp
    exact ⟨_, rfl, by simp, by simp, by simp, fun j hj => State.stack_modStack_ne _ _ hj, rfl⟩

end Sys2Proof
end

section
namespace Sys2Proof

open Machine

/-! ### MemoryPatrol (O29): a stack beyond the Marl range of Table 6.1 -/

/-- A device whose identity names nine stacks, of which the ninth is trained: the Marl range of Table 6.1 places eight. -/
def nineStacks : State :=
  { State.reset with
    hrt := { Hearth.reset with id := { Ident.reset with stks := List.range 9 } }
    pwr := { Pwr.reset with trained := [8] } }

/-- The count of corrected errors of the ninth stack after a patrol has corrected its first sector. -/
theorem nineStacks_ce : (nextOf (exec (.patrolScrub 8 0 (.corrected 1)) nineStacks)).map
    (fun u => SMap.get 0 (u.stack 8).ctr StackCtr.ce.idx) = some 0 := by decide +kernel

/-- Refutes O29: `stackUp` bounds a stack's index by the stacks that the identity names, which the statement does not bound by the eight
of Table 6.1. The first sector of a ninth stack lies past the Marl range, in no region, and its corrected read is counted nowhere. -/
theorem not_memoryPatrol : ¬ Obligations.MemoryPatrol := by
  intro h
  obtain ⟨-, hcorrected, -, -⟩ := h nineStacks 8 0 0 (by decide) (by decide)
  obtain ⟨u, hu, -, hcount, -⟩ := hcorrected 1 (by decide) (by decide)
  have hafter := nineStacks_ce
  rw [hu] at hafter
  have hzero : SMap.get 0 (u.stack 8).ctr StackCtr.ce.idx = 0 := Option.some.inj hafter
  have hbefore : SMap.get 0 (nineStacks.stack 8).ctr StackCtr.ce.idx = 0 := by decide
  dsimp only at hcount
  rw [hzero, hbefore] at hcount
  exact absurd hcount (by decide)

end Sys2Proof
end

section
namespace Sys2Proof

open Machine

/-! ### The sweeps that a fault stops (R501) -/

theorem stack_congr {s u : State} (h : u.stks = s.stks) (k : Nat) : u.stack k = s.stack k := by
  unfold State.stack
  rw [h]

theorem FabricOnly.stks {s u : State} (h : FabricOnly s u) : u.stks = s.stks := by
  unfold FabricOnly at h
  rw [h]

theorem reply_stks (s : State) (r : CmdRef) (st : Nat) (res : List Word) : (s.reply r st res).stks = s.stks := by
  rw [reply_cmd_only]

theorem writeRecord_stks (s : State) (p : Nat) (ws : List Word) : (s.writeRecord p ws).stks = s.stks := rfl

theorem failSwap_stks (s : State) (p : Nat) : (s.failSwap p).stks = s.stks := by
  unfold State.failSwap
  dsimp only
  split
  · split
    · exact reply_stks ..
    · rfl
  · rfl

theorem sendNotice_stks (s : State) (p lid cls origin tick : Nat) (from? : Option Nat) :
    (s.sendNotice p lid cls origin tick from?).stks = s.stks := by
  unfold State.sendNotice
  split
  · rfl
  · split
    · rfl
    · exact (foldl_frame _ (fun _ _ => sendMsg_frame ..) _ _).stks

/-- What the halt of partition `p` makes of a sweep. -/
def Machine.Sweep.haltedBy (p : Nat) (w : Sweep) : Sweep := if w.part = p then { w with stopped := true } else w

theorem haltedBy_haltedBy (p : Nat) (w : Sweep) : (w.haltedBy p).haltedBy p = w.haltedBy p := by
  by_cases h : w.part = p <;> simp [Machine.Sweep.haltedBy, h]

theorem haltedBy_of_stopped {p : Nat} {w : Sweep} (h : w.stopped = true) : w.haltedBy p = w := by
  unfold Machine.Sweep.haltedBy
  rw [← h]
  exact ite_self w

/-- A stack's sweep before and after something that may halt partition `p`. -/
def StopsAt (p k : Nat) (s u : State) : Prop :=
  (u.stack k).sweep = (s.stack k).sweep ∨ (u.stack k).sweep = (s.stack k).sweep.map (Machine.Sweep.haltedBy p)

theorem StopsAt.of_stks {p k : Nat} {s u : State} (h : u.stks = s.stks) : StopsAt p k s u := .inl (by rw [stack_congr h])

theorem StopsAt.trans {p k : Nat} {s u v : State} (h : StopsAt p k s u) (h' : StopsAt p k u v) : StopsAt p k s v := by
  unfold StopsAt at h h' ⊢
  obtain h' | h' := h' <;> obtain h | h := h <;> rw [h', h]
  · exact .inl rfl
  · exact .inr rfl
  · exact .inr rfl
  · right
    rw [Option.map_map]
    exact congrArg (Option.map · _) (funext (haltedBy_haltedBy p))

theorem StopsAt.of_modStack {p k : Nat} (s : State) (j : Nat) :
    StopsAt p k s (s.modStack j fun v => { v with sweep := v.sweep.map (Machine.Sweep.haltedBy p) }) := by
  by_cases h : k = j
  · subst h
    exact .inr (by rw [State.stack_modStack_self])
  · exact .inl (by rw [State.stack_modStack_ne _ _ h])

theorem StopsAt.of_foldl {α : Type} {p k : Nat} {f : State → α → State} (hf : ∀ u a, StopsAt p k u (f u a)) (l : List α) :
    ∀ s, StopsAt p k s (l.foldl f s) := by
  induction l with
  | nil => intro s; exact .of_stks rfl
  | cons a r ih => intro s; exact (hf s a).trans (ih _)

theorem haltPart_stopsAt (s : State) (p k : Nat) : StopsAt p k s (s.haltPart p) := by
  unfold State.haltPart
  dsimp only
  obtain ⟨m, htiles⟩ := foldl_modTile_frame (fun v => { v with wait := none, drained := false }) (s.tilesOf p) s
  rw [htiles]
  have hstacks : StopsAt p k { s with tiles := m } _ := .of_foldl (fun u j => .of_modStack u j) (List.range 8) _
  refine StopsAt.trans (.of_stks rfl) (hstacks.trans (.of_stks ?_))
  rw [State.modPart_stks, failSwap_stks]
  split
  · exact reply_stks ..
  · rfl

/-- A fault stops no sweep but those of its partition, and changes nothing else of a sweep. -/
theorem raise_stopsAt (s : State) (p k : Nat) (f : FInfo) : StopsAt p k s (s.raise p f) := by
  unfold State.raise
  dsimp only
  split
  · exact .of_stks (writeRecord_stks ..)
  · split
    · exact .of_stks (writeRecord_stks ..)
    · split
      · exact (StopsAt.trans (.of_stks (writeRecord_stks s p _)) (haltPart_stopsAt ..)).trans
          (.of_stks ((sendNotice_stks ..).trans (State.modPart_stks ..)))
      · split
        · exact .of_stks (writeRecord_stks ..)
        · exact .of_stks (by rw [State.modPart_stks, writeRecord_stks])

/-- A fault does not depend on the stacks' own state or on what free values have been drawn: what `raise_faulted` says of it holds of the
state before a change of these. -/
theorem raise_faulted_of_stks_free {s s1 : State} {p : Nat} (f : FInfo) (h1 : s1 = { s with stks := s1.stks, free := s1.free })
    (h : Healthy s p) : Faulted s (s1.raise p f) p f := by
  have hf : Faulted s1 (s1.raise p f) p f := raise_faulted f (by rw [h1]; exact h)
  generalize s1.raise p f = u at hf ⊢
  rw [h1] at hf
  exact hf

end Sys2Proof
end

section
namespace Sys2Proof

open Machine

/-! ### The records and counts of a sweep (R206, R221) -/

/-- A byte after some records have been written in order: that of the last record that covers it. -/
def byteAfter (recs : List (Nat × List Byte)) (x : Nat) (b : Byte) : Byte :=
  match recs.reverse.find? (fun e => decide (e.1 ≤ x ∧ x < e.1 + e.2.length)) with
  | some e => e.2.getD (x - e.1) 0
  | none => b

theorem byteAfter_cons (e : Nat × List Byte) (r : List (Nat × List Byte)) (x : Nat) (b : Byte) :
    byteAfter (e :: r) x b = byteAfter r x (if e.1 ≤ x ∧ x < e.1 + e.2.length then e.2.getD (x - e.1) 0 else b) := by
  unfold byteAfter
  rw [List.reverse_cons, List.find?_append]
  cases r.reverse.find? (fun e => decide (e.1 ≤ x ∧ x < e.1 + e.2.length)) with
  | some y => rfl
  | none => by_cases h : e.1 ≤ x ∧ x < e.1 + e.2.length <;> simp [h]

theorem foldl_wr_rdByte (recs : List (Nat × List Byte)) (x : Nat) : ∀ s : State,
    (recs.foldl (fun u e => u.wr e.1 e.2) s).rdByte x = byteAfter recs x (s.rdByte x) := by
  induction recs with
  | nil => intro s; rfl
  | cons e r ih => intro s; rw [List.foldl_cons, ih, wr_wrote, byteAfter_cons]

/-- Writes leave the stacks, the partitions and the ports as they were. -/
theorem foldl_wr_units (recs : List (Nat × List Byte)) : ∀ s : State, let u := recs.foldl (fun u e => u.wr e.1 e.2) s
    u.stks = s.stks ∧ u.parts = s.parts ∧ u.ports = s.ports := by
  induction recs with
  | nil => intro s; exact ⟨rfl, rfl, rfl⟩
  | cons e r ih =>
    intro s
    obtain ⟨hstks, hparts, hports⟩ := ih (s.wr e.1 e.2)
    have hwr := (wr_writeOnly s e.1 e.2).rest
    exact ⟨hstks.trans (by rw [hwr]), hparts.trans (by rw [hwr]), hports.trans (by rw [hwr])⟩

theorem finishSweep_rdByte (s : State) (k : Nat) (w : Sweep) (x : Nat) :
    (s.finishSweep k w).rdByte x = byteAfter w.recs x (s.rdByte x) :=
  foldl_wr_rdByte w.recs x s

theorem finishSweep_fin (s : State) (k : Nat) (w : Sweep) :
    ((s.finishSweep k w).stack k).sweep = some { w with fin := true, recs := [] } := by
  simp [State.finishSweep]

/-- Sweep `w` of stack `k` has been counted with its page pairs (R221); the partitions, the ports and the other stacks are as they were. -/
def SweepCounted (k : Nat) (s u : State) (w : Sweep) : Prop :=
  SMap.get 0 (u.stack k).ctr StackCtr.swpDone.idx = min (2 ^ 48 - 1) (SMap.get 0 (s.stack k).ctr StackCtr.swpDone.idx + 1) ∧
  SMap.get 0 (u.stack k).ctr StackCtr.swpPairs.idx = min (2 ^ 48 - 1) (SMap.get 0 (s.stack k).ctr StackCtr.swpPairs.idx + w.pairs) ∧
  u.parts = s.parts ∧ u.ports = s.ports ∧ ∀ j, j ≠ k → u.stack j = s.stack j

theorem get_count_self (v : Stack) (c : StackCtr) (n : Nat) :
    SMap.get 0 (v.count c n).ctr c.idx = min (2 ^ c.width - 1) (SMap.get 0 v.ctr c.idx + n) :=
  SMap.get_put_self ..

theorem get_count_ne (v : Stack) {c i : StackCtr} (n : Nat) (h : i.idx ≠ c.idx) :
    SMap.get 0 (v.count c n).ctr i.idx = SMap.get 0 v.ctr i.idx :=
  SMap.get_put_ne _ _ _ h

theorem finishSweep_counted (s : State) (k : Nat) (w : Sweep) : SweepCounted k s (s.finishSweep k w) w := by
  obtain ⟨hstks, hparts, hports⟩ := foldl_wr_units w.recs s
  unfold SweepCounted State.finishSweep
  dsimp only
  rw [State.stack_modStack_self, stack_congr hstks]
  refine ⟨?_, ?_, hparts, hports, fun j hj => ?_⟩
  · rw [SMap.get_put_ne _ _ _ (by decide), get_count_ne _ _ (by decide), get_count_ne _ _ (by decide), get_count_self]
    rfl
  · rw [SMap.get_put_ne _ _ _ (by decide), get_count_ne _ _ (by decide), get_count_self, get_count_ne _ _ (by decide)]
    rfl
  · rw [State.stack_modStack_ne _ _ hj, stack_congr hstks]

/-- Stack `k` has no sweep any more. -/
def Machine.State.closeSweep (s : State) (k : Nat) : State := s.modStack k fun v => { v with sweep := none }

theorem closeSweep_frame (s : State) (k : Nat) : s.closeSweep k = { s with stks := (s.closeSweep k).stks, free := (s.closeSweep k).free } := rfl

@[simp] theorem closeSweep_sweep (s : State) (k : Nat) : ((s.closeSweep k).stack k).sweep = none := by
  simp [State.closeSweep]

theorem SweepCounted.close {k : Nat} {s u : State} {w : Sweep} (h : SweepCounted k s u w) : SweepCounted k s (u.closeSweep k) w := by
  obtain ⟨hdone, hpairs, hparts, hports, hstacks⟩ := h
  unfold SweepCounted State.closeSweep
  rw [State.stack_modStack_self]
  exact ⟨hdone, hpairs, hparts, hports, fun j hj => (State.stack_modStack_ne _ _ hj).trans (hstacks j hj)⟩

end Sys2Proof
end

section
namespace Sys2Proof

open Machine

/-! ### Sweeps (O43): the start, the end and the deadline of a stack's sweep (R202, R205, R206, R213, R215, R217) -/

/-- The sweep that a start places: one that is over its budget, or of a partition that is held, has no record to write (R213). -/
def Machine.State.sweepBegun (s : State) (p : Nat) (w : SweepEnt) (ts : Nat) (off : Bool) : Sweep :=
  { ent := w, part := p, ts := ts, recs := if off then [] else (s.sweepWork p w).recs, pairs := (s.sweepWork p w).pairs,
    ebusy := (s.sweepWork p w).loads.foldl (fun n e => n + e.2) 0, blks := [], loads := (s.sweepWork p w).loads, lost := [], refr := [],
    fin := false, stopped := off }

/-- The state in which stack `k` has begun sweep `sw` of course `c`, before a fault. -/
def Machine.State.withSweep (s : State) (k : Nat) (sw : Sweep) (c : Nat) : State :=
  ({ s with free := (s.sweepWork sw.part sw.ent).free } : State).putSweep k sw c

theorem withSweep_frame (s : State) (k : Nat) (sw : Sweep) (c : Nat) : s.withSweep k sw c =
    { s with stks := (s.withSweep k sw c).stks, free := (s.withSweep k sw c).free } := rfl

theorem withSweep_sweep (s : State) (k : Nat) (sw : Sweep) (c : Nat) : ((s.withSweep k sw c).stack k).sweep = some sw := by
  simp [State.withSweep, State.putSweep]

theorem withSweep_started (s : State) (k : Nat) (sw : Sweep) (c : Nat) :
    ((s.withSweep k sw c).stack k).started = (s.stack k).started ++ [(c, sw.ent.sid)] :=
  congrArg Stack.started (State.stack_modStack_self ..)

theorem withSweep_stack_ne (s : State) {k j : Nat} (sw : Sweep) (c : Nat) (h : j ≠ k) : (s.withSweep k sw c).stack j = s.stack j :=
  State.stack_modStack_ne _ _ h

section
variable {s : State} {k p c ts : Nat} {w : SweepEnt} {r : List (Nat × SweepEnt × Nat × Nat)}

/-- A sweep is due on a stack with none in progress, and its reads meet no error. -/
structure SweepStarts (s : State) (k p : Nat) (w : SweepEnt) (c ts : Nat) (r : List (Nat × SweepEnt × Nat × Nat)) : Prop where
  due : s.sweepsDue k = (p, w, c, ts) :: r
  idle : (s.stack k).sweep = none ∨ ∃ x, (s.stack k).sweep = some x ∧ (x.fin = true ∨ x.stopped = true)
  miss : (s.sweepWork p w).miss = 0
  bad : (s.sweepWork p w).bad = none
  soft : (s.sweepWork p w).soft = []

theorem SweepStarts.not_busy (h : SweepStarts s k p w c ts r) : (s.stack k).sweep.any (fun x => !x.fin && !x.stopped) = false := by
  obtain hnone | ⟨x, hx, hend⟩ := h.idle
  · simp [hnone]
  · obtain hfin | hstop := hend
    · simp [hx, hfin]
    · simp [hx, hstop]

/-- SWEEP_START within the budget of every engine (R213). -/
theorem sweepStart_within (h : SweepStarts s k p w c ts r) (hload : ∀ e ∈ (s.sweepWork p w).loads, e.2 ≤ w.win) :
    exec (.sweepStart k) s = .next (s.withSweep k (s.sweepBegun p w ts (s.part p).run.held) c) := by
  have hearly : (s.sweepWork p w).loads.find? (fun e => decide (w.win < e.2)) = none :=
    List.find?_eq_none.mpr fun e he => by simpa using hload e he
  show execSweepStart k s = _
  simp [execSweepStart, h.due, h.not_busy, h.miss, h.bad, h.soft, hearly, State.withSweep, State.sweepBegun]

/-- SWEEP_START over the budget of an engine (R213). -/
theorem sweepStart_over {e : Nat × Nat} (h : SweepStarts s k p w c ts r)
    (hearly : (s.sweepWork p w).loads.find? (fun e => decide (w.win < e.2)) = some e) :
    exec (.sweepStart k) s = .next ((s.withSweep k (s.sweepBegun p w ts true) c).raise p
      (FInfo.dev 0x0C 0 [word k, word w.sid, word e.1, word e.2, word w.win])) := by
  show execSweepStart k s = _
  simp [execSweepStart, h.due, h.not_busy, h.miss, h.soft, hearly, State.withSweep, State.sweepBegun]

end

section
variable {s : State} {k : Nat} {w : Sweep}

/-- SWEEP_COMPLETE by the deadline, once no engine can still be busy (R206). -/
theorem sweepComplete_finishes (hw : (s.stack k).sweep = some w) (hfin : w.fin = false) (hstop : w.stopped = false)
    (hnow : s.now ≤ s.sweepEnd w) (hbusy : w.busyEngines s.now = 0) : exec (.sweepComplete k) s = .next (s.finishSweep k w) := by
  show execSweepComplete k s = _
  simp [execSweepComplete, hw, hfin, hstop, hbusy, Nat.not_lt.mpr hnow]

theorem sweepComplete_busy (hw : (s.stack k).sweep = some w) (hbusy : 0 < w.busyEngines s.now) : exec (.sweepComplete k) s = .next s := by
  show execSweepComplete k s = _
  simp [execSweepComplete, hw, hbusy]

/-- SWEEP_DEADLINE of a sweep that has written its records. -/
theorem sweepDeadline_fin (hw : (s.stack k).sweep = some w) (hfin : w.fin = true) (hend : s.sweepEnd w ≤ s.now) :
    exec (.sweepDeadline k) s = .next (s.closeSweep k) := by
  show execSweepDeadline k s = _
  simp [execSweepDeadline, hw, hfin, Nat.not_lt.mpr hend, State.closeSweep]

/-- SWEEP_DEADLINE of a sweep that is complete by then (R215). -/
theorem sweepDeadline_good (hw : (s.stack k).sweep = some w) (hfin : w.fin = false) (hstop : w.stopped = false) (hend : s.sweepEnd w ≤ s.now)
    (hgood : w.mostBlks ≤ w.ent.bpmax ∨ w.busyEngines (s.sweepEnd w) = 0) :
    exec (.sweepDeadline k) s = .next ((s.finishSweep k w).closeSweep k) := by
  show execSweepDeadline k s = _
  simp [execSweepDeadline, hw, hfin, hstop, Nat.not_lt.mpr hend, hgood, State.closeSweep]

/-- SWEEP_DEADLINE of a sweep that is late (R217). -/
theorem sweepDeadline_late (hw : (s.stack k).sweep = some w) (hfin : w.fin = false) (hstop : w.stopped = false) (hend : s.sweepEnd w ≤ s.now)
    (hlate : ¬ (w.mostBlks ≤ w.ent.bpmax ∨ w.busyEngines (s.sweepEnd w) = 0)) :
    exec (.sweepDeadline k) s = .next ((s.closeSweep k).raise w.part
      (FInfo.dev 0x0D 0 [word k, word w.ent.sid, word (w.busyEngines (s.sweepEnd w)), word w.mostBlks])) := by
  show execSweepDeadline k s = _
  simp [execSweepDeadline, hw, hfin, hstop, Nat.not_lt.mpr hend, hlate, State.closeSweep]

end

/-- A fault leaves a sweep that has already stopped without records as it is. -/
theorem raise_sweep_stopped {s : State} {k p : Nat} (f : FInfo) (h : ∃ x, (s.stack k).sweep = some x ∧ x.recs = [] ∧ x.stopped = true) :
    ∃ x, ((s.raise p f).stack k).sweep = some x ∧ x.recs = [] ∧ x.stopped = true := by
  obtain ⟨x, hx, hrecs, hstop⟩ := h
  refine ⟨x, ?_, hrecs, hstop⟩
  obtain h | h := raise_stopsAt s p k f
  · rw [h, hx]
  · rw [h, hx, Option.map_some, haltedBy_of_stopped hstop]

theorem raise_sweep_none {s : State} {k p : Nat} (f : FInfo) (h : (s.stack k).sweep = none) : ((s.raise p f).stack k).sweep = none := by
  obtain h' | h' := raise_stopsAt s p k f
  · rw [h', h]
  · rw [h', h, Option.map_none]

/-- Settles O43: a start places the sweep that its work gathers, an end writes and counts it, and a fault changes of a sweep only that it
has stopped. -/
theorem sweeps : Obligations.Sweeps := by
  intro s k v
  refine ⟨?start, ?progress, ?finished⟩
  case start =>
    intro p w c ts r hdue hidle hmiss hbad hsoft
    have h : SweepStarts s k p w c ts r := ⟨hdue, hidle, hmiss, hbad, hsoft⟩
    refine ⟨fun hload => ?_, fun e hearly hp => ?_⟩
    · exact ⟨_, _, sweepStart_within h hload, withSweep_sweep .., rfl, rfl, rfl, rfl, rfl, rfl, withSweep_started .., rfl, rfl,
        fun j hj => withSweep_stack_ne s _ c hj⟩
    · exact ⟨_, sweepStart_over h hearly, raise_sweep_stopped _ ⟨_, withSweep_sweep .., rfl, rfl⟩,
        raise_faulted_of_stks_free _ (withSweep_frame ..) hp⟩
  case progress =>
    intro w hw hfin hstop written counted good
    refine ⟨fun hnow hbusy => ?complete, sweepComplete_busy hw, fun hend hgood => ?inTime, fun hend hlate hp => ?late⟩
    case complete =>
      exact ⟨_, sweepComplete_finishes hw hfin hstop hnow hbusy, finishSweep_rdByte s k w, finishSweep_counted s k w, _,
        finishSweep_fin s k w, rfl⟩
    case inTime =>
      exact ⟨_, sweepDeadline_good hw hfin hstop hend hgood, finishSweep_rdByte s k w, (finishSweep_counted s k w).close, closeSweep_sweep ..⟩
    case late =>
      exact ⟨_, sweepDeadline_late hw hfin hstop hend hlate, raise_sweep_none _ (closeSweep_sweep ..),
        raise_faulted_of_stks_free _ (closeSweep_frame ..) hp⟩
  case finished =>
    intro w hw hfin hend
    exact ⟨_, sweepDeadline_fin hw hfin hend, closeSweep_sweep .., rfl⟩

end Sys2Proof
end

section
namespace Sys2Proof

open Machine

/-! ### The state after a power-on reset (Table 2.9, R237, R283) -/

theorem reset_bindEntry (kind i : Nat) : State.reset.bindEntry kind i = 0 := rfl

theorem reset_unbound (kind i : Nat) : State.reset.owner kind i = none ∧ State.reset.clearing kind i = false := by
  unfold State.owner State.clearing
  rw [reset_bindEntry]
  exact ⟨rfl, rfl⟩

theorem reset_rdByte (a : Nat) : State.reset.rdByte a = 0 := by
  unfold State.rdByte
  cases cellarOff a <;> rfl

/-- Settles O58: every field of the reset state is a constant, and an unlisted unit, entry or byte reads as its own reset value. -/
theorem resetState : Obligations.ResetState :=
  ⟨rfl, rfl, rfl, rfl, rfl, rfl, rfl, rfl, rfl, rfl, rfl, rfl, rfl, fun _ => ⟨0, rfl, rfl⟩, fun _ => ⟨rfl, rfl⟩,
    fun _ _ => ⟨rfl, rfl, rfl, rfl, rfl⟩, reset_unbound, fun _ => ⟨rfl, rfl, rfl, rfl, rfl, rfl, rfl⟩, fun _ => rfl, fun _ => rfl,
    reset_rdByte, reset_memWf⟩

end Sys2Proof
end

section
namespace Sys2Proof

open Machine

/-! ### The references of the device (R236 to R238) -/

@[simp] theorem ref_setRef_self (m : Mnt) (b : Bool) (x : RefIn) : (m.setRef b x).ref b = x := by cases b <;> rfl
@[simp] theorem ref_setRef_not (m : Mnt) (b : Bool) (x : RefIn) : (m.setRef b x).ref (!b) = m.ref (!b) := by cases b <;> rfl
@[simp] theorem setRef_active (m : Mnt) (b : Bool) (x : RefIn) : (m.setRef b x).active = m.active := by cases b <;> rfl
@[simp] theorem setRef_hold (m : Mnt) (b : Bool) (x : RefIn) : (m.setRef b x).hold = m.hold := by cases b <;> rfl
@[simp] theorem setRef_now (m : Mnt) (b : Bool) (x : RefIn) : (m.setRef b x).now = m.now := by cases b <;> rfl

/-- A master that enters TRACK changes nothing else (R241). -/
theorem masterTrack_td (m : Mnt) : ∃ t, m.masterTrack = { m with td := t } := by
  unfold Mnt.masterTrack
  split
  · exact ⟨_, rfl⟩
  · exact ⟨m.td, rfl⟩

/-- A fold whose every step leaves the state `s` as it is. -/
theorem foldl_fixed_of_mem {α : Type} {f : State → α → State} {s : State} {l : List α} (h : ∀ a ∈ l, f s a = s) : l.foldl f s = s := by
  induction l with
  | nil => rfl
  | cons a l ih =>
    rw [List.foldl_cons, h a List.mem_cons_self]
    exact ih fun b hb => h b (List.mem_cons_of_mem a hb)

/-- No partition has a plan loaded. -/
def NoPlan (s : State) : Prop := ∀ p, p < 64 → (s.part p).plan = none

@[simp] theorem noPlan_modMnt {s : State} {f : Mnt → Mnt} : NoPlan (s.modMnt f) ↔ NoPlan s := Iff.rfl

/-- A time fault is raised against partitions with a plan: with no plan loaded it is none (R238, R242, R245). -/
theorem timeFault_no_plan {s : State} (h : NoPlan s) (cause : Nat) (fields : List Word) :
    s.timeFault cause fields = s := by
  unfold State.timeFault
  rw [List.filter_eq_nil_iff.mpr fun p hp => by simp [h p (List.mem_range.mp hp)]]
  rfl

/-- The limits of Table 8.5 within which a window is a good one. -/
structure WithinLimits (w : RefWindow) : Prop where
  jitter : w.jitter ≤ 5000
  dutyLow : 450 ≤ w.duty
  dutyHigh : w.duty ≤ 550
  offset : w.offset ≤ 200000

/-- The number of a reference. -/
def refIndex (b : Bool) : Nat := if b then 1 else 0

@[simp] theorem refIndex_eq_one (b : Bool) : decide (refIndex b = 1) = b := by cases b <;> rfl
@[simp] theorem refIndex_lt_two (b : Bool) : decide (2 ≤ refIndex b) = false := by cases b <;> rfl

/-- The state in which a reference has had one more good window. -/
def Machine.State.refRun (s : State) (b : Bool) : State :=
  s.modMnt fun m => m.setRef b { m.ref b with run := min 1000 ((m.ref b).run + 1) }

/-- A window within the limits is counted, and the thousandth makes the reference good (R237). -/
theorem refclkWindowEnd_within {s : State} {w : RefWindow} (b : Bool) (hr : s.pwr.inReset = false) (hw : WithinLimits w) :
    exec (.refclkWindowEnd (refIndex b) w) s = .next
      (if 1000 ≤ ((s.refRun b).mnt.ref b).run ∧ !((s.refRun b).mnt.ref b).good then (s.refRun b).refGood b else s.refRun b) := by
  obtain ⟨hj, hdl, hdh, ho⟩ := hw
  have hj2 : ¬ 10000 < w.jitter := by omega
  have hdl2 : ¬ w.duty < 400 := by omega
  have hdh2 : ¬ 600 < w.duty := by omega
  show execRefclkWindowEnd _ _ _ = _
  simp [execRefclkWindowEnd, State.refRun, hr, Nat.not_lt.mpr hj, Nat.not_lt.mpr hdl, Nat.not_lt.mpr hdh, Nat.not_lt.mpr ho, hj2, hdl2, hdh2]

/-- A good window short of the thousandth adds 1 to the run (R237). -/
theorem refclkWindowEnd_counts {s : State} {w : RefWindow} {b : Bool} (hr : s.pwr.inReset = false) (hw : WithinLimits w)
    (hrun : (s.mnt.ref b).run + 1 < 1000) : exec (.refclkWindowEnd (refIndex b) w) s =
      .next { s with mnt := s.mnt.setRef b { s.mnt.ref b with run := (s.mnt.ref b).run + 1 } } := by
  have hs : s.refRun b = { s with mnt := s.mnt.setRef b { s.mnt.ref b with run := (s.mnt.ref b).run + 1 } } := by
    unfold State.refRun State.modMnt
    dsimp only
    rw [Nat.min_eq_right (Nat.le_of_lt hrun)]
  rw [refclkWindowEnd_within b hr hw, hs, ref_setRef_self, if_neg fun h => absurd h.1 (Nat.not_le.mpr hrun)]

/-- A reference that becomes good is taken where none is in use (R237). -/
theorem refGood_takes (s : State) (b : Bool) : ∃ m, s.refGood b = { s with mnt := m } ∧ (m.ref b).good = true ∧ m.now = s.mnt.now ∧
    (s.mnt.active = none → m.active = some b ∧ m.hold = false) ∧ ∀ a, s.mnt.active = some a → m.active = some a := by
  unfold State.refGood State.modMnt
  dsimp only
  cases ha : s.mnt.active with
  | some a =>
    refine ⟨_, rfl, ?_⟩
    simp [ha]
  | none =>
    simp only [setRef_active, ha, Option.isNone_none, if_true]
    obtain ⟨t, ht⟩ := masterTrack_td { s.mnt.setRef b { s.mnt.ref b with good := true, goodAt := s.mnt.up } with active := some b, hold := false }
    refine ⟨_, rfl, ?_⟩
    rw [ht]
    exact ⟨by cases b <;> rfl, setRef_now .., fun _ => ⟨rfl, rfl⟩, fun a h => by cases h⟩

/-- The reference that the generator used is lost: fail-over to the other where that is good, else holdover (R237, R238). -/
theorem refBad_active {s : State} {b : Bool} (hp : NoPlan s) (ha : s.mnt.active = some b) :
    ∃ m, s.refBad b = { s with mnt := m } ∧ (m.ref b).good = false ∧
      ((s.mnt.ref (!b)).good = true → m.active = some (!b) ∧ m.hold = s.mnt.hold) ∧
      ((s.mnt.ref (!b)).good = false → m.active = none ∧ m.hold = true) := by
  unfold State.refBad
  simp only [ha, ne_eq, not_true_eq_false, if_false]
  cases hg : (s.mnt.ref (!b)).good with
  | true =>
    exact ⟨_, rfl, by cases b <;> rfl, fun _ => ⟨rfl, setRef_hold ..⟩, fun h => by cases h⟩
  | false =>
    simp only [Bool.false_eq_true, if_false, timeFault_no_plan, noPlan_modMnt, hp]
    exact ⟨_, rfl, by cases b <;> rfl, fun h => h.elim, fun _ => ⟨rfl, rfl⟩⟩

theorem refclkMissingEdges_eq {s : State} (b : Bool) (hr : s.pwr.inReset = false) :
    exec (.refclkMissingEdges (refIndex b)) s = .next (s.refBad b) := by
  show execRefclkMissingEdges _ _ = _
  simp [execRefclkMissingEdges, hr]

/-- The generator returns to the preferred reference (R237). -/
theorem refRevertTimeout_due {s : State} (hrev : s.mnt.revert = true) (ha : s.mnt.active = some (!s.mnt.pref))
    (hg : (s.mnt.ref s.mnt.pref).good = true) (hup : (s.mnt.ref s.mnt.pref).goodAt + 10000000000 ≤ s.mnt.up) :
    exec .refRevertTimeout s = .next { s with mnt := { s.mnt with active := some s.mnt.pref } } := by
  show execRefRevertTimeout s = _
  simp [execRefRevertTimeout, hrev, ha, hg, hup, State.modMnt]

/-! ### Exchanges of time (R240, R241, R243, Table 10.2) -/

/-- The first message of a port is heard where it is of the kind looked for. -/
theorem hear_head {v : Port} {m : LinkMsg} {r : List LinkMsg} {k : Nat} (h : v.rx.msgs = m :: r) (hk : m.mtype = k) :
    v.hear k = some (m, { v with rx := { v.rx with msgs := r } }) := by
  simp [Port.hear, h, takeFirst, hk]

@[simp] theorem say_msgs (v : Port) (m : LinkMsg) : (v.say m).tx.msgs = v.tx.msgs ++ [m] := rfl
@[simp] theorem say_rx (v : Port) (m : LinkMsg) : (v.say m).rx = v.rx := rfl

/-- A link asks for the time 1 ms after it last did (R240). -/
theorem timeExchangeTimer_due {s : State} {port : Nat} (hup : (s.port port).st = .up) (hat : (s.port port).exAt + 1000000 ≤ s.mnt.up) :
    exec (.timeExchangeTimer port) s = .next (s.modPort port fun x =>
      { x with xid := (x.xid + 1) % 2 ^ 16, exAt := s.mnt.up }.say { mtype := 1, mseq := 0, body := timeBody 0 0 ((x.xid + 1) % 2 ^ 16) false }) := by
  show execTimeExchangeTimer port s = _
  simp [execTimeExchangeTimer, hup, Nat.not_lt.mpr hat]

theorem timeRequestReceive_head {s : State} {port t2 : Nat} {m : LinkMsg} {r : List LinkMsg} (h : (s.port port).rx.msgs = m :: r)
    (hk : m.mtype = 1) : exec (.timeRequestReceive port t2) s =
      .next (s.setPort port ({ s.port port with rx := { (s.port port).rx with msgs := r } }.say
        { mtype := 2, mseq := 0, body := timeBody t2 0 (bits m.body.toNat 128 16) s.mnt.ptrk })) := by
  show execTimeRequestReceive port t2 s = _
  simp [execTimeRequestReceive, hear_head h hk]

/-- A cable delay is checked against the plans that are loaded: with none it has no effect (R243, R245). -/
theorem checkDelay_no_plan {s : State} (h : NoPlan s) (port delay : Nat) : s.checkDelay port delay = s := by
  unfold State.checkDelay
  exact foldl_fixed_of_mem fun p hp => by simp [h p (List.mem_range.mp hp)]

theorem steerRate_rate (m : Mnt) (theta : Int) : ∃ r a, m.steerRate theta = { m with rate := r, rateAt := a } := by
  unfold Mnt.steerRate
  split
  · exact ⟨m.rate, m.rateAt, rfl⟩
  · exact ⟨_, _, rfl⟩

/-- What steering by an exchange leaves with no plan loaded: the discipline alone changes, by the offset measured, and a small offset keeps a
device in TRACK and its count (R241, R242). -/
structure Steered (s u : State) (theta : Int) : Prop where
  frame : u = { s with mnt := u.mnt }
  offset : u.mnt.theta = theta
  altUse : u.mnt.altUse = s.mnt.altUse
  kept : s.mnt.td = .track → theta.natAbs ≤ 50 → u.mnt.td = .track ∧ u.mnt.now = s.mnt.now

theorem Steered.modMnt {s u : State} {theta : Int} {f : Mnt → Mnt} (h : Steered s u theta) (ht : (f u.mnt).theta = u.mnt.theta)
    (ha : (f u.mnt).altUse = u.mnt.altUse)
    (hk : u.mnt.td = .track → theta.natAbs ≤ 50 → (f u.mnt).td = .track ∧ (f u.mnt).now = u.mnt.now) : Steered s (u.modMnt f) theta where
  frame := by
    unfold State.modMnt
    rw [h.frame]
  offset := ht.trans h.offset
  altUse := ha.trans h.altUse
  kept := fun htrack hsmall =>
    have hu := h.kept htrack hsmall
    have hf := hk hu.1 hsmall
    ⟨hf.1, hf.2.trans hu.2⟩

theorem steer_no_plan {s : State} (h : NoPlan s) (port : Nat) (theta : Int) (ptrk : Bool) : Steered s (s.steer port theta ptrk) theta := by
  unfold State.steer
  extract_lets s1 load s2 small s3 s4
  have h1 : Steered s s1 theta := by
    obtain ⟨r, a, hr⟩ := steerRate_rate { s.mnt with theta := theta } theta
    have hs : s1 = s.modMnt fun m => { m with theta := theta, rate := r, rateAt := a } := congrArg (fun m => { s with mnt := m }) hr
    rw [hs]
    exact ⟨rfl, rfl, rfl, fun htrack _ => ⟨htrack, rfl⟩⟩
  have h2 : Steered s s2 theta := by
    unfold s2
    split
    · rename_i hload
      exact h1.modMnt rfl rfl fun htrack _ => by simp [load, htrack] at hload
    · exact h1
  have h3 : Steered s s3 theta := by
    unfold s3
    split
    · exact h2
    · exact h2.modMnt rfl rfl fun htrack _ => ⟨htrack, rfl⟩
  have h4 : Steered s s4 theta := h3.modMnt rfl rfl fun htrack _ => ⟨by simp [htrack], rfl⟩
  have hp : NoPlan s4 := by
    rw [h4.frame]
    exact h
  split
  · exact h4
  · rename_i hlarge
    rw [timeFault_no_plan (noPlan_modMnt.mpr hp)]
    exact h4.modMnt rfl rfl fun _ hsmall => absurd hsmall hlarge

theorem enabled_of_altDue {s : State} (h : s.altDue = true) :
    s.mnt.tdEn = true ∧ s.mnt.master = false ∧ s.mnt.altEn = true ∧ s.mnt.td ≠ .unlocked := by
  simp only [State.altDue, Bool.and_eq_true, Bool.not_eq_true', decide_eq_true_eq] at h
  obtain ⟨⟨⟨⟨hen, hma⟩, halt⟩, htd⟩, -⟩ := h
  exact ⟨hen, hma, halt, htd⟩

/-- A device whose discipline is off, a master, and a device without an alternate do not change their port (R243). -/
theorem altDue_eq_false {s : State} (h : s.mnt.tdEn = false ∨ s.mnt.master = true ∨ s.mnt.altEn = false) : s.altDue = false := by
  obtain h | h | h := h <;> simp [State.altDue, h]

/-- A device that turns to its other port takes its time from there (R243). -/
theorem timePort_turned (m : Mnt) : ({ m with altUse := !m.altUse } : Mnt).timePort = m.otherPort := by
  unfold Mnt.timePort Mnt.otherPort
  cases m.altUse <;> rfl

/-- The state in which the measurement of an exchange has been taken: the port, from which `v` has the reply taken off, has its cable delay, and
a device whose parent is lost takes its time from the other port (R240, R243). -/
def Machine.State.measured (s : State) (port : Nat) (v : Port) (delay : Nat) : State :=
  (if s.altDue && decide (port = s.mnt.otherPort) then s.modMnt fun x => { x with altUse := !x.altUse } else s).setPort port
    { v with delay := delay, exRep := s.mnt.up }

@[simp] theorem measured_port (s : State) (port : Nat) (v : Port) (delay : Nat) :
    (s.measured port v delay).port port = { v with delay := delay, exRep := s.mnt.up } := State.port_setPort_self ..

theorem measured_mnt_kept {s : State} {port : Nat} (v : Port) (delay : Nat) (h : s.altDue = false) : (s.measured port v delay).mnt = s.mnt := by
  simp [State.measured, h]

theorem measured_mnt_turned {s : State} {port : Nat} (v : Port) (delay : Nat) (h : s.altDue = true) (ho : port = s.mnt.otherPort) :
    (s.measured port v delay).mnt = { s.mnt with altUse := !s.mnt.altUse } := by
  simp [State.measured, h, ho]

theorem measured_noPlan {s : State} (h : NoPlan s) (port : Nat) (v : Port) (delay : Nat) : NoPlan (s.measured port v delay) := by
  unfold State.measured
  split <;> exact h

/-- A device takes its time from a port: it is no master, and its discipline is on and not UNLOCKED (R241). -/
def Machine.Mnt.steersBy (m : Mnt) (port : Nat) : Bool :=
  m.tdEn && !m.master && decide (m.td ≠ .unlocked) && decide (port = m.timePort)

/-- The device steers by an exchange with the port from which it takes time. -/
def Machine.State.steerBy (s : State) (port : Nat) (theta : Int) (ptrk : Bool) : State :=
  if s.mnt.steersBy port then s.steer port theta ptrk else s

theorem steerBy_steered {s : State} {port : Nat} (h : NoPlan s) (hs : s.mnt.steersBy port = true) (theta : Int) (ptrk : Bool) :
    Steered s (s.steerBy port theta ptrk) theta := by
  unfold State.steerBy
  rw [if_pos hs]
  exact steer_no_plan h port theta ptrk

theorem steerBy_other {s : State} {port : Nat} (hs : s.mnt.steersBy port = false) (theta : Int) (ptrk : Bool) :
    s.steerBy port theta ptrk = s := by
  simp [State.steerBy, hs]

theorem steerBy_port {s : State} (h : NoPlan s) (port : Nat) (theta : Int) (ptrk : Bool) (j : Nat) :
    (s.steerBy port theta ptrk).port j = s.port j := by
  cases hs : s.mnt.steersBy port with
  | true =>
    rw [(steerBy_steered h hs theta ptrk).frame]
    rfl
  | false => rw [steerBy_other hs]

/-- An exchange of a port from which the device takes no time leaves its discipline (R240). -/
theorem measured_by_none {s : State} {port : Nat} (v : Port) (delay : Nat) (theta : Int) (ptrk : Bool)
    (h : s.mnt.tdEn = false ∨ s.mnt.master = true ∨ (s.mnt.altEn = false ∧ s.mnt.timePort ≠ port)) :
    ((s.measured port v delay).steerBy port theta ptrk).mnt = s.mnt := by
  have hm := measured_mnt_kept (port := port) v delay (altDue_eq_false (h.imp id (Or.imp id And.left)))
  rw [steerBy_other, hm]
  rw [hm]
  obtain hen | hma | ⟨-, hport⟩ := h
  · simp [Mnt.steersBy, hen]
  · simp [Mnt.steersBy, hma]
  · simp [Mnt.steersBy, Ne.symm hport]

section

variable {s : State} {port : Nat} (hp : NoPlan s) (v : Port) (delay : Nat) (theta : Int) (ptrk : Bool)

include hp

/-- A small offset of the parent keeps the device in TRACK (R241). -/
theorem measured_by_parent (hen : s.mnt.tdEn = true) (hma : s.mnt.master = false) (halt : s.mnt.altEn = false) (htrack : s.mnt.td = .track)
    (hport : s.mnt.timePort = port) (hsmall : theta.natAbs ≤ 50) :
    let u := (s.measured port v delay).steerBy port theta ptrk
    u.mnt.theta = theta ∧ u.mnt.td = .track ∧ u.mnt.now = s.mnt.now := by
  have hm := measured_mnt_kept (port := port) v delay (altDue_eq_false (.inr (.inr halt)))
  have hs : (s.measured port v delay).mnt.steersBy port = true := by
    rw [hm]
    simp [Mnt.steersBy, hen, hma, htrack, hport]
  have h := steerBy_steered (measured_noPlan hp port v delay) hs theta ptrk
  obtain ⟨htd, hnow⟩ := h.kept (by rw [hm, htrack]) hsmall
  exact ⟨h.offset, htd, by rw [hnow, hm]⟩

/-- A device whose parent is lost is steered by the port to which it turns (R243). -/
theorem measured_by_other (hdue : s.altDue = true) (ho : port = s.mnt.otherPort) :
    let u := (s.measured port v delay).steerBy port theta ptrk
    u.mnt.altUse = !s.mnt.altUse ∧ u.mnt.theta = theta := by
  have hm := measured_mnt_turned v delay hdue ho
  obtain ⟨hen, hma, -, htd⟩ := enabled_of_altDue hdue
  have hs : (s.measured port v delay).mnt.steersBy port = true := by
    rw [hm]
    simp only [Mnt.steersBy, timePort_turned]
    simp [hen, hma, htd, ← ho]
  have h := steerBy_steered (measured_noPlan hp port v delay) hs theta ptrk
  exact ⟨by rw [h.altUse, hm], h.offset⟩

end

/-- The reply of the open exchange of an UP link, with no plan loaded, is measured, and steers a device that takes its time from there. -/
theorem timeReplyReceive_open {s : State} {port t1 t4 : Nat} {m : LinkMsg} {v : Port} (h : (s.port port).hear 2 = some (m, v))
    (hx : bits m.body.toNat 128 16 = v.xid) (hup : v.st = .up) (hp : NoPlan s) :
    let a : Int := (bits m.body.toNat 0 64 : Int) - v.t1
    let b : Int := (t4 : Int) - bits m.body.toNat 64 64
    exec (.timeReplyReceive port t1 t4) s =
      .next ((s.measured port v ((a + b + 1) / 2).toNat).steerBy port ((a - b) / 2) (bit m.body.toNat 144)) := by
  intro a b
  have hc := checkDelay_no_plan (measured_noPlan hp port v ((a + b + 1) / 2).toNat) port ((a + b + 1) / 2).toNat
  unfold State.measured at hc
  show execTimeReplyReceive port t1 t4 s = _
  unfold execTimeReplyReceive
  rw [h]
  dsimp only
  rw [if_neg (by simp [hx, hup]), hc]
  rfl

/-- Settles O31: a good window, a lost reference and the revert change the reference state alone, and an exchange the port and the
discipline. -/
theorem referenceAndTimeExchange : Obligations.ReferenceAndTimeExchange := by
  refine ⟨?references, ?exchanges⟩
  case references =>
    intro s b hr hp n m
    refine ⟨fun w hj hdl hdh ho hrun => refclkWindowEnd_counts hr ⟨hj, hdl, hdh, ho⟩ hrun, fun w hj hdl hdh ho hrun hg => ?thousandth,
      fun ha => ?lost, refRevertTimeout_due⟩
    case thousandth =>
      have hs : ((s.refRun b).mnt.ref b) = { m.ref b with run := 1000 } := by
        show ((m.setRef b _).ref b) = _
        rw [ref_setRef_self, hrun]
        rfl
      obtain ⟨m', hm, hgood, hnow, htaken, hstays⟩ := refGood_takes (s.refRun b) b
      have ha : (s.refRun b).mnt.active = m.active := setRef_active ..
      rw [ha] at htaken hstays
      exact ⟨_, (refclkWindowEnd_within b hr ⟨hj, hdl, hdh, ho⟩).trans (by rw [if_pos (by simp [hs, hg]), hm]), hgood, htaken, hstays,
        hnow.trans (setRef_now ..), rfl⟩
    case lost =>
      obtain ⟨m', hm, hgood, hother, hnone⟩ := refBad_active hp ha
      exact ⟨_, (refclkMissingEdges_eq b hr).trans (by rw [hm]), hgood, hother, hnone, rfl⟩
  case exchanges =>
    intro s port v
    refine ⟨fun hup hat => ?request, fun t2 m r hm hk => ?answer, fun t1 t4 m r hm hk hx hup hp => ?measure⟩
    case request =>
      exact ⟨_, timeExchangeTimer_due hup hat, by simp [v], by simp [v, Port.say], by simp [Port.say], rfl, fun j hj => State.port_modPort_ne _ _ hj⟩
    case answer =>
      exact ⟨_, timeRequestReceive_head hm hk, by simp, by simp [v, Mnt.ptrk], rfl⟩
    case measure =>
      intro t2 t3 a b
      refine ⟨_, timeReplyReceive_open (hear_head hm hk) hx hup hp, ?_⟩
      rw [steerBy_port (measured_noPlan hp _ _ _), measured_port]
      exact ⟨rfl, rfl, rfl, measured_by_parent hp _ _ _ _, measured_by_other hp _ _ _ _, measured_by_none _ _ _ _⟩

end Sys2Proof
end

section
namespace Sys2Proof

open Machine

/-! ### The discipline, the wall clock and the count (R238, R241, R242, R243, R246) -/

/-- A write of the device owner has its effect (R470). -/
theorem devWrite_owner {s : State} {acc : Accessor} {f : State → State} (hup : s.accUp acc = true) (ho : accOwner acc = true) :
    s.devWrite acc f = f s := by
  simp [State.devWrite, hup, ho]

/-- A discipline that settles begins to acquire where it was UNLOCKED with EN = 1, and changes nothing else (R241). -/
theorem tdSettle_frame (s : State) : ∃ t l k a, s.tdSettle = { s with mnt := { s.mnt with td := t, loaded := l, okRun := k, tdAt := a } } ∧
    (s.mnt.tdEn = false → t = s.mnt.td) := by
  unfold State.tdSettle
  split
  · rename_i h
    exact ⟨_, _, _, _, rfl, fun hen => by simp [hen] at h⟩
  · exact ⟨s.mnt.td, s.mnt.loaded, s.mnt.okRun, s.mnt.tdAt, rfl, fun _ => rfl⟩

/-- MNT_TD_CTL as written, before the state that follows (Table 8.9). -/
def Machine.Mnt.tdWritten (m : Mnt) (v : BitVec 32) : Mnt :=
  let keep := flag v 0 && m.tdEn && decide (flag v 1 = m.master)
  { m with tdEn := flag v 0, master := flag v 1, parent := fld v 2 4, altEn := flag v 6, alt := fld v 7 4, altUse := false, okRun := 0,
           tdAt := m.up, td := if keep then m.td else .unlocked, loaded := m.loaded && keep }

theorem masterTrack_disabled {m : Mnt} (h : m.tdEn = false) : m.masterTrack = m := by
  simp [Mnt.masterTrack, h]

/-- MNT_TD_CTL as written is what stands, but for the state of the discipline, which EN = 0 leaves UNLOCKED (R241). -/
theorem mntTdCtlWrite_owner {s : State} {acc : Accessor} (v : BitVec 32) (hup : s.accUp acc = true) (ho : accOwner acc = true) :
    ∃ t l k a, exec (.mntTdCtlWrite acc v) s =
        .next { s with mnt := { s.mnt.tdWritten v with td := t, loaded := l, okRun := k, tdAt := a } } ∧
      (flag v 0 = false → t = .unlocked) := by
  have hexec : exec (.mntTdCtlWrite acc v) s = .next (s.modMnt fun m => (m.tdWritten v).masterTrack).tdSettle :=
    congrArg Host.Outcome.next (devWrite_owner hup ho)
  obtain ⟨d, hd⟩ := masterTrack_td (s.mnt.tdWritten v)
  obtain ⟨t, l, k, a, hset, ht⟩ := tdSettle_frame (s.modMnt fun m => (m.tdWritten v).masterTrack)
  have hm : (s.modMnt fun m => (m.tdWritten v).masterTrack).mnt = { s.mnt.tdWritten v with td := d } := hd
  refine ⟨t, l, k, a, hexec.trans ?_, fun hen => ?_⟩
  · rw [hset, hm]
    rfl
  · have hoff : (s.mnt.tdWritten v).tdEn = false := hen
    rw [ht (by rw [hm]; exact hoff)]
    show (s.mnt.tdWritten v).masterTrack.td = .unlocked
    rw [masterTrack_disabled hoff]
    simp [Mnt.tdWritten, hen]

/-- With its parent silent and no alternate, a device in TRACK enters HOLDOVER (R242, R243). -/
theorem parentSilenceTimeout_holds {s : State} (hen : s.mnt.tdEn = true) (hma : s.mnt.master = false) (halt : s.mnt.altEn = false)
    (htrack : s.mnt.td = .track) (hsil : s.silent s.mnt.timePort = true) : exec .parentSilenceTimeout s =
      .next { s with mnt := { s.mnt with td := .holdover, holdAt := s.mnt.up, holdFlt := false, okRun := 0 } } := by
  show execParentSilenceTimeout s = _
  simp [execParentSilenceTimeout, altDue_eq_false (.inr (.inr halt)), hen, hma, halt, htrack, hsil, State.modMnt]

theorem holdoverLimit_due {s : State} (hhold : s.mnt.td = .holdover) (hflt : s.mnt.holdFlt = false) (hup : s.mnt.holdAt + 10000000 ≤ s.mnt.up) :
    exec .holdoverLimit s = .next ((s.modMnt fun m => { m with holdFlt := true }).timeFault 3 []) := by
  show execHoldoverLimit s = _
  simp [execHoldoverLimit, hhold, hflt, hup]

theorem holdoverLimit_idle {s : State} (h : s.mnt.td ≠ .holdover ∨ s.mnt.holdFlt = true ∨ s.mnt.up < s.mnt.holdAt + 10000000) :
    exec .holdoverLimit s = .next s := by
  show execHoldoverLimit s = _
  unfold execHoldoverLimit
  dsimp only
  rw [if_neg]
  obtain h | h | h := h
  · simp [h]
  · simp [h]
  · simp [Nat.not_le.mpr h]

theorem timeFault_kept (s : State) (cause : Nat) (fields : List Word) : Kept s (s.timeFault cause fields) :=
  foldl_kept _ (fun _ _ => raise_kept ..) _ _

/-- Where one partition alone has a plan loaded, a time fault is raised against it (R242). -/
theorem timeFault_one_plan {s : State} {p : Nat} (hp : p < 64) (hpl : (s.part p).plan ≠ none)
    (hother : ∀ q, q < 64 → q ≠ p → (s.part q).plan = none) (cause : Nat) (fields : List Word) :
    s.timeFault cause fields = s.raise p (FInfo.dev 0x0F cause fields) := by
  have hl : (List.range 64).filter (fun q => (s.part q).plan.isSome) = [p] := by
    rw [List.filter_congr (q := fun q => q == p) fun q hq => ?_, List.filter_beq, List.nodup_range.count, if_pos (List.mem_range.mpr hp)]
    · rfl
    · by_cases h : q = p
      · simp [h, Option.isSome_iff_ne_none, hpl]
      · simp [h, hother q (List.mem_range.mp hq) h]
  unfold State.timeFault
  rw [hl]
  rfl

theorem mntCountLowRead_up {s : State} {acc : Accessor} (hup : s.accUp acc = true) : exec (.mntCountLowRead acc) s =
    .next ((s.modMnt fun m => { m with latch := word (m.now / 2 ^ 32) }).readReply (toLE 4 (s.mnt.now % 2 ^ 32))) := by
  show execMntCountLowRead acc s = _
  simp [execMntCountLowRead, hup]

/-- Settles O32: the writes of the device owner and the deadlines change the discipline alone, but for the time fault of a holdover. -/
theorem timeDiscipline : Obligations.TimeDiscipline := by
  intro s acc hacc m
  refine ⟨fun v ho => ?control, parentSilenceTimeout_holds, fun hhold hflt hup => ?limit, holdoverLimit_idle, fun v ho hc => ?commit,
    fun v ho hc => ?noCommit, _, mntCountLowRead_up hacc, rfl, rfl, rfl⟩
  case control =>
    obtain ⟨t, l, k, a, hexec, hoff⟩ := mntTdCtlWrite_owner v hacc ho
    exact ⟨_, hexec, rfl, rfl, rfl, rfl, rfl, hoff, rfl, rfl⟩
  case limit =>
    obtain ⟨hmem, -, -, hmnt, -⟩ := timeFault_kept (s.modMnt fun m => { m with holdFlt := true }) 3 []
    refine ⟨_, holdoverLimit_due hhold hflt hup, hmnt, hmem, fun hp => timeFault_no_plan (noPlan_modMnt.mpr hp) 3 [],
      fun p hp hpl hother hh => ?_⟩
    rw [timeFault_one_plan (s := s.modMnt _) hp hpl hother]
    exact ⟨_, _, rfl, rfl, rfl, raise_faulted _ hh⟩
  case commit =>
    exact congrArg Host.Outcome.next ((devWrite_owner hacc ho).trans (if_pos hc))
  case noCommit =>
    exact congrArg Host.Outcome.next ((devWrite_owner hacc ho).trans (if_neg (by simp [hc])))

end Sys2Proof
end

section
namespace Sys2Proof

open Machine

/-! ### The firing of a serving plan's lead, and a host that waits on its manifest (R352, R368, R461, R463)

LAUNCH_FIRE on the lead of a serving plan writes the empty manifest of step 0 into the Loft of the manifest tile before it answers the LAUNCH. A
SYNC_WAIT may name a word there: 0xE_0000 lies outside the Landing. Where that write satisfies the wait, its reply is formed in the same
step, and stands before the LAUNCH's; the statement has the function's replies grow by the LAUNCH's alone. -/

/-- The bytes written read back. -/
theorem Wrote.rd_prefix {s u : State} {a n : Nat} {bs : List Byte} (h : Wrote s u a bs) (hn : n ≤ bs.length) : u.rd a n = bs.take n := by
  refine List.ext_getElem (by simp [State.rd, hn]) fun i hi _ => ?_
  have hin : i < n := by simpa [State.rd] using hi
  have hib : a ≤ a + i ∧ a + i < a + bs.length := by omega
  simp [State.rd, h (a + i), show i < bs.length by omega]

/-- The one host wait, on a word that a write covers and satisfies, is answered (R463). -/
theorem wakeHosts_one {s : State} {a n : Nat} {h : HostWait} (hw : s.cmd.waits = [h]) (hin : h.addr < a + n ∧ a < h.addr + 8)
    (hmet : h.met (s.rdW h.addr) = true) :
    s.wakeHosts a n = (s.modCmd fun c => { c with waits := [] }).reply h.ref 0 (lohi (s.rdW h.addr).toNat) := by
  simp [State.wakeHosts, State.modCmd, hw, hin, hmet]

theorem answerTo_congr {s s' : State} (hm : s'.mnt = s.mnt) (r : CmdRef) (st : Nat) (res : List Word) :
    answerTo s' r st res = answerTo s r st res := by
  unfold answerTo State.now
  rw [hm]

/-- An answer depends on the replies held and on the tick. -/
theorem replied_congr {s s' u : State} {r : CmdRef} {st : Nat} {res : List Word} (hf : s'.cmd.fns = s.cmd.fns) (hm : s'.mnt = s.mnt)
    (h : Replied s' u r st res) : Replied s u r st res := by
  intro hhp
  have hfn : s'.fn r.hp r.fn = s.fn r.hp r.fn := by
    unfold State.fn
    rw [hf]
  rw [h hhp, answerTo_congr hm, hfn]

/-- A write that satisfies the one host wait answers it. -/
theorem wr_replied {s : State} {a : Nat} {bs : List Byte} {h : HostWait} (hw : s.cmd.waits = [h]) (hin : h.addr < a + bs.length ∧ a < h.addr + 8)
    (hmet : h.met ((s.wrBytes a bs).rdW h.addr) = true) :
    Replied s (s.wr a bs) h.ref 0 (lohi ((s.wrBytes a bs).rdW h.addr).toNat) := by
  have hcmd : (s.wrBytes a bs).cmd = s.cmd := wrBytes_cmd bs s a
  have hm : (s.wrBytes a bs).mnt = s.mnt := by
    obtain ⟨m, v, hb⟩ := wrBytes_frame bs s a
    rw [hb]
  unfold State.wr
  extract_lets s1 keep s2
  have hs2 : (s2.notify a bs.length).cmd = s.cmd := hcmd
  have hmnt : (s2.notify a bs.length).mnt = s.mnt := hm
  have hrd : (s2.notify a bs.length).rdW h.addr = s1.rdW h.addr := by
    unfold State.rdW State.rdNat
    rw [rd_congr (s := s1) (u := s2.notify a bs.length) rfl rfl]
  rw [wakeHosts_one (hs2 ▸ hw) hin (hrd ▸ hmet), hrd]
  have hfns : ((s2.notify a bs.length).modCmd fun c => { c with waits := [] }).cmd.fns = s.cmd.fns := by
    show (s2.notify a bs.length).cmd.fns = _
    rw [hs2]
  exact replied_congr hfns hmnt (reply_replied _ _ _ _)

/-- `u` differs from `s` in its tiles, ports, Rooms and stacks alone. -/
def UnitsOnly (s u : State) : Prop := u = { s with tiles := u.tiles, ports := u.ports, rooms := u.rooms, stks := u.stks }

theorem UnitsOnly.trans {s u w : State} (h : UnitsOnly s u) (k : UnitsOnly u w) : UnitsOnly s w := by
  unfold UnitsOnly at h k ⊢
  rw [k, h]

theorem foldl_unitsOnly {α : Type} {f : State → α → State} (hf : ∀ u a, UnitsOnly u (f u a)) (l : List α) : ∀ s, UnitsOnly s (l.foldl f s) := by
  induction l with
  | nil => intro s; rfl
  | cons a l ih => intro s; exact (hf s a).trans (ih _)

/-- A launch of partition `p`, whose command is `r`, that fires: confirmed, with its T reached, on the lead of the serving plan `pl`. -/
structure LeadFires (s : State) (p : Nat) (pl : Plan) (d : ServDesc) (r : CmdRef) : Prop where
  st : (s.part p).launch.st = .confirmed
  due : (s.part p).launch.t ≤ s.now
  plan : (s.part p).plan = some pl
  serv : pl.serv = some d
  lead : d.lead = s.me
  reply : (s.part p).launch.reply = some r

/-- The bytes of the manifest that the lead places at the firing. -/
def Machine.Plan.firstManifest (pl : Plan) : List Byte := (emptyManifest (leastShape pl.shapes)).bytes

/-- At the firing the lead's partition and units begin the run, the manifest is placed, and the LAUNCH answered (R352, R461). -/
theorem launchFire_lead {s : State} {p : Nat} {pl : Plan} {d : ServDesc} {r : CmdRef} (h : LeadFires s p pl d r) :
    ∃ v w, UnitsOnly (s.setPart p v) w ∧
      exec (.launchFire p) s = .next ((w.wr (loftAddr d.mtile 0xE0000) pl.firstManifest).reply r 0 [0]) := by
  show ∃ v w, _ ∧ execLaunchFire p s = _
  unfold execLaunchFire
  extract_lets v hzd s1 s2 s3 s4 s6 s5
  have h2 : UnitsOnly s1 s2 := foldl_unitsOnly (by intro u t; rfl) _ _
  have h3 : UnitsOnly s2 s3 := foldl_unitsOnly (by intro u n; rfl) _ _
  have h4 : UnitsOnly s3 s4 := foldl_unitsOnly (by intro u n; rfl) _ _
  have h6 : UnitsOnly s1 s6 := ((h2.trans h3).trans h4).trans (foldl_unitsOnly (by intro u k; split <;> rfl) _ _)
  have hplan : (s6.part p).plan = some pl := by
    rw [h6]
    show (s1.part p).plan = _
    rw [State.part_setPart_self]
    exact h.plan
  have hlead : d.lead = s6.me := by
    rw [h6]
    exact h.lead
  have h5 : s5 = s6.wr (loftAddr d.mtile 0xE0000) pl.firstManifest := by
    unfold s5 State.placeEmpty
    simp only [hplan, h.serv]
    exact if_pos hlead
  refine ⟨_, s6, h6, ?_⟩
  rw [if_neg (by simp [v, h.st, h.due]), ← h5]
  simp only [v, h.reply]

@[simp] theorem fit_length (n : Nat) (bs : List Byte) : (fit n bs).length = n := by
  simp [fit, zeros]
  omega

theorem firstManifest_length (pl : Plan) : pl.firstManifest.length = 65536 := fit_length ..

/-- A host wait on the first word of the manifest until it is 0, the step of the empty one. -/
structure AwaitsStep0 (s : State) (d : ServDesc) (h : HostWait) : Prop where
  waits : s.cmd.waits = [h]
  addr : h.addr = loftAddr d.mtile 0xE0000
  eq : h.eq = true
  val : h.val = 0

theorem firstManifest_step (pl : Plan) : pl.firstManifest.take 8 = zeros 8 := by
  have hw : ∀ ws : List Word, wordsToBytes (lohi 0 ++ ws) = zeros 8 ++ wordsToBytes ws := fun ws => by
    simp only [wordsToBytes, List.flatMap_append]
    rfl
  simp only [Plan.firstManifest, Manifest.bytes, Manifest.header, emptyManifest, List.append_assoc, hw, fit]
  rfl

/-- The firing forms two replies for the function whose host waits on the manifest's step: the wait's, and then the LAUNCH's. -/
theorem launchFire_lead_replies {s : State} {p : Nat} {pl : Plan} {d : ServDesc} {r : CmdRef} {h : HostWait} (hf : LeadFires s p pl d r)
    (hw : AwaitsStep0 s d h) (hfn : h.ref.hp = r.hp ∧ h.ref.fn = r.fn) (hhp : r.hp < 2) :
    ∃ u, exec (.launchFire p) s = .next u ∧
      (u.fn r.hp r.fn).held = (s.fn r.hp r.fn).held ++ [answerTo s h.ref 0 [0, 0]] ++ [answerTo s r 0 [0]] := by
  obtain ⟨v, w, hunits, hexec⟩ := launchFire_lead hf
  have hcmd : w.cmd = s.cmd := by rw [hunits]; rfl
  have hmnt : w.mnt = s.mnt := by rw [hunits]; rfl
  have hlen := firstManifest_length pl
  have hzero : (w.wrBytes (loftAddr d.mtile 0xE0000) pl.firstManifest).rdW h.addr = 0 := by
    unfold State.rdW State.rdNat
    rw [hw.addr, Wrote.rd_prefix (rdByte_wrBytes pl.firstManifest w _) (by omega), firstManifest_step]
    rfl
  have hwait : Replied w (w.wr (loftAddr d.mtile 0xE0000) pl.firstManifest) h.ref 0 [0, 0] := by
    have hrep := wr_replied (s := w) (a := loftAddr d.mtile 0xE0000) (bs := pl.firstManifest) (h := h) (by rw [hcmd, hw.waits])
      (by rw [hw.addr]; omega) (by rw [hzero]; simp [HostWait.met, hw.eq, hw.val])
    rw [hzero] at hrep
    exact hrep
  have hlaunch := reply_replied (w.wr (loftAddr d.mtile 0xE0000) pl.firstManifest) r 0 [0] hhp
  have hheld := replied_congr (congrArg Cmd.fns hcmd) hmnt hwait (by rw [hfn.1]; exact hhp)
  rw [hfn.1, hfn.2] at hheld
  have hmnt' : (w.wr (loftAddr d.mtile 0xE0000) pl.firstManifest).mnt = s.mnt := by
    rw [(wr_writeOnly w _ _).rest, hmnt]
  exact ⟨_, hexec, by rw [hlaunch, hheld, answerTo_congr hmnt']⟩

/-- The command of a function of partition 0, by port 0. -/
def hostCmd (opc tag : Nat) : CmdRef := { hp := 0, fn := 1, tag := word tag, opc := opc, irq := false, part := 0 }

/-- A SYNC_WAIT for 0 in the word of the manifest's step, on tile 0 of the lead. -/
def stepWait : HostWait := { ref := hostCmd 0x0A 1, addr := loftAddr 0 0xE0000, val := 0, eq := true, till := none }

/-- A serving group of device 5 alone, whose manifest tile is tile 0. -/
def leadDesc : ServDesc :=
  { lead := 5, nmem := 1, mtile := 0, shm1 := 0, layers := 1, cwin := 1000, midx := 0, ordq := 0x800000, stks := [] }

/-- A serving plan of one shape, of one course. -/
def leadPlan : Plan :=
  { routedPlan with
    routes := [], serv := some leadDesc,
    shapes := [{ tb := 64, nc := 1, firstc := 0, lanes := 8, pgblk := 1, win := 1, dur := 10000, cmax := 64, lctx := 1024, maxent := 8 }] }

/-- Device 5 at T of the LAUNCH of its partition 0, to which tile 0 is bound: a manifest of step 1 of an earlier run still stands in the Loft, and
the host waits until the step there is 0. -/
def awaitedFiring : State :=
  { State.reset with
    fab := { Fab.reset with devid := 5 }, mnt := { Mnt.reset with now := 1000000, up := 2000000, run := true, td := .track },
    hrt := { Hearth.reset with bind := [(0x000, 0x40)] }, mem := [(loftAddr 0 0xE0000, 1)], cmd := { Cmd.reset with waits := [stepWait] },
    parts := [(0, { Part.reset with
      plan := some leadPlan, ltRoot := true,
      launch := { Launch.reset with st := .confirmed, lid := 1, t := 1000000, root := 5, reply := some (hostCmd 0x05 2) } })] }

theorem awaitedFiring_fires : LeadFires awaitedFiring 0 leadPlan leadDesc (hostCmd 0x05 2) := ⟨rfl, Nat.le_refl 1000000, rfl, rfl, rfl, rfl⟩

theorem awaitedFiring_waits : AwaitsStep0 awaitedFiring leadDesc stepWait := ⟨rfl, rfl, rfl, rfl⟩

/-- The word that the host waits on is one that SYNC_WAIT may name, and does not satisfy the wait before the firing (R463). -/
theorem awaitedFiring_unmet : awaitedFiring.syncPlace 0 stepWait.addr = true ∧ stepWait.met (awaitedFiring.rdW stepWait.addr) = false := by
  decide +kernel

/-- Refutes O42: at T of `awaitedFiring` LAUNCH_FIRE forms two replies for the function, that of the SYNC_WAIT which the placed manifest satisfies
and that of the LAUNCH, where the statement has the LAUNCH's alone join those held before. -/
theorem not_launchProtocol : ¬ Obligations.LaunchProtocol := by
  intro h
  obtain ⟨-, hparts⟩ := h awaitedFiring 0
  obtain ⟨-, -, hfire⟩ := hparts 0
  obtain ⟨u, hu, -, -, -, -, -, hreplied, -⟩ := hfire awaitedFiring_fires.st awaitedFiring_fires.due
  have hone := hreplied _ awaitedFiring_fires.reply (by decide)
  obtain ⟨w, hw, htwo⟩ := launchFire_lead_replies awaitedFiring_fires awaitedFiring_waits ⟨rfl, rfl⟩ (by decide)
  obtain rfl : u = w := Host.Outcome.next.inj (hu.symm.trans hw)
  have hlen := congrArg List.length (hone.symm.trans htwo)
  simp at hlen

end Sys2Proof
end
